-- ==== Sys2Proof/Word.lean ====
section
/-! DEFINITION. The word types of the KW2 and their plainest arithmetic (R19, R34). -/

namespace Sys2Proof

/-- A byte of storage. -/
abbrev Byte := BitVec 8

/-- A 32-bit element: an instruction word, an f32 or an i32 (R20, R34). -/
abbrev Half := BitVec 32

/-- A general register (R37). -/
abbrev Word := BitVec 64

/-- A 64-byte block: a sector, a burst, a flit's payload (R9, R183). -/
abbrev Line := BitVec 512

/-- `x` cut or zero-extended to a register. -/
abbrev toWord {n : Nat} (x : BitVec n) : Word := x.setWidth 64

end Sys2Proof
end

