-- ==== Sys2Proof/Syntax/Types.lean ====
section
/-! DEFINITION. The data that instructions and steps carry: register fields, guards, and the payloads of the
packets, flits, frames and records that the steps of the opcode table act on. -/

namespace Sys2Proof

/-- A 5-bit general register field (R37). -/
abbrev Reg := BitVec 5
/-- A 4-bit predicate field (R37). -/
abbrev Pred := BitVec 4
/-- A 3-bit vector register field (R37). -/
abbrev VReg := BitVec 3

/-- The guard of every format except L (R34): the instruction executes when p[pg] xor gn = 1. -/
structure Guard where
  pg : BitVec 4
  gn : Bool
  deriving DecidableEq, Repr, Inhabited

/-- Storage named by an access after translation: a local-store offset of a tile, or a domain and an offset of a
partition (R49, R57). The owner of the latter is found under the descriptor in force where the packet stands (R58).
`tm` is an offset of a tile's memory that the descriptors of a switched-out function of a partition give the host (R269,
R293). -/
inductive Target where
  | ls (tile off : Nat)
  | md (part dom off : Nat)
  | tm (part tile off : Nat)
  deriving DecidableEq, Repr, Inhabited

/-- The read-modify-write functions of R118 and R119 by code, the arrival of R139, the decrement of R137. -/
inductive Rmw where
  | add | and | or | xor | min | mins | max | maxs | swap | cas | st | arrive | dec
  deriving DecidableEq, Repr, Inhabited

/-- Who waits for the answer of a request (R248). -/
inductive Agent where
  | reg (uid id reg : Nat) (signed : Bool)
  | word (uid : Nat) (idx : Nat)
  | line (uid piece : Nat)
  | walker (walk : Nat)
  | icache (tile : Nat) (fill : Nat)
  | table (tile ch tag : Nat)
  | burst (tile tag : Nat)
  | join (uid idx : Nat)
  | round (id : Nat)
  | op (uid : Nat)
  | job (id : Nat)
  deriving DecidableEq, Repr, Inhabited

/-- What a request does at the owner. -/
inductive ReqOp where
  | load (n : Nat)
  | write (bytes : List Byte)
  | rmw (f : Rmw) (n : Nat) (b e : Word)
  deriving DecidableEq, Repr, Inhabited

/-- A request packet, kind 2 (R247). `va` is the address that a failure reports; `lin`, `sup` are those of the
strand it belongs to; `bad` marks an uncorrectable payload (R254). -/
structure Req where
  src : Nat
  dst : Nat
  tgt : Target
  va : Word
  op : ReqOp
  agent : Agent
  lin : BitVec 16
  sup : Bool
  bad : Bool
  deriving DecidableEq, Repr, Inhabited

/-- The answer to a request: the bytes read, little-endian, or the cause of a failure (R116). -/
inductive Answer where
  | data (bytes : List Byte)
  | fail (cause : Nat)
  deriving DecidableEq, Repr, Inhabited

/-- A response packet, kind 3. -/
structure Resp where
  agent : Agent
  va : Word
  ans : Answer
  deriving DecidableEq, Repr, Inhabited

/-- What a join continuation takes of the last joining strand beside its lineage, class and mode (R68). -/
structure Heir where
  tvec : BitVec 48
  plim : BitVec 8
  pmin : BitVec 16
  phold : BitVec 32
  deriving DecidableEq, Repr, Inhabited

/-- What a posted operation does: a read-modify-write of a word, the bytes of a `vst` piece at their offsets within the
block (R164), or the decrement of a join record whose continuation words are named (R137). -/
inductive PostOp where
  | rmw (f : Rmw) (n : Nat) (b : Word)
  | piece (bytes : List (Nat × Byte))
  | join (cpc carg : Target) (heir : Heir)
  deriving DecidableEq, Repr, Inhabited

/-- A posted operation, kind 4 (R119). -/
structure Post where
  src : Nat
  dst : Nat
  tgt : Target
  va : Word
  op : PostOp
  uid : Nat
  num : Nat
  lin : BitVec 16
  sup : Bool
  cls : BitVec 2
  bad : Bool
  deriving DecidableEq, Repr, Inhabited

/-- A context in flight: a migration, a `spawnat` child, or the context of a pinned strand that travels to park or
back home (R81, R128, R142). `reserved` marks a packet sent again into a reserved slot (R78), `go` one that `go`
sends (R129), `bad` one whose payload is uncorrectable (R89), and `tgt` is what the access that moves it names, by
which a tile that no longer owns it sends it on (R58). -/
structure Mig where
  uid : Nat
  src : Nat
  dst : Nat
  age : Nat
  reserved : Bool
  go : Bool
  bad : Bool
  tgt : Option Target
  deriving DecidableEq, Repr, Inhabited

/-- An engine write, kind 6 (R178, R179, R182): 64 bytes, poisoned or not, or a completion arrival. -/
structure EWrite where
  src : Nat
  dst : Nat
  tgt : Target
  va : Word
  data : Option (List Byte)
  poisoned : Bool
  ch : Nat
  tag : Nat
  lin : BitVec 16
  sup : Bool
  deriving DecidableEq, Repr, Inhabited

/-- A burst that has come back (R183): its read tag and its bytes, or how the read failed. -/
structure Burst where
  tile : Nat
  tag : Nat
  ans : Answer
  deriving DecidableEq, Repr, Inhabited

/-- A bind flit (R230). -/
structure Bind where
  src : Nat
  ch : Nat
  dst : Nat
  pch : Nat
  ih : Nat
  sbytes : Nat
  consumed : BitVec 32
  lin : BitVec 16
  deriving DecidableEq, Repr, Inhabited

/-- A bind reply (R230). `bad` marks an uncorrectable payload. -/
structure BindReply where
  tile : Nat
  src : Nat
  ch : Nat
  result : Nat
  count : Nat
  produced : BitVec 32
  consumed : BitVec 32
  bad : Bool
  deriving DecidableEq, Repr, Inhabited

/-- An exchange data flit, kind 7 (R231). `bad` marks an uncorrectable payload. -/
structure XFlit where
  src : Nat
  dst : Nat
  ch : Nat
  flit : Nat
  index : BitVec 32
  last : Bool
  bytes : List Byte
  bad : Bool
  deriving DecidableEq, Repr, Inhabited

/-- A permit, kind 8 (R233). `bad` marks a payload that fails its check. -/
structure Permit where
  dst : Nat
  ch : Nat
  landed : BitVec 32
  consumed : BitVec 32
  resync : Bool
  bad : Bool
  deriving DecidableEq, Repr, Inhabited

/-- A supervisor message (R262, R263). -/
structure Msg where
  m0 : Word
  m1 : Word
  m2 : Word
  m3 : Word
  deriving DecidableEq, Repr, Inhabited

/-- A range operation of a tile cache (R276). -/
structure CacheOp where
  tile : Nat
  off : Nat
  len : Nat
  inval : Bool
  uid : Nat
  deriving DecidableEq, Repr, Inhabited

/-- An interleave-domain descriptor (R56): owners in order, size in 4 KiB units, base. -/
structure Desc where
  list : List Nat
  size : Nat
  base : Nat
  deriving DecidableEq, Repr, Inhabited

/-- A partition-wide flit round: the number of the round that it belongs to, and the tile it reaches. -/
structure Round where
  id : Nat
  tile : Nat
  deriving DecidableEq, Repr, Inhabited

/-- An access to a CSR of another tile (R282). -/
structure CsrReq where
  tile : Nat
  num : Nat
  op : Nat
  val : Word
  uid : Nat
  reg : Nat
  id : Nat
  deriving DecidableEq, Repr, Inhabited

/-- What `sres` and `sredir` do at the strand's tile (R280). -/
structure SresReq where
  sid : BitVec 32
  tile : Nat
  redir : Bool
  uid : Nat
  deriving DecidableEq, Repr, Inhabited

/-- What `fres` and `fabt` do at the channel (R194). -/
structure FresReq where
  tile : Nat
  ch : Nat
  id : BitVec 32
  abort : Bool
  uid : Nat
  deriving DecidableEq, Repr, Inhabited

/-- A launch record (R290, R293). -/
structure Launch where
  part : Nat
  pc : BitVec 48
  g0 : Word
  g1 : Word
  g2 : Word
  cls : BitVec 2
  lin : BitVec 16
  t0 : Nat
  tn : Nat
  deriving DecidableEq, Repr, Inhabited

/-- Everything that travels between tiles as a packet (R247). -/
inductive Packet where
  | mig (m : Mig) | spawnat (m : Mig) | parkCtx (m : Mig) | ctxReturn (m : Mig)
  | req (r : Req) | resp (r : Resp) | post (p : Post)
  | ack (uid num : Nat) | refusal (uid num : Nat) (va : Word)
  | ewrite (w : EWrite) | ewriteAck (tile ch tag : Nat) (refused : Option Nat)
  | admission (uid tile : Nat) | refused (uid tile : Nat) (listed : Bool) (forGood : Bool) | call (uid tile : Nat)
  | bind (b : Bind) | bindReply (b : BindReply) | xdata (f : XFlit) | permit (p : Permit)
  | resync (tile ch : Nat) | xerror (tile ch : Nat) (ek : BitVec 2) | closeReq (tile ch : Nat)
  | unbind (tile ch : Nat) | unbindReply (tile ch : Nat)
  | cancel (r : Round) | cancelAck (id : Nat) | sweep (r : Round) | marker (r : Round) | cancelFinal (id : Nat)
  | tlbi (r : Round) | roundAck (id : Nat) | domHold (r : Round) | domDesc (r : Round) | cacheOp (c : CacheOp)
  | opAck (uid : Nat) (val : Word)
  | csr (c : CsrReq) | sres (r : SresReq) | fres (r : FresReq)
  | preempt (r : Round) | preemptAck (r : Round) | restore (r : Round)
  | message (die : Nat) (m : Msg) (bad : Bool)
  | orderCount (src dst : Nat) (count : BitVec 8)
  deriving DecidableEq, Repr, Inhabited

/-- The header of a flit (R246); bits [31:28] are zero. -/
structure FlitHeader where
  age : BitVec 8
  seq : BitVec 8
  fi : BitVec 2
  nf : BitVec 2
  kind : BitVec 4
  dst : BitVec 12
  src : BitVec 12
  lin : BitVec 16
  ctx : BitVec 32
  ap : Bool
  pecc : BitVec 11
  crc : BitVec 16
  deriving DecidableEq, Repr, Inhabited

/-- A flit at the port of its destination die (R245, R249): its pair, its header, how often it was re-injected there, and
the packet that it belongs to. -/
structure PortFlit where
  src : Nat
  dst : Nat
  hdr : FlitHeader
  extra : Nat
  pkt : Packet
  deriving DecidableEq, Repr, Inhabited

/-- Where an uncorrectable error shows (R62, R64, R156, R213, R254): a sector of a tile's memory, a sector that its cache
holds, a word of its local store, an element of a vector register, an accumulator element, or the payload of the `n`-th event under way. -/
inductive ErrorAt where
  | sector (tile n : Nat)
  | cached (tile n : Nat)
  | lsWord (tile n : Nat)
  | element (tile core v n : Nat)
  | accum (tile n : Nat)
  | flight (n : Nat)
  deriving DecidableEq, Repr, Inhabited

/-- What a peer module sends over a Gorrex link: accesses to this module's exported window and the answers to this
module's own accesses (R59, R250). -/
inductive PeerMsg where
  | load (n off tag : Nat)
  | rmw (f : Rmw) (n off tag : Nat) (b e : Word)
  | post (f : Rmw) (n off tag : Nat) (b : Word)
  | data (tag : Nat) (v : Word)
  | fail (tag cause : Nat)
  | ack (tag : Nat)
  deriving DecidableEq, Repr, Inhabited

/-- What a frame says beside its flits and its acknowledgement: nothing, a resynchronisation request, or the answer to
one (R253). -/
inductive FrameCtl where
  | none | request | answer
  deriving DecidableEq, Repr, Inhabited

/-- A Gorrex frame (R252): sender's module, its number, the acknowledgement it carries, whether its check passes,
whether it carries no flits and is not counted (idle), what it says for resynchronisation, and its flits, each with its
source, its pair number and its message (R250). -/
structure Frame where
  peer : Nat
  seq : BitVec 16
  ack : BitVec 16
  ok : Bool
  idle : Bool
  ctl : FrameCtl
  msgs : List (Nat × BitVec 8 × PeerMsg)
  deriving DecidableEq, Repr, Inhabited

/-- One mode of a link direction (R251). -/
inductive LinkMode where
  | full | nrz | half | halfNrz | down
  deriving DecidableEq, Repr, Inhabited

/-- A received Ethernet frame (R285): its port, and its bytes from the destination address to the frame check sequence. -/
structure EthFrame where
  port : Nat
  bytes : List Byte
  deriving DecidableEq, Repr, Inhabited

/-- An address of the Internet Protocol (R285, R289): whether it is of version 6, and its number in two words, the low one
first. -/
structure IpAddr where
  v6 : Bool
  lo : Word
  hi : Word
  deriving DecidableEq, Repr, Inhabited

/-- The words of a service-table entry that the host writes (R286). -/
structure SvcWords where
  w0 : Word
  w1 : Word
  w2 : Word
  w3 : Word
  w4 : Word
  deriving DecidableEq, Repr, Inhabited

/-- A Driber image as the loader takes it (R45, R46): configuration, domains with their tile lists, bytes placed by
address (`.text` ones marked), local-store bytes, launches. -/
structure Image where
  part : Nat
  config : List (Nat × Word)
  domains : List (Nat × List Nat)
  bytes : List (Nat × Bool × List Byte)
  lstore : List (Nat × Nat × List Byte)
  launches : List Launch
  deriving DecidableEq, Repr, Inhabited

/-- What a signed configuration record sets (R294): the module number, the harvest map of a die, a tile retired, with a
replacement or without (R82), the partition of a tile, the link set to a module, a partition that holds a link set (R265), the trim
of a lane, the partition exported to peers (R59), and an Ethernet port's addresses (R288, R292). -/
inductive Setting where
  | modnum (n : BitVec 12)
  | harvest (die map : Nat)
  | retire (tile : Nat) (replacement : Option Nat)
  | member (tile part : Nat)
  | linkSet (module : Nat) (links : List Nat)
  | linkPart (part : Nat)
  | trim (link lane value : Nat)
  | exported (part : Nat)
  | port (n : Nat) (mac : BitVec 48) (ips : List IpAddr)
  deriving DecidableEq, Repr, Inhabited

/-- What the carrier flash or the host offers at boot (R294): the firmware image with its signature, and the signed
configuration records, each with its signature. -/
structure Firmware where
  bytes : List Byte
  sig : List Byte
  config : List (List Byte × List Byte)
  deriving DecidableEq, Repr, Inhabited

/-- The host's access through a function's window (R293). -/
structure HostAccess where
  fn : Nat
  va : Word
  bytes : List Byte
  write : Bool
  len : Nat
  deriving DecidableEq, Repr, Inhabited

/-- The binding of a virtual function, or the slice program of a partition (R293). -/
structure Binding where
  fn : Nat
  part : Option Nat
  order : List Nat
  slices : List Nat
  ptbase : Word
  deriving DecidableEq, Repr, Inhabited

end Sys2Proof
end

