-- ==== Sys2Proof/Syntax.lean ====
section
/-! DEFINITION. The instructions of the KW2 and the steps of its machine: one constructor for each row of the table
of operations and events. An encoded instruction carries the fields of its word (R39) but for the guard, which every
format except L has in one place and which is applied before the instruction executes (R34, R35). Letters: `d` `a` `b`
`r` `s` register fields, `i` an immediate, `o` an offset, `l` a lane pattern, `t` a type or an agent, `c` a code, a
channel or a CSR number, `h` a handle. The rows without bits are steps of the machine; the data that such a step acts
on is the event under way in the state. Constructors with fields stand first. -/

namespace Sys2Proof

inductive Instr where
  /-- R93: Raises a precise software trap with cause 0x0C and the code in tval. -/
  | trap (c : BitVec 10)
  /-- R95: Reads the module cycle counter into rd. -/
  | rdcyc (d : BitVec 5)
  /-- R126: Reads outcnt into rd. -/
  | rdout (d : BitVec 5)
  /-- R126: Reads the posted-operation sequence counter into rd. -/
  | pseq (d : BitVec 5)
  /-- R96: Supervisor call with cause 0x10; the strand waits for the supervisor. -/
  | svc (c : BitVec 10)
  /-- R97: rd := a + b modulo 2^64. -/
  | add (d : BitVec 5) (a : BitVec 5) (b : BitVec 5)
  /-- R97: rd := a - b modulo 2^64. -/
  | sub (d : BitVec 5) (a : BitVec 5) (b : BitVec 5)
  /-- R97: rd := the low 64 bits of a times b. -/
  | mul (d : BitVec 5) (a : BitVec 5) (b : BitVec 5)
  /-- R97: rd := the unsigned high 64 bits of a times b. -/
  | mulh (d : BitVec 5) (a : BitVec 5) (b : BitVec 5)
  /-- R97: rd := the signed high 64 bits of a times b. -/
  | mulhs (d : BitVec 5) (a : BitVec 5) (b : BitVec 5)
  /-- R97: Unsigned division by R27. -/
  | div (d : BitVec 5) (a : BitVec 5) (b : BitVec 5)
  /-- R97: Signed division truncated toward zero, by R27. -/
  | divs (d : BitVec 5) (a : BitVec 5) (b : BitVec 5)
  /-- R97: Unsigned remainder by R27. -/
  | rem (d : BitVec 5) (a : BitVec 5) (b : BitVec 5)
  /-- R97: Signed remainder by R27. -/
  | rems (d : BitVec 5) (a : BitVec 5) (b : BitVec 5)
  /-- R97: Bitwise and. -/
  | and (d : BitVec 5) (a : BitVec 5) (b : BitVec 5)
  /-- R97: Bitwise or. -/
  | or (d : BitVec 5) (a : BitVec 5) (b : BitVec 5)
  /-- R97: Bitwise exclusive or. -/
  | xor (d : BitVec 5) (a : BitVec 5) (b : BitVec 5)
  /-- R97: rd := a and not b. -/
  | andn (d : BitVec 5) (a : BitVec 5) (b : BitVec 5)
  /-- R97: Shift left by b[5:0]. -/
  | shl (d : BitVec 5) (a : BitVec 5) (b : BitVec 5)
  /-- R97: Logical shift right by b[5:0]. -/
  | shr (d : BitVec 5) (a : BitVec 5) (b : BitVec 5)
  /-- R97: Arithmetic shift right by b[5:0]. -/
  | sra (d : BitVec 5) (a : BitVec 5) (b : BitVec 5)
  /-- R97: Rotate left by b[5:0]. -/
  | rol (d : BitVec 5) (a : BitVec 5) (b : BitVec 5)
  /-- R97: Unsigned minimum. -/
  | min (d : BitVec 5) (a : BitVec 5) (b : BitVec 5)
  /-- R97: Signed minimum. -/
  | mins (d : BitVec 5) (a : BitVec 5) (b : BitVec 5)
  /-- R97: Unsigned maximum. -/
  | max (d : BitVec 5) (a : BitVec 5) (b : BitVec 5)
  /-- R97: Signed maximum. -/
  | maxs (d : BitVec 5) (a : BitVec 5) (b : BitVec 5)
  /-- R97: Counts leading zero bits. -/
  | clz (d : BitVec 5) (a : BitVec 5)
  /-- R97: Counts trailing zero bits. -/
  | ctz (d : BitVec 5) (a : BitVec 5)
  /-- R97: Counts one bits. -/
  | popc (d : BitVec 5) (a : BitVec 5)
  /-- R97: Sign-extends the low byte. -/
  | sxb (d : BitVec 5) (a : BitVec 5)
  /-- R97: Sign-extends the low halfword. -/
  | sxh (d : BitVec 5) (a : BitVec 5)
  /-- R97: Sign-extends the low word. -/
  | sxw (d : BitVec 5) (a : BitVec 5)
  /-- R97: Zero-extends the low word. -/
  | zxw (d : BitVec 5) (a : BitVec 5)
  /-- R97: 32-bit add, sign-extended. -/
  | addw (d : BitVec 5) (a : BitVec 5) (b : BitVec 5)
  /-- R97: 32-bit subtract, sign-extended. -/
  | subw (d : BitVec 5) (a : BitVec 5) (b : BitVec 5)
  /-- R97: 32-bit multiply, sign-extended. -/
  | mulw (d : BitVec 5) (a : BitVec 5) (b : BitVec 5)
  /-- R97: Signed saturating add. -/
  | adds (d : BitVec 5) (a : BitVec 5) (b : BitVec 5)
  /-- R97: Signed saturating subtract. -/
  | subs (d : BitVec 5) (a : BitVec 5) (b : BitVec 5)
  /-- R97: Reverses the byte order. -/
  | bswp (d : BitVec 5) (a : BitVec 5)
  /-- R98: Adds a sign-extended 11-bit immediate. -/
  | addi (d : BitVec 5) (a : BitVec 5) (i : BitVec 11)
  /-- R98: Ands with a sign-extended immediate. -/
  | andi (d : BitVec 5) (a : BitVec 5) (i : BitVec 11)
  /-- R98: Ors with a sign-extended immediate. -/
  | ori (d : BitVec 5) (a : BitVec 5) (i : BitVec 11)
  /-- R98: Exclusive-ors with a sign-extended immediate. -/
  | xori (d : BitVec 5) (a : BitVec 5) (i : BitVec 11)
  /-- R98: Multiplies by a sign-extended immediate. -/
  | muli (d : BitVec 5) (a : BitVec 5) (i : BitVec 11)
  /-- R99: Shift left by an immediate amount. -/
  | shli (d : BitVec 5) (a : BitVec 5) (m : BitVec 6)
  /-- R99: Logical shift right by an immediate amount. -/
  | shri (d : BitVec 5) (a : BitVec 5) (m : BitVec 6)
  /-- R99: Arithmetic shift right by an immediate amount. -/
  | srai (d : BitVec 5) (a : BitVec 5) (m : BitVec 6)
  /-- R99: Rotate left by an immediate amount. -/
  | roli (d : BitVec 5) (a : BitVec 5) (m : BitVec 6)
  /-- R100: Sets the predicate when a = b, register form. -/
  | cmpEq (p : BitVec 4) (a : BitVec 5) (b : BitVec 5)
  /-- R100: Sets the predicate when a = imm7. -/
  | cmpEqImm (p : BitVec 4) (a : BitVec 5) (i : BitVec 7)
  /-- R100: Sets the predicate when a differs from b. -/
  | cmpNe (p : BitVec 4) (a : BitVec 5) (b : BitVec 5)
  /-- R100: Sets the predicate when a differs from imm7. -/
  | cmpNeImm (p : BitVec 4) (a : BitVec 5) (i : BitVec 7)
  /-- R100: Signed less-than, register form. -/
  | cmpLt (p : BitVec 4) (a : BitVec 5) (b : BitVec 5)
  /-- R100: Signed less-than against imm7. -/
  | cmpLtImm (p : BitVec 4) (a : BitVec 5) (i : BitVec 7)
  /-- R100: Signed greater-or-equal, register form. -/
  | cmpGe (p : BitVec 4) (a : BitVec 5) (b : BitVec 5)
  /-- R100: Signed greater-or-equal against imm7. -/
  | cmpGeImm (p : BitVec 4) (a : BitVec 5) (i : BitVec 7)
  /-- R100: Unsigned less-than, register form. -/
  | cmpLtu (p : BitVec 4) (a : BitVec 5) (b : BitVec 5)
  /-- R100: Unsigned less-than against the sign-extended imm7. -/
  | cmpLtuImm (p : BitVec 4) (a : BitVec 5) (i : BitVec 7)
  /-- R100: Unsigned greater-or-equal, register form. -/
  | cmpGeu (p : BitVec 4) (a : BitVec 5) (b : BitVec 5)
  /-- R100: Unsigned greater-or-equal against imm7. -/
  | cmpGeuImm (p : BitVec 4) (a : BitVec 5) (i : BitVec 7)
  /-- R100: Signed greater-than, register form. -/
  | cmpGt (p : BitVec 4) (a : BitVec 5) (b : BitVec 5)
  /-- R100: Signed greater-than against imm7. -/
  | cmpGtImm (p : BitVec 4) (a : BitVec 5) (i : BitVec 7)
  /-- R100: Signed less-or-equal, register form. -/
  | cmpLe (p : BitVec 4) (a : BitVec 5) (b : BitVec 5)
  /-- R100: Signed less-or-equal against imm7. -/
  | cmpLeImm (p : BitVec 4) (a : BitVec 5) (i : BitVec 7)
  /-- R100: Unsigned greater-than, register form. -/
  | cmpGtu (p : BitVec 4) (a : BitVec 5) (b : BitVec 5)
  /-- R100: Unsigned greater-than against imm7. -/
  | cmpGtuImm (p : BitVec 4) (a : BitVec 5) (i : BitVec 7)
  /-- R100: Unsigned less-or-equal, register form. -/
  | cmpLeu (p : BitVec 4) (a : BitVec 5) (b : BitVec 5)
  /-- R100: Unsigned less-or-equal against imm7. -/
  | cmpLeuImm (p : BitVec 4) (a : BitVec 5) (i : BitVec 7)
  /-- R100: Sets the predicate when a and b is nonzero. -/
  | cmpTst (p : BitVec 4) (a : BitVec 5) (b : BitVec 5)
  /-- R100: Sets the predicate when a and imm7 is nonzero. -/
  | cmpTstImm (p : BitVec 4) (a : BitVec 5) (i : BitVec 7)
  /-- R100: Sets the predicate when a and b is zero. -/
  | cmpNtst (p : BitVec 4) (a : BitVec 5) (b : BitVec 5)
  /-- R100: Sets the predicate when a and imm7 is zero. -/
  | cmpNtstImm (p : BitVec 4) (a : BitVec 5) (i : BitVec 7)
  /-- R100: f32 equality; false on NaN. -/
  | cmpFeq (p : BitVec 4) (a : BitVec 5) (b : BitVec 5)
  /-- R100: f32 less-than; false on NaN. -/
  | cmpFlt (p : BitVec 4) (a : BitVec 5) (b : BitVec 5)
  /-- R100: f32 less-or-equal; false on NaN. -/
  | cmpFle (p : BitVec 4) (a : BitVec 5) (b : BitVec 5)
  /-- R100: True when either f32 operand is NaN. -/
  | cmpFunord (p : BitVec 4) (a : BitVec 5) (b : BitVec 5)
  /-- R101: Predicate and. -/
  | pand (d : BitVec 4) (a : BitVec 4) (b : BitVec 4)
  /-- R101: Predicate or. -/
  | por (d : BitVec 4) (a : BitVec 4) (b : BitVec 4)
  /-- R101: Predicate exclusive or. -/
  | pxor (d : BitVec 4) (a : BitVec 4) (b : BitVec 4)
  /-- R101: Predicate and-not. -/
  | pandn (d : BitVec 4) (a : BitVec 4) (b : BitVec 4)
  /-- R101: Predicate not. -/
  | pnot (d : BitVec 4) (a : BitVec 4)
  /-- R101: Copies all predicates into a general register. -/
  | pget (d : BitVec 5)
  /-- R101: Sets p1 to p15 from a general register. -/
  | pput (a : BitVec 5)
  /-- R102: Moves a shifted 16-bit immediate, zeroing the other bits. -/
  | movz (d : BitVec 5) (h : BitVec 2) (i : BitVec 16)
  /-- R102: Inserts a 16-bit immediate into one halfword of rd. -/
  | movk (d : BitVec 5) (h : BitVec 2) (i : BitVec 16)
  /-- R103: PC-relative branch. -/
  | br (o : BitVec 21)
  /-- R103: PC-relative call that writes g23. -/
  | call (o : BitVec 21)
  /-- R104: Jumps to a register target, checked for alignment and range. -/
  | jr (a : BitVec 5)
  /-- R104: Register call that writes the link to rd. -/
  | jcall (d : BitVec 5) (a : BitVec 5)
  /-- R105: f32 add with RNE. -/
  | fadd (d : BitVec 5) (a : BitVec 5) (b : BitVec 5)
  /-- R105: f32 subtract. -/
  | fsub (d : BitVec 5) (a : BitVec 5) (b : BitVec 5)
  /-- R105: f32 multiply. -/
  | fmul (d : BitVec 5) (a : BitVec 5) (b : BitVec 5)
  /-- R105: f32 fused multiply-add into rd. -/
  | fma (d : BitVec 5) (a : BitVec 5) (b : BitVec 5)
  /-- R105: f32 maximum by R24. -/
  | fmax (d : BitVec 5) (a : BitVec 5) (b : BitVec 5)
  /-- R105: f32 minimum by R24. -/
  | fmin (d : BitVec 5) (a : BitVec 5) (b : BitVec 5)
  /-- R105: f32 absolute value. -/
  | fabs (d : BitVec 5) (a : BitVec 5)
  /-- R105: f32 negation. -/
  | fneg (d : BitVec 5) (a : BitVec 5)
  /-- R105: f32 divide. -/
  | fdiv (d : BitVec 5) (a : BitVec 5) (b : BitVec 5)
  /-- R105: Correctly rounded f32 square root. -/
  | fsqrt (d : BitVec 5) (a : BitVec 5)
  /-- R105: Correctly rounded f32 reciprocal square root. -/
  | frsqrt (d : BitVec 5) (a : BitVec 5)
  /-- R105: Correctly rounded f32 reciprocal. -/
  | frcp (d : BitVec 5) (a : BitVec 5)
  /-- R105: Correctly rounded 2^x. -/
  | fexp2 (d : BitVec 5) (a : BitVec 5)
  /-- R105: Correctly rounded log2 x. -/
  | flog2 (d : BitVec 5) (a : BitVec 5)
  /-- R106: Converts i64 to f32 with RNE. -/
  | itof (d : BitVec 5) (a : BitVec 5)
  /-- R106: Converts f32 to i64 with RNE, saturating. -/
  | ftoiRne (d : BitVec 5) (a : BitVec 5)
  /-- R106: Converts f32 to i64 toward zero. -/
  | ftoiRz (d : BitVec 5) (a : BitVec 5)
  /-- R106: Converts f32 to i64 toward minus infinity. -/
  | ftoiDn (d : BitVec 5) (a : BitVec 5)
  /-- R107: Windowed group sum of four bf16 products into an f32 accumulator. -/
  | bfdot4 (d : BitVec 5) (a : BitVec 5) (b : BitVec 5)
  /-- R107: Windowed group sum of eight e4m3 products into an f32 accumulator. -/
  | e4dot8 (d : BitVec 5) (a : BitVec 5) (b : BitVec 5)
  /-- R106: Narrows two f32 values to a bf16 pair. -/
  | bfpack (d : BitVec 5) (a : BitVec 5) (b : BitVec 5)
  /-- R106: Widens the low bf16 to f32. -/
  | bfunpk (d : BitVec 5) (a : BitVec 5)
  /-- R115: Byte load, zero-extended; local, by migration or by request. -/
  | ldb (d : BitVec 5) (a : BitVec 5) (i : BitVec 11)
  /-- R115: Halfword load, zero-extended. -/
  | ldh (d : BitVec 5) (a : BitVec 5) (i : BitVec 11)
  /-- R115: Word load, zero-extended. -/
  | ldw (d : BitVec 5) (a : BitVec 5) (i : BitVec 11)
  /-- R115: Doubleword load. -/
  | ldd (d : BitVec 5) (a : BitVec 5) (i : BitVec 11)
  /-- R115: Byte load, sign-extended. -/
  | ldbs (d : BitVec 5) (a : BitVec 5) (i : BitVec 11)
  /-- R115: Halfword load, sign-extended. -/
  | ldhs (d : BitVec 5) (a : BitVec 5) (i : BitVec 11)
  /-- R115: Word load, sign-extended. -/
  | ldws (d : BitVec 5) (a : BitVec 5) (i : BitVec 11)
  /-- R117: Byte store; local at issue, by migration, or posted. -/
  | stb (d : BitVec 5) (a : BitVec 5) (i : BitVec 11)
  /-- R117: Halfword store. -/
  | sth (d : BitVec 5) (a : BitVec 5) (i : BitVec 11)
  /-- R117: Word store. -/
  | stw (d : BitVec 5) (a : BitVec 5) (i : BitVec 11)
  /-- R117: Doubleword store. -/
  | std (d : BitVec 5) (a : BitVec 5) (i : BitVec 11)
  /-- R118: Returning atomic add at the owner. -/
  | aadd (d : BitVec 5) (a : BitVec 5) (b : BitVec 5) (z : Bool)
  /-- R118: Returning atomic and. -/
  | aand (d : BitVec 5) (a : BitVec 5) (b : BitVec 5) (z : Bool)
  /-- R118: Returning atomic or. -/
  | aor (d : BitVec 5) (a : BitVec 5) (b : BitVec 5) (z : Bool)
  /-- R118: Returning atomic exclusive or. -/
  | axor (d : BitVec 5) (a : BitVec 5) (b : BitVec 5) (z : Bool)
  /-- R118: Returning atomic unsigned minimum. -/
  | amin (d : BitVec 5) (a : BitVec 5) (b : BitVec 5) (z : Bool)
  /-- R118: Returning atomic signed minimum. -/
  | amins (d : BitVec 5) (a : BitVec 5) (b : BitVec 5) (z : Bool)
  /-- R118: Returning atomic unsigned maximum. -/
  | amax (d : BitVec 5) (a : BitVec 5) (b : BitVec 5) (z : Bool)
  /-- R118: Returning atomic signed maximum. -/
  | amaxs (d : BitVec 5) (a : BitVec 5) (b : BitVec 5) (z : Bool)
  /-- R118: Returning atomic swap. -/
  | aswap (d : BitVec 5) (a : BitVec 5) (b : BitVec 5) (z : Bool)
  /-- R118: Returning atomic compare-and-swap against the prior rd. -/
  | acas (d : BitVec 5) (a : BitVec 5) (b : BitVec 5) (z : Bool)
  /-- R119: Posted atomic add, counted in outcnt. -/
  | postAdd (a : BitVec 5) (b : BitVec 5) (z : Bool)
  /-- R119: Posted atomic and. -/
  | postAnd (a : BitVec 5) (b : BitVec 5) (z : Bool)
  /-- R119: Posted atomic or. -/
  | postOr (a : BitVec 5) (b : BitVec 5) (z : Bool)
  /-- R119: Posted atomic exclusive or. -/
  | postXor (a : BitVec 5) (b : BitVec 5) (z : Bool)
  /-- R119: Posted atomic unsigned minimum. -/
  | postMin (a : BitVec 5) (b : BitVec 5) (z : Bool)
  /-- R119: Posted atomic signed minimum. -/
  | postMins (a : BitVec 5) (b : BitVec 5) (z : Bool)
  /-- R119: Posted atomic unsigned maximum. -/
  | postMax (a : BitVec 5) (b : BitVec 5) (z : Bool)
  /-- R119: Posted atomic signed maximum. -/
  | postMaxs (a : BitVec 5) (b : BitVec 5) (z : Bool)
  /-- R119: Posted store. -/
  | postSt (a : BitVec 5) (b : BitVec 5) (z : Bool)
  /-- R121: Waits for prior loads and for acknowledgements in its scope and set. -/
  | fenceRel (t : BitVec 3) (x : Bool) (m : Bool) (l : Bool)
  /-- R121: Waits for prior loads and returning atomics. -/
  | fenceAcq (t : BitVec 3) (x : Bool) (m : Bool) (l : Bool)
  /-- R121: Combines release and acquire. -/
  | fenceFull (t : BitVec 3) (x : Bool) (m : Bool) (l : Bool)
  /-- R122: Compares a word at its owner and parks in the watch table if it equals v. -/
  | park (a : BitVec 5) (b : BitVec 5)
  /-- R127: Creates a child strand on this tile. -/
  | spawn (d : BitVec 5) (a : BitVec 5) (b : BitVec 5)
  /-- R128: Creates a child at the owner of its argument. -/
  | spawnat (d : BitVec 5) (a : BitVec 5) (b : BitVec 5)
  /-- R129: Migrates the strand to the owner of an address. -/
  | go (a : BitVec 5)
  /-- R137: Posts a decrement of a join record and retires; the decrement to zero births the continuation. -/
  | join (a : BitVec 5)
  /-- R133: Starts the cancellation protocol for a lineage family. -/
  | cancel (a : BitVec 5) (b : BitVec 5)
  /-- R131: Sets the priority class. -/
  | prio (a : BitVec 5)
  /-- R132: Narrows the strand's lineage within its family. -/
  | setlin (a : BitVec 5)
  /-- R139: Posted release arrival at a rendezvous record. -/
  | arrive (a : BitVec 5)
  /-- R140: Waits until the rendezvous phase differs from the one given. -/
  | await (a : BitVec 5) (b : BitVec 5)
  /-- R159: Element-wise f32 add. -/
  | vfadd (d : BitVec 3) (a : BitVec 3) (b : BitVec 3) (l : BitVec 4)
  /-- R159: Element-wise f32 subtract. -/
  | vfsub (d : BitVec 3) (a : BitVec 3) (b : BitVec 3) (l : BitVec 4)
  /-- R159: Element-wise f32 multiply. -/
  | vfmul (d : BitVec 3) (a : BitVec 3) (b : BitVec 3) (l : BitVec 4)
  /-- R159: Element-wise fused multiply-add into vd. -/
  | vfma (d : BitVec 3) (a : BitVec 3) (b : BitVec 3) (l : BitVec 4)
  /-- R159: Element-wise f32 maximum. -/
  | vfmax (d : BitVec 3) (a : BitVec 3) (b : BitVec 3) (l : BitVec 4)
  /-- R159: Element-wise f32 minimum. -/
  | vfmin (d : BitVec 3) (a : BitVec 3) (b : BitVec 3) (l : BitVec 4)
  /-- R159: Element-wise absolute value. -/
  | vfabs (d : BitVec 3) (b : BitVec 3) (l : BitVec 4)
  /-- R159: Element-wise negation. -/
  | vfneg (d : BitVec 3) (b : BitVec 3) (l : BitVec 4)
  /-- R159: Element-wise f32 divide. -/
  | vfdiv (d : BitVec 3) (a : BitVec 3) (b : BitVec 3) (l : BitVec 4)
  /-- R159: Element-wise f32 equal mask. -/
  | vfcmpEq (d : BitVec 3) (a : BitVec 3) (b : BitVec 3) (l : BitVec 4)
  /-- R159: Element-wise f32 less-than mask. -/
  | vfcmpLt (d : BitVec 3) (a : BitVec 3) (b : BitVec 3) (l : BitVec 4)
  /-- R159: Element-wise f32 less-or-equal mask. -/
  | vfcmpLe (d : BitVec 3) (a : BitVec 3) (b : BitVec 3) (l : BitVec 4)
  /-- R159: Element-wise i32 add. -/
  | viadd (d : BitVec 3) (a : BitVec 3) (b : BitVec 3) (l : BitVec 4)
  /-- R159: Element-wise i32 subtract. -/
  | visub (d : BitVec 3) (a : BitVec 3) (b : BitVec 3) (l : BitVec 4)
  /-- R159: Element-wise i32 multiply. -/
  | vimul (d : BitVec 3) (a : BitVec 3) (b : BitVec 3) (l : BitVec 4)
  /-- R159: Element-wise signed maximum. -/
  | vimax (d : BitVec 3) (a : BitVec 3) (b : BitVec 3) (l : BitVec 4)
  /-- R159: Element-wise signed minimum. -/
  | vimin (d : BitVec 3) (a : BitVec 3) (b : BitVec 3) (l : BitVec 4)
  /-- R159: Element-wise and. -/
  | vand (d : BitVec 3) (a : BitVec 3) (b : BitVec 3) (l : BitVec 4)
  /-- R159: Element-wise or. -/
  | vor (d : BitVec 3) (a : BitVec 3) (b : BitVec 3) (l : BitVec 4)
  /-- R159: Element-wise exclusive or. -/
  | vxor (d : BitVec 3) (a : BitVec 3) (b : BitVec 3) (l : BitVec 4)
  /-- R159: Element-wise shift left. -/
  | vshl (d : BitVec 3) (a : BitVec 3) (b : BitVec 3) (l : BitVec 4)
  /-- R159: Element-wise logical shift right. -/
  | vshr (d : BitVec 3) (a : BitVec 3) (b : BitVec 3) (l : BitVec 4)
  /-- R159: Element-wise arithmetic shift right. -/
  | vsra (d : BitVec 3) (a : BitVec 3) (b : BitVec 3) (l : BitVec 4)
  /-- R159: Element-wise integer equal mask. -/
  | vicmpEq (d : BitVec 3) (a : BitVec 3) (b : BitVec 3) (l : BitVec 4)
  /-- R159: Element-wise signed less-than mask. -/
  | vicmpLt (d : BitVec 3) (a : BitVec 3) (b : BitVec 3) (l : BitVec 4)
  /-- R159: Selects A where vd is nonzero, else B. -/
  | vsel (d : BitVec 3) (a : BitVec 3) (b : BitVec 3) (l : BitVec 4)
  /-- R159: Copies the elements unchanged. -/
  | vmov (d : BitVec 3) (b : BitVec 3) (l : BitVec 4)
  /-- R164: Loads rows of a typed tensor into a vector register by pieces. -/
  | vld (v : BitVec 3) (a : BitVec 5) (b : BitVec 5) (t : BitVec 4)
  /-- R164: Stores rows with narrowing, one piece per cycle. -/
  | vst (v : BitVec 3) (a : BitVec 5) (b : BitVec 5) (t : BitVec 4)
  /-- R164: Loads one row into every row of the shape. -/
  | vldr (v : BitVec 3) (a : BitVec 5) (t : BitVec 4)
  /-- R160: Converts i32 elements to f32. -/
  | vcvtF32I32 (d : BitVec 3) (b : BitVec 3) (l : BitVec 4)
  /-- R160: Converts f32 elements to i32 with RNE. -/
  | vcvtI32F32Rne (d : BitVec 3) (b : BitVec 3) (l : BitVec 4)
  /-- R160: Converts f32 elements to i32 toward zero. -/
  | vcvtI32F32Rz (d : BitVec 3) (b : BitVec 3) (l : BitVec 4)
  /-- R160: Quantises elements to the e4m3 grid, satfinite. -/
  | vqzE4m3 (d : BitVec 3) (b : BitVec 3) (l : BitVec 4)
  /-- R160: Quantises elements to the e5m2 grid, satfinite. -/
  | vqzE5m2 (d : BitVec 3) (b : BitVec 3) (l : BitVec 4)
  /-- R160: Quantises elements to the bf16 grid. -/
  | vqzBf16 (d : BitVec 3) (b : BitVec 3) (l : BitVec 4)
  /-- R160: Quantises elements to e5m2 with IEEE overflow. -/
  | vqzE5m2Ieee (d : BitVec 3) (b : BitVec 3) (l : BitVec 4)
  /-- R161: Row sum by the fixed tree, written to every lane. -/
  | vrsum (d : BitVec 3) (b : BitVec 3) (l : BitVec 4)
  /-- R161: Row maximum. -/
  | vrmax (d : BitVec 3) (b : BitVec 3) (l : BitVec 4)
  /-- R161: Row minimum. -/
  | vrmin (d : BitVec 3) (b : BitVec 3) (l : BitVec 4)
  /-- R161: Row maximum of absolute values. -/
  | vramax (d : BitVec 3) (b : BitVec 3) (l : BitVec 4)
  /-- R162: Element-wise reciprocal square root. -/
  | vrsqrt (d : BitVec 3) (b : BitVec 3) (l : BitVec 4)
  /-- R162: Element-wise reciprocal. -/
  | vrcp (d : BitVec 3) (b : BitVec 3) (l : BitVec 4)
  /-- R162: Element-wise square root. -/
  | vsqrt (d : BitVec 3) (b : BitVec 3) (l : BitVec 4)
  /-- R162: Element-wise 2^x. -/
  | vexp2 (d : BitVec 3) (b : BitVec 3) (l : BitVec 4)
  /-- R162: Element-wise log2 x. -/
  | vlog2 (d : BitVec 3) (b : BitVec 3) (l : BitVec 4)
  /-- R168: Sets the clamped row and lane counts. -/
  | vshape (a : BitVec 5) (b : BitVec 5)
  /-- R169: Broadcasts a scalar to every element in the shape. -/
  | vbcast (v : BitVec 3) (a : BitVec 5)
  /-- R170: Reads one element into a general register. -/
  | vget (v : BitVec 3) (a : BitVec 5) (b : BitVec 5)
  /-- R170: Writes one element from a general register, if inside the shape. -/
  | vput (v : BitVec 3) (a : BitVec 5) (b : BitVec 5)
  /-- R169: Zeroes every element in the shape. -/
  | vzero (v : BitVec 3)
  /-- R189: Checks and queues an eight-word fetch command on a channel, or reports the queue full. -/
  | fetch (s : BitVec 5) (p : BitVec 4) (c : BitVec 4)
  /-- R190: Reads a channel's last issued transfer id. -/
  | fid (d : BitVec 5) (c : BitVec 5)
  /-- R190: Reads a channel's completed transfer id. -/
  | fdone (d : BitVec 5) (c : BitVec 5)
  /-- R191: Waits until a transfer id is complete; acquire. -/
  | fwait (a : BitVec 5) (c : BitVec 5)
  /-- R192: Reads the channel status word. -/
  | fstat (d : BitVec 5) (c : BitVec 5)
  /-- R193: Sets a partition's multicast group membership. -/
  | mcset (d : BitVec 5) (a : BitVec 5) (b : BitVec 5)
  /-- R193: Clears a multicast group. -/
  | mcclr (d : BitVec 5) (a : BitVec 5)
  /-- R194: Resumes a stopped fetch channel at its stopped burst. -/
  | fres (d : BitVec 5) (a : BitVec 5) (c : BitVec 5)
  /-- R194: Aborts a fetch command with status 1. -/
  | fabt (d : BitVec 5) (a : BitVec 5) (c : BitVec 5)
  /-- R224: Checks and queues a matrix command with a copy of its context. -/
  | mgo (s : BitVec 5) (p : BitVec 4)
  /-- R223: Writes a format context from a local record. -/
  | mfmt (a : BitVec 5) (b : BitVec 5)
  /-- R226: Reads the matrix status word. -/
  | mstat (d : BitVec 5)
  /-- R217: Installs a circular-buffer descriptor on a handle. -/
  | cbinit (a : BitVec 5) (h : BitVec 5)
  /-- R218: Waits for a filled slot and returns its address; acquire. -/
  | cbwait (d : BitVec 5) (h : BitVec 5)
  /-- R218: Waits for space and returns the producer slot address. -/
  | cbspace (d : BitVec 5) (h : BitVec 5)
  /-- R219: Writes the slot header and advances produced; release. -/
  | cbpush (a : BitVec 5) (h : BitVec 5)
  /-- R220: Advances consumed after prior loads complete. -/
  | cbpop (h : BitVec 5)
  /-- R221: Reads both counters of a handle. -/
  | cbcnt (d : BitVec 5) (h : BitVec 5)
  /-- R230: Binds a local out-CB to a peer in-CB over an exchange channel. -/
  | xopen (d : BitVec 5) (a : BitVec 5) (c : BitVec 5)
  /-- R237: Unbinds a channel after shipped slots land. -/
  | xclose (d : BitVec 5) (c : BitVec 5)
  /-- R238: Reads the exchange channel status word. -/
  | xstat (d : BitVec 5) (c : BitVec 5)
  /-- R292: Queues a datagram or host message; release. -/
  | psend (s : BitVec 5) (p : BitVec 4) (c : BitVec 4)
  /-- R108: Reads a CSR. -/
  | csrr (r : BitVec 5) (c : BitVec 14)
  /-- R108: Writes a CSR. -/
  | csrw (r : BitVec 5) (c : BitVec 14)
  /-- R108: Sets bits of a CSR indivisibly. -/
  | csrs (r : BitVec 5) (c : BitVec 14)
  /-- R108: Clears bits of a CSR indivisibly. -/
  | csrc (r : BitVec 5) (c : BitVec 14)
  /-- R275: Invalidates the TLB entries of one page on every tile of a partition. -/
  | tlbi (a : BitVec 5) (b : BitVec 5)
  /-- R275: Invalidates every TLB entry in a partition. -/
  | tlbia (b : BitVec 5)
  /-- R276: Writes back a range of a tile's cache. -/
  | cwb (a : BitVec 5) (b : BitVec 5)
  /-- R276: Invalidates a range of a tile's cache, discarding dirty data. -/
  | cinv (a : BitVec 5) (b : BitVec 5)
  /-- R277: Replaces an interleave-domain descriptor with the hold protocol. -/
  | domset (d : BitVec 5) (a : BitVec 5) (b : BitVec 5)
  /-- R278: Pre-empts and saves a running partition (op 0). -/
  | preemptSave (d : BitVec 5) (a : BitVec 5) (b : BitVec 5)
  /-- R278: Restores a saved partition (op 1). -/
  | preemptRestore (d : BitVec 5) (a : BitVec 5) (b : BitVec 5)
  /-- R278: Resets a saved or stopped partition (op 2). -/
  | preemptReset (d : BitVec 5) (a : BitVec 5) (b : BitVec 5)
  /-- R279: Writes a waiting strand's context to a record. -/
  | pack (d : BitVec 5) (a : BitVec 5) (b : BitVec 5)
  /-- R279: Loads a waiting strand's context from a record. -/
  | prest (d : BitVec 5) (a : BitVec 5) (b : BitVec 5)
  /-- R280: Resumes a strand that waits for the supervisor. -/
  | sres (d : BitVec 5) (a : BitVec 5)
  /-- R280: Redirects a waiting strand to its tvec. -/
  | sredir (d : BitVec 5) (a : BitVec 5)
  /-- R92: No operation; only advances the pc. -/
  | nop
  /-- R124: Waits for pending registers and outcnt = 0, then retires the strand and frees its slot. -/
  | done
  /-- R125: Moves the context to a kennel or lent entry, if one is free, and frees the barrel slot. -/
  | yield
  /-- R94: Raises breakpoint cause 0x0B with tval 0. -/
  | brk
  /-- R130: Sets xpin. -/
  | pin
  /-- R130: Clears xpin. -/
  | unpin
  /-- R167: Takes the core's vector claim or waits in issue order. -/
  | vclaim
  /-- R167: Releases the vector claim once the unit is idle. -/
  | vrel
  /-- R222: Takes the tile's matrix claim or waits in issue order. -/
  | mclaim
  /-- R222: Releases the matrix claim once the queue is empty. -/
  | mrel
  /-- R225: Waits until the matrix queue drains; acquire. -/
  | mwait
  /-- R274: Supervisor return to tpc. -/
  | tret
  /-- R208: Matrix command that zeroes an accumulator. -/
  | matrixMzero
  /-- R208: Matrix command that starts, takes its consumer sides and runs nk steps. -/
  | matrixMstep
  /-- R208: Matrix command that loads an accumulator from an f32 slot once one is filled. -/
  | matrixMload
  /-- R208: Matrix command that scales, narrows and writes an accumulator into an out-CB slot once there is space. -/
  | matrixMout
  /-- R208: A step fires when both input buffers hold a filled slot, after the header check. -/
  | matrixStepFire
  /-- R209: A step, mload, mzero or mout ends; counts advance, or a data-error stop takes effect. -/
  | matrixActionEnd
  /-- R212: The holder takes the pending engine trap at its next boundary. -/
  | deferredEngineTrap
  /-- R46: The loader applies configuration, builds domains and page tables, and writes the bytes. -/
  | imageLoad
  /-- R81: A four-flit migration packet is complete at the destination and is admitted or refused. -/
  | migrationArrival
  /-- R128: A spawnat child packet arrives and asks for admission. -/
  | spawnatArrival
  /-- R142: A pinned strand's context arrives at the owner to compare and park. -/
  | parkContextArrival
  /-- R142: A pinned strand's context returns home and asks for admission. -/
  | contextReturnArrival
  /-- R73: The single-flit admission reaches the origin and frees the held slot. -/
  | admissionAnswer
  /-- R78: A refusal flit reaches the origin, which holds the strand. -/
  | refusalArrival
  /-- R78: A call flit for a reserved slot reaches the origin, which re-sends the packet. -/
  | callFlitArrival
  /-- R78: Every 256 cycles each listed entry gains one age. -/
  | holdAgeTick
  /-- R78: An evicted or unlisted origin re-sends after 1024 cycles with raised age. -/
  | refusalResendTimeout
  /-- R76: Every agestep cycles a waiting entry's effective class rises. -/
  | classAgeTick
  /-- R75: A free barrel slot takes the best ready kennel entry. -/
  | kennelToBarrel
  /-- R77: A lent entry finishes moving into the kennel and frees its lent slot. -/
  | lentMoveDone
  /-- R84: hleft reaches zero and the rule pin ends. -/
  | pinHoldExpiry
  /-- R89: An uncorrectable context is discarded and reported to the supervisor. -/
  | contextLost
  /-- R111: A load, atomic, walker or engine read request is performed at its owner and answered. -/
  | requestArrival
  /-- R72: A response writes or poisons the pending register. -/
  | responseArrival
  /-- R119: A posted operation, arrival or join decrement is performed at its owner or refused. -/
  | postedArrival
  /-- R143: A woken watcher becomes ready, one per cycle in entry order. -/
  | watcherReady
  /-- R137: Once cpc and carg are in, the record's owner births the continuation. -/
  | joinContinuation
  /-- R119: An acknowledgement decrements outcnt. -/
  | acknowledgementArrival
  /-- R120: A refusal decrements outcnt and leaves a deferred refusal pending. -/
  | postedRefusalArrival
  /-- R120: The strand takes cause 0x06 at its next instruction boundary. -/
  | deferredRefusalTrap
  /-- R51: A page-table entry read returns to the walker, which continues or faults. -/
  | walkEntryResponse
  /-- R61: An instruction-cache line fill arrives, or a data error traps. -/
  | icacheFill
  /-- R63: A line with a parity error is discarded and filled again. -/
  | icacheParityRefill
  /-- R62: Patrol scrub reads and corrects a sector at scrubrate. -/
  | patrolScrub
  /-- R255: DRAM or HBM refresh takes a memory slot. -/
  | dramRefresh
  /-- R134: A tile marks matching contexts, installs its filter, stops engine work and acknowledges. -/
  | cancelFlitArrival
  /-- R134: The issuer counts stop acknowledgements and sends the sweep. -/
  | cancelStopAck
  /-- R134: A tile sends marker flits to every other tile. -/
  | sweepFlitArrival
  /-- R134: After all markers a tile frees marked contexts and acknowledges. -/
  | markerFlitArrival
  /-- R134: The issuer counts final acknowledgements and completes the cancellation. -/
  | cancelFinalAck
  /-- R177: The engine sends the read of a block-table entry. -/
  | fetchTableRead
  /-- R177: A table entry arrives, or stops the channel. -/
  | fetchTableEntryArrival
  /-- R183: The engine checks and issues one ready burst read. -/
  | fetchReadIssue
  /-- R178: A burst lands and its buffer write is sent. -/
  | burstLandBuffer
  /-- R179: A burst lands and a copy is written to each group member. -/
  | burstLandMulticast
  /-- R180: A burst lands in its circular-buffer slot payload. -/
  | burstLandCb
  /-- R181: A burst lands in a landing slot and asks for a handler. -/
  | burstLandHandler
  /-- R178: An engine buffer write is performed at its owner. -/
  | engineWriteArrival
  /-- R183: A buffer write acknowledgement frees a write tag. -/
  | engineWriteAck
  /-- R180: Once a slot's bursts are in and earlier slots pushed, the header is written and produced advances. -/
  | fetchSlotPush
  /-- R182: All conditions hold; the arrival is posted or the command completes. -/
  | fetchCompletionPoint
  /-- R182: The completion arrival is acknowledged; fdone advances and the tail is born. -/
  | completionArrivalAck
  /-- R194: An fres or fabt reaches the channel and takes effect. -/
  | fresAtChannel
  /-- R230: The peer checks a bind flit and replies. -/
  | xchBindArrival
  /-- R230: The reply arrives; the send end is set up or the reservations released. -/
  | xchBindReply
  /-- R234: The engine starts sending a ready slot. -/
  | xchSlotStart
  /-- R232: A data flit is written; the last one advances produced and sends a permit. -/
  | xchDataFlitArrival
  /-- R233: A permit updates landed_seen and consumed_seen and frees out-CB slots. -/
  | xchPermitArrival
  /-- R233: After xrefresh cycles the receive end sends a permit. -/
  | xchRefreshTimer
  /-- R235: A counter parity error starts a resynchronisation. -/
  | xchCounterParityError
  /-- R235: The receive end answers a resync flit with a permit. -/
  | xchResyncFlitArrival
  /-- R236: The other end enters the error state. -/
  | xchErrorFlitArrival
  /-- R237: The send end starts closing on a request from the receive end. -/
  | xchCloseRequestArrival
  /-- R237: The receive end frees its channel and replies. -/
  | xchUnbindArrival
  /-- R237: The send end frees its channel; xclose retires. -/
  | xchUnbindReply
  /-- R249: A flit at its destination die port is ejected in order or re-injected. -/
  | diePortFlitArrival
  /-- R249: 64 cycles after a pair's last delivery the port sends an order count. -/
  | orderCountTimer
  /-- R249: An order count updates the source's delivered_seen. -/
  | orderCountArrival
  /-- R254: A flit with bad crc, dst or kind is discarded and the partition stops. -/
  | flitHeaderFailure
  /-- R252: A frame is accepted in order or discarded; acknowledgements are taken. -/
  | gorrexFrameArrival
  /-- R252: An idle frame carries the acknowledgement when no reverse frame is due. -/
  | gorrexIdleFrameTimer
  /-- R252: After 2048 cycles without progress the sender replays from ack. -/
  | gorrexReplayTimeout
  /-- R251: A lane passes its error limit; the link steps down and retrains. -/
  | gorrexLaneFailure
  /-- R251: The retrain ends and unacknowledged frames are replayed. -/
  | gorrexRetrainDone
  /-- R253: A parity error in next or ack sends a resync request. -/
  | gorrexCounterParityError
  /-- R253: The receiver's expected resets the sender, which replays. -/
  | gorrexResyncAnswer
  /-- R255: Every 100 ms one lane of each link recalibrates. -/
  | gorrexLaneRecalibration
  /-- R255: Every 1 ms each die sends a telemetry packet. -/
  | telemetrySample
  /-- R290: A frame is checked and matched, then written into a ring and launched, or dropped. -/
  | ethernetFrameArrival
  /-- R287: Setting v registers a service-table entry after its checks. -/
  | serviceEntryRegister
  /-- R287: Clearing v unregisters an entry for the next frame. -/
  | serviceEntryClear
  /-- R291: The dispatcher places a launch record on a tile of its range. -/
  | launchDispatch
  /-- R292: A queued psend is read, sent, and arrives at its rendezvous. -/
  | psendTransmit
  /-- R293: A virtual function appends a launch record. -/
  | hostLaunchAppend
  /-- R293: A host access through a function window is performed at its owner. -/
  | hostMemoryAccess
  /-- R294: Each die boots from ROM, verifies, measures and runs its firmware. -/
  | powerOnReset
  /-- R258: A host restart command resets one die's supervisor core. -/
  | supervisorCoreRestart
  /-- R295: A nonce yields a signed report of the measurement registers. -/
  | quoteRequest
  /-- R296: At 95 C a die delays matrix steps and vector issue. -/
  | thermalGovernance
  /-- R296: At 105 C the module alerts the host and powers down. -/
  | thermalShutdown
  /-- R262: The message engine writes an entry when the ring has room and advances mprod. -/
  | messageRingWrite
  /-- R271: After an instruction retires under dbgctl the strand waits for the supervisor. -/
  | singleStepTrap
  /-- R264: A tile stops and saves its engines, then acknowledges. -/
  | preemptFlitArrival
  /-- R264: The lead counts tile acknowledgements and completes the pre-emption. -/
  | preemptTileAck
  /-- R267: A tile reads back its records and re-admits its contexts. -/
  | restoreFlitArrival
  /-- R270: A time slice ends and the partition switches functions. -/
  | sliceExpiry
  /-- R275: A tile removes TLB entries and cache lines, then acknowledges. -/
  | tlbiFlitArrival
  /-- R277: A tile holds packets for the domain and acknowledges. -/
  | domsetHoldArrival
  /-- R277: A tile installs the descriptor, releases packets, wakes watchers and acknowledges. -/
  | domsetDescriptorArrival
  /-- R276: The target tile writes back or invalidates the sectors, then acknowledges. -/
  | cacheOpArrival
  /-- R280: The request marks the waiting strand ready in place. -/
  | sresArrival
  /-- R282: A CSR access through starget is performed at the target tile. -/
  | remoteCsrRequest
  /-- R281: A write to a CSR with no behaviour of its own stores the clamped value. -/
  | csrWrite
  /-- R283: Lowering kdepth or klend leaves admitted entries and refuses until use falls. -/
  | kdepthKlendWrite
  /-- R283: Lowering wdepth displaces the oldest watchers until the table fits. -/
  | wdepthWrite
  /-- R282: A target outside the die stores the issuer's own tile. -/
  | stargetWrite
  /-- R85: A write of 0 to pinhold or dpinhold stores 1. -/
  | pinholdWrite
  /-- R262: Sets the ring address and enables or holds message delivery. -/
  | msgringWrite
  /-- R253: A parity error in one copy of the receiver's expected is repaired from the other copy, and an error in both copies takes the link down and retrains it. -/
  | gorrexExpectedParityError
  /-- R251: A retrain started by the supervisor can raise a link's mode back up the table. -/
  | supervisorStartedRetrain
  /-- R269: The supervisor writes every tile's copy of a partition's tile map while the partitions it touches are pre-empted or stopped. -/
  | tileMapWrite
  /-- R82: The supervisor installs a crossbar forwarding entry that maps a retired tile to its replacement. -/
  | forwardingEntryInstall
  /-- R293: The host binds a virtual function to a partition, or programs the slice order and lengths, through the physical function. -/
  | virtualFunctionBinding
  /-- R154: A vector instruction writes its last row, so its destination is no longer pending and the unit is no longer busy. -/
  | vectorLastRowWritten
  deriving DecidableEq, Repr, Inhabited

end Sys2Proof
end

