-- ==== Sys2Proof/WellFormed.lean ====
section
/-! DEFINITION. Which instructions have an encoding: the limits of R37, R39, R41 on the fields of each
constructor. A step of the machine that has no encoding is never decoded. -/

namespace Sys2Proof

/-- Why a word is illegal (R41). -/
inductive Illegal where
  /-- an unlisted major opcode -/
  | major
  /-- a function code, condition or operation not listed for its major -/
  | function
  /-- a nonzero bit in a field marked zero or not used -/
  | reserved
  /-- code 28-31 in a register field, or 25-27 in a field that is written -/
  | register
  /-- a float condition with k = 1 -/
  | condition
  /-- E format with rs above 16 -/
  | firstRegister
  /-- lpm 11-15 -/
  | lanePattern
  /-- VM type 7-15 -/
  | elementType
  /-- a fence with agent 0 or 4-7, or with set 0 -/
  | fenceScope
  /-- a channel or handle beyond the limit of its entry -/
  | channel
  /-- a CSR number not assigned, or a write of a read-only CSR -/
  | csr
  /-- a step of the machine, which has no encoding -/
  | noEncoding
  deriving DecidableEq, Repr, Inhabited

/-- A field that is read: codes 0-27 (R37). -/
def src (r : Reg) : Option Illegal := if r.toNat < 28 then none else some .register
/-- A field that is written: codes 0-24 (R37). -/
def dst (r : Reg) : Option Illegal := if r.toNat < 25 then none else some .register
/-- The first of eight consecutive registers: 0-16 (R41). -/
def first8 (r : Reg) : Option Illegal := if r.toNat ≤ 16 then none else some .firstRegister
/-- A lane pattern: 0-10 (R41). -/
def lanes (l : BitVec 4) : Option Illegal := if l.toNat ≤ 10 then none else some .lanePattern
/-- A vector memory type: 0-6 (R163). -/
def vtype (t : BitVec 4) : Option Illegal := if t.toNat ≤ 6 then none else some .elementType
/-- A fence's agent and set (R121). -/
def fence (t : BitVec 3) (x m l : Bool) : Option Illegal :=
  if 1 ≤ t.toNat ∧ t.toNat ≤ 3 ∧ (x || m || l) = true then none else some .fenceScope
/-- A channel or handle number (R188, R216, R230, R292). -/
def below (c n : Nat) : Option Illegal := if c < n then none else some .channel

/-- A CSR that a map assigns (R110, R281). -/
def csrAssigned (n : Nat) : Bool :=
  n == 0 || n == 2 || n == 3 || n == 0x10 || (0x20 ≤ n && n ≤ 0x34) || (0x40 ≤ n && n ≤ 0x42) || n == 0x50
    || (0x800 ≤ n && n ≤ 0x810)
/-- A CSR that its map marks RW (R110, R281). -/
def csrWritable (n : Nat) : Bool :=
  (0x30 ≤ n && n ≤ 0x34) || (0x40 ≤ n && n ≤ 0x42) || (0x800 ≤ n && n ≤ 0x80F)
def csrReadOk (c : BitVec 14) : Option Illegal := if csrAssigned c.toNat then none else some .csr
def csrWriteOk (c : BitVec 14) : Option Illegal := if csrWritable c.toNat then none else some .csr

/-- The first limit that an instruction breaks. The three operations of `preempt` share one word, which is decoded
as `preemptSave`; the other two constructors have no encoding of their own. -/
def Instr.illegal : Instr → Option Illegal
  | .nop => none
  | .done => none
  | .yield => none
  | .trap _ => none
  | .brk => none
  | .rdcyc d => dst d
  | .rdout d => dst d
  | .pseq d => dst d
  | .svc _ => none
  | .add d a b => dst d <|> src a <|> src b
  | .sub d a b => dst d <|> src a <|> src b
  | .mul d a b => dst d <|> src a <|> src b
  | .mulh d a b => dst d <|> src a <|> src b
  | .mulhs d a b => dst d <|> src a <|> src b
  | .div d a b => dst d <|> src a <|> src b
  | .divs d a b => dst d <|> src a <|> src b
  | .rem d a b => dst d <|> src a <|> src b
  | .rems d a b => dst d <|> src a <|> src b
  | .and d a b => dst d <|> src a <|> src b
  | .or d a b => dst d <|> src a <|> src b
  | .xor d a b => dst d <|> src a <|> src b
  | .andn d a b => dst d <|> src a <|> src b
  | .shl d a b => dst d <|> src a <|> src b
  | .shr d a b => dst d <|> src a <|> src b
  | .sra d a b => dst d <|> src a <|> src b
  | .rol d a b => dst d <|> src a <|> src b
  | .min d a b => dst d <|> src a <|> src b
  | .mins d a b => dst d <|> src a <|> src b
  | .max d a b => dst d <|> src a <|> src b
  | .maxs d a b => dst d <|> src a <|> src b
  | .clz d a => dst d <|> src a
  | .ctz d a => dst d <|> src a
  | .popc d a => dst d <|> src a
  | .sxb d a => dst d <|> src a
  | .sxh d a => dst d <|> src a
  | .sxw d a => dst d <|> src a
  | .zxw d a => dst d <|> src a
  | .addw d a b => dst d <|> src a <|> src b
  | .subw d a b => dst d <|> src a <|> src b
  | .mulw d a b => dst d <|> src a <|> src b
  | .adds d a b => dst d <|> src a <|> src b
  | .subs d a b => dst d <|> src a <|> src b
  | .bswp d a => dst d <|> src a
  | .addi d a _ => dst d <|> src a
  | .andi d a _ => dst d <|> src a
  | .ori d a _ => dst d <|> src a
  | .xori d a _ => dst d <|> src a
  | .muli d a _ => dst d <|> src a
  | .shli d a _ => dst d <|> src a
  | .shri d a _ => dst d <|> src a
  | .srai d a _ => dst d <|> src a
  | .roli d a _ => dst d <|> src a
  | .cmpEq _ a b => src a <|> src b
  | .cmpEqImm _ a _ => src a
  | .cmpNe _ a b => src a <|> src b
  | .cmpNeImm _ a _ => src a
  | .cmpLt _ a b => src a <|> src b
  | .cmpLtImm _ a _ => src a
  | .cmpGe _ a b => src a <|> src b
  | .cmpGeImm _ a _ => src a
  | .cmpLtu _ a b => src a <|> src b
  | .cmpLtuImm _ a _ => src a
  | .cmpGeu _ a b => src a <|> src b
  | .cmpGeuImm _ a _ => src a
  | .cmpGt _ a b => src a <|> src b
  | .cmpGtImm _ a _ => src a
  | .cmpLe _ a b => src a <|> src b
  | .cmpLeImm _ a _ => src a
  | .cmpGtu _ a b => src a <|> src b
  | .cmpGtuImm _ a _ => src a
  | .cmpLeu _ a b => src a <|> src b
  | .cmpLeuImm _ a _ => src a
  | .cmpTst _ a b => src a <|> src b
  | .cmpTstImm _ a _ => src a
  | .cmpNtst _ a b => src a <|> src b
  | .cmpNtstImm _ a _ => src a
  | .cmpFeq _ a b => src a <|> src b
  | .cmpFlt _ a b => src a <|> src b
  | .cmpFle _ a b => src a <|> src b
  | .cmpFunord _ a b => src a <|> src b
  | .pand _ _ _ => none
  | .por _ _ _ => none
  | .pxor _ _ _ => none
  | .pandn _ _ _ => none
  | .pnot _ _ => none
  | .pget d => dst d
  | .pput a => src a
  | .movz d _ _ => dst d
  | .movk d _ _ => dst d
  | .br _ => none
  | .call _ => none
  | .jr a => src a
  | .jcall d a => dst d <|> src a
  | .fadd d a b => dst d <|> src a <|> src b
  | .fsub d a b => dst d <|> src a <|> src b
  | .fmul d a b => dst d <|> src a <|> src b
  | .fma d a b => dst d <|> src a <|> src b
  | .fmax d a b => dst d <|> src a <|> src b
  | .fmin d a b => dst d <|> src a <|> src b
  | .fabs d a => dst d <|> src a
  | .fneg d a => dst d <|> src a
  | .fdiv d a b => dst d <|> src a <|> src b
  | .fsqrt d a => dst d <|> src a
  | .frsqrt d a => dst d <|> src a
  | .frcp d a => dst d <|> src a
  | .fexp2 d a => dst d <|> src a
  | .flog2 d a => dst d <|> src a
  | .itof d a => dst d <|> src a
  | .ftoiRne d a => dst d <|> src a
  | .ftoiRz d a => dst d <|> src a
  | .ftoiDn d a => dst d <|> src a
  | .bfdot4 d a b => dst d <|> src a <|> src b
  | .e4dot8 d a b => dst d <|> src a <|> src b
  | .bfpack d a b => dst d <|> src a <|> src b
  | .bfunpk d a => dst d <|> src a
  | .ldb d a _ => dst d <|> src a
  | .ldh d a _ => dst d <|> src a
  | .ldw d a _ => dst d <|> src a
  | .ldd d a _ => dst d <|> src a
  | .ldbs d a _ => dst d <|> src a
  | .ldhs d a _ => dst d <|> src a
  | .ldws d a _ => dst d <|> src a
  | .stb d a _ => src d <|> src a
  | .sth d a _ => src d <|> src a
  | .stw d a _ => src d <|> src a
  | .std d a _ => src d <|> src a
  | .aadd d a b _ => dst d <|> src a <|> src b
  | .aand d a b _ => dst d <|> src a <|> src b
  | .aor d a b _ => dst d <|> src a <|> src b
  | .axor d a b _ => dst d <|> src a <|> src b
  | .amin d a b _ => dst d <|> src a <|> src b
  | .amins d a b _ => dst d <|> src a <|> src b
  | .amax d a b _ => dst d <|> src a <|> src b
  | .amaxs d a b _ => dst d <|> src a <|> src b
  | .aswap d a b _ => dst d <|> src a <|> src b
  | .acas d a b _ => dst d <|> src a <|> src b
  | .postAdd a b _ => src a <|> src b
  | .postAnd a b _ => src a <|> src b
  | .postOr a b _ => src a <|> src b
  | .postXor a b _ => src a <|> src b
  | .postMin a b _ => src a <|> src b
  | .postMins a b _ => src a <|> src b
  | .postMax a b _ => src a <|> src b
  | .postMaxs a b _ => src a <|> src b
  | .postSt a b _ => src a <|> src b
  | .fenceRel t x m l => fence t x m l
  | .fenceAcq t x m l => fence t x m l
  | .fenceFull t x m l => fence t x m l
  | .park a b => src a <|> src b
  | .spawn d a b => dst d <|> src a <|> src b
  | .spawnat d a b => dst d <|> src a <|> src b
  | .go a => src a
  | .pin => none
  | .unpin => none
  | .join a => src a
  | .cancel a b => src a <|> src b
  | .prio a => src a
  | .setlin a => src a
  | .arrive a => src a
  | .await a b => src a <|> src b
  | .vfadd _ _ _ l => lanes l
  | .vfsub _ _ _ l => lanes l
  | .vfmul _ _ _ l => lanes l
  | .vfma _ _ _ l => lanes l
  | .vfmax _ _ _ l => lanes l
  | .vfmin _ _ _ l => lanes l
  | .vfabs _ _ l => lanes l
  | .vfneg _ _ l => lanes l
  | .vfdiv _ _ _ l => lanes l
  | .vfcmpEq _ _ _ l => lanes l
  | .vfcmpLt _ _ _ l => lanes l
  | .vfcmpLe _ _ _ l => lanes l
  | .viadd _ _ _ l => lanes l
  | .visub _ _ _ l => lanes l
  | .vimul _ _ _ l => lanes l
  | .vimax _ _ _ l => lanes l
  | .vimin _ _ _ l => lanes l
  | .vand _ _ _ l => lanes l
  | .vor _ _ _ l => lanes l
  | .vxor _ _ _ l => lanes l
  | .vshl _ _ _ l => lanes l
  | .vshr _ _ _ l => lanes l
  | .vsra _ _ _ l => lanes l
  | .vicmpEq _ _ _ l => lanes l
  | .vicmpLt _ _ _ l => lanes l
  | .vsel _ _ _ l => lanes l
  | .vmov _ _ l => lanes l
  | .vld _ a b t => src a <|> src b <|> vtype t
  | .vst _ a b t => src a <|> src b <|> vtype t
  | .vldr _ a t => src a <|> vtype t
  | .vcvtF32I32 _ _ l => lanes l
  | .vcvtI32F32Rne _ _ l => lanes l
  | .vcvtI32F32Rz _ _ l => lanes l
  | .vqzE4m3 _ _ l => lanes l
  | .vqzE5m2 _ _ l => lanes l
  | .vqzBf16 _ _ l => lanes l
  | .vqzE5m2Ieee _ _ l => lanes l
  | .vrsum _ _ l => lanes l
  | .vrmax _ _ l => lanes l
  | .vrmin _ _ l => lanes l
  | .vramax _ _ l => lanes l
  | .vrsqrt _ _ l => lanes l
  | .vrcp _ _ l => lanes l
  | .vsqrt _ _ l => lanes l
  | .vexp2 _ _ l => lanes l
  | .vlog2 _ _ l => lanes l
  | .vclaim => none
  | .vrel => none
  | .vshape a b => src a <|> src b
  | .vbcast _ a => src a
  | .vget _ a b => dst a <|> src b
  | .vput _ a b => src a <|> src b
  | .vzero _ => none
  | .fetch s _ c => first8 s <|> below c.toNat 8
  | .fid d c => dst d <|> below c.toNat 8
  | .fdone d c => dst d <|> below c.toNat 8
  | .fwait a c => src a <|> below c.toNat 8
  | .fstat d c => dst d <|> below c.toNat 8
  | .mcset d a b => dst d <|> src a <|> src b
  | .mcclr d a => dst d <|> src a
  | .fres d a c => dst d <|> src a <|> below c.toNat 8
  | .fabt d a c => dst d <|> src a <|> below c.toNat 8
  | .mgo s _ => first8 s
  | .mclaim => none
  | .mrel => none
  | .mfmt a b => src a <|> src b
  | .mwait => none
  | .mstat d => dst d
  | .cbinit a h => src a <|> below h.toNat 16
  | .cbwait d h => dst d <|> below h.toNat 16
  | .cbspace d h => dst d <|> below h.toNat 16
  | .cbpush a h => src a <|> below h.toNat 16
  | .cbpop h => below h.toNat 16
  | .cbcnt d h => dst d <|> below h.toNat 16
  | .xopen d a c => dst d <|> src a <|> below c.toNat 4
  | .xclose d c => dst d <|> below c.toNat 4
  | .xstat d c => dst d <|> below c.toNat 4
  | .psend s _ c => first8 s <|> below c.toNat 5
  | .csrr r c => dst r <|> csrReadOk c
  | .csrw r c => src r <|> csrWriteOk c
  | .csrs r c => src r <|> csrWriteOk c
  | .csrc r c => src r <|> csrWriteOk c
  | .tret => none
  | .tlbi a b => src a <|> src b
  | .tlbia b => src b
  | .cwb a b => src a <|> src b
  | .cinv a b => src a <|> src b
  | .domset d a b => dst d <|> src a <|> src b
  | .preemptSave d a b => dst d <|> src a <|> src b
  | .pack d a b => dst d <|> src a <|> src b
  | .prest d a b => dst d <|> src a <|> src b
  | .sres d a => dst d <|> src a
  | .sredir d a => dst d <|> src a
  | .preemptRestore _ _ _ | .preemptReset _ _ _ | .matrixMzero | .matrixMstep | .matrixMload | .matrixMout
  | .matrixStepFire | .matrixActionEnd | .deferredEngineTrap | .imageLoad | .migrationArrival
  | .spawnatArrival | .parkContextArrival | .contextReturnArrival | .admissionAnswer | .refusalArrival
  | .callFlitArrival | .holdAgeTick | .refusalResendTimeout | .classAgeTick | .kennelToBarrel | .lentMoveDone
  | .pinHoldExpiry | .contextLost | .requestArrival | .responseArrival | .postedArrival | .watcherReady
  | .joinContinuation | .acknowledgementArrival | .postedRefusalArrival | .deferredRefusalTrap
  | .walkEntryResponse | .icacheFill | .icacheParityRefill | .patrolScrub | .dramRefresh | .cancelFlitArrival
  | .cancelStopAck | .sweepFlitArrival | .markerFlitArrival | .cancelFinalAck | .fetchTableRead
  | .fetchTableEntryArrival | .fetchReadIssue | .burstLandBuffer | .burstLandMulticast | .burstLandCb
  | .burstLandHandler | .engineWriteArrival | .engineWriteAck | .fetchSlotPush | .fetchCompletionPoint
  | .completionArrivalAck | .fresAtChannel | .xchBindArrival | .xchBindReply | .xchSlotStart
  | .xchDataFlitArrival | .xchPermitArrival | .xchRefreshTimer | .xchCounterParityError
  | .xchResyncFlitArrival | .xchErrorFlitArrival | .xchCloseRequestArrival | .xchUnbindArrival
  | .xchUnbindReply | .diePortFlitArrival | .orderCountTimer | .orderCountArrival | .flitHeaderFailure
  | .gorrexFrameArrival | .gorrexIdleFrameTimer | .gorrexReplayTimeout | .gorrexLaneFailure
  | .gorrexRetrainDone | .gorrexCounterParityError | .gorrexResyncAnswer | .gorrexLaneRecalibration
  | .telemetrySample | .ethernetFrameArrival | .serviceEntryRegister | .serviceEntryClear | .launchDispatch
  | .psendTransmit | .hostLaunchAppend | .hostMemoryAccess | .powerOnReset | .supervisorCoreRestart
  | .quoteRequest | .thermalGovernance | .thermalShutdown | .messageRingWrite | .singleStepTrap
  | .preemptFlitArrival | .preemptTileAck | .restoreFlitArrival | .sliceExpiry | .tlbiFlitArrival
  | .domsetHoldArrival | .domsetDescriptorArrival | .cacheOpArrival | .sresArrival | .remoteCsrRequest
  | .csrWrite | .kdepthKlendWrite | .wdepthWrite | .stargetWrite | .pinholdWrite | .msgringWrite
  | .gorrexExpectedParityError | .supervisorStartedRetrain | .tileMapWrite | .forwardingEntryInstall
  | .virtualFunctionBinding | .vectorLastRowWritten =>
    some .noEncoding

/-- An instruction that some legal word encodes. -/
abbrev Instr.WellFormed (i : Instr) : Prop := i.illegal = none

end Sys2Proof
end

