-- ==== Sys2Proof/Decode.lean ====
section
/-! DEFINITION. The decoder, total on every word and every list of bytes, and the encoder (R34, R39 to R41, R44). -/

namespace Sys2Proof

/-- Bits [lo+n-1 : lo] of a word. -/
def field (w : Half) (lo n : Nat) : BitVec n := w.extractLsb' lo n

/-- The guard field (R34). -/
def guardOf (w : Half) : Guard := ⟨field w 22 4, w.getLsbD 21⟩

/-- A one-bit field. -/
def bit (b : Bool) : BitVec 1 := BitVec.ofBool b

/-- The instruction, when the fields that it must leave zero are zero (R41). -/
def zeros (ok : Bool) (i : Instr) : Except Illegal Instr := if ok then .ok i else .error .reserved

/-- Major 0x00 (R40). -/
def decSys (w : Half) : Except Illegal Instr :=
  match (field w 0 6).toNat with
  | 0x1 => zeros (field w 6 15 == 0) (.nop)
  | 0x2 => zeros (field w 6 15 == 0) (.done)
  | 0x3 => zeros (field w 6 15 == 0) (.yield)
  | 0x4 => zeros (field w 16 5 == 0) (.trap (field w 6 10))
  | 0x5 => zeros (field w 6 15 == 0) (.brk)
  | 0x6 => zeros (field w 6 10 == 0) (.rdcyc (field w 16 5))
  | 0x7 => zeros (field w 6 10 == 0) (.rdout (field w 16 5))
  | 0x8 => zeros (field w 6 10 == 0) (.pseq (field w 16 5))
  | 0x9 => zeros (field w 16 5 == 0) (.svc (field w 6 10))
  | _ => .error .function

/-- Major 0x01 (R40). -/
def decAlu (w : Half) : Except Illegal Instr :=
  match (field w 0 6).toNat with
  | 0x0 => .ok (.add (field w 16 5) (field w 11 5) (field w 6 5))
  | 0x1 => .ok (.sub (field w 16 5) (field w 11 5) (field w 6 5))
  | 0x2 => .ok (.mul (field w 16 5) (field w 11 5) (field w 6 5))
  | 0x3 => .ok (.mulh (field w 16 5) (field w 11 5) (field w 6 5))
  | 0x4 => .ok (.mulhs (field w 16 5) (field w 11 5) (field w 6 5))
  | 0x5 => .ok (.div (field w 16 5) (field w 11 5) (field w 6 5))
  | 0x6 => .ok (.divs (field w 16 5) (field w 11 5) (field w 6 5))
  | 0x7 => .ok (.rem (field w 16 5) (field w 11 5) (field w 6 5))
  | 0x8 => .ok (.rems (field w 16 5) (field w 11 5) (field w 6 5))
  | 0x9 => .ok (.and (field w 16 5) (field w 11 5) (field w 6 5))
  | 0xA => .ok (.or (field w 16 5) (field w 11 5) (field w 6 5))
  | 0xB => .ok (.xor (field w 16 5) (field w 11 5) (field w 6 5))
  | 0xC => .ok (.andn (field w 16 5) (field w 11 5) (field w 6 5))
  | 0xD => .ok (.shl (field w 16 5) (field w 11 5) (field w 6 5))
  | 0xE => .ok (.shr (field w 16 5) (field w 11 5) (field w 6 5))
  | 0xF => .ok (.sra (field w 16 5) (field w 11 5) (field w 6 5))
  | 0x10 => .ok (.rol (field w 16 5) (field w 11 5) (field w 6 5))
  | 0x11 => .ok (.min (field w 16 5) (field w 11 5) (field w 6 5))
  | 0x12 => .ok (.mins (field w 16 5) (field w 11 5) (field w 6 5))
  | 0x13 => .ok (.max (field w 16 5) (field w 11 5) (field w 6 5))
  | 0x14 => .ok (.maxs (field w 16 5) (field w 11 5) (field w 6 5))
  | 0x15 => zeros (field w 6 5 == 0) (.clz (field w 16 5) (field w 11 5))
  | 0x16 => zeros (field w 6 5 == 0) (.ctz (field w 16 5) (field w 11 5))
  | 0x17 => zeros (field w 6 5 == 0) (.popc (field w 16 5) (field w 11 5))
  | 0x18 => zeros (field w 6 5 == 0) (.sxb (field w 16 5) (field w 11 5))
  | 0x19 => zeros (field w 6 5 == 0) (.sxh (field w 16 5) (field w 11 5))
  | 0x1A => zeros (field w 6 5 == 0) (.sxw (field w 16 5) (field w 11 5))
  | 0x1B => zeros (field w 6 5 == 0) (.zxw (field w 16 5) (field w 11 5))
  | 0x1C => .ok (.addw (field w 16 5) (field w 11 5) (field w 6 5))
  | 0x1D => .ok (.subw (field w 16 5) (field w 11 5) (field w 6 5))
  | 0x1E => .ok (.mulw (field w 16 5) (field w 11 5) (field w 6 5))
  | 0x1F => .ok (.adds (field w 16 5) (field w 11 5) (field w 6 5))
  | 0x20 => .ok (.subs (field w 16 5) (field w 11 5) (field w 6 5))
  | 0x21 => zeros (field w 6 5 == 0) (.bswp (field w 16 5) (field w 11 5))
  | _ => .error .function

/-- Major 0x06 (R40). -/
def decSh (w : Half) : Except Illegal Instr :=
  match (field w 6 5).toNat with
  | 0x0 => .ok (.shli (field w 16 5) (field w 11 5) (field w 0 6))
  | 0x1 => .ok (.shri (field w 16 5) (field w 11 5) (field w 0 6))
  | 0x2 => .ok (.srai (field w 16 5) (field w 11 5) (field w 0 6))
  | 0x3 => .ok (.roli (field w 16 5) (field w 11 5) (field w 0 6))
  | _ => .error .function

/-- Major 0x08 (R40). -/
def decCmp (w : Half) : Except Illegal Instr :=
  match (field w 0 4).toNat with
  | 0x0 => if w.getLsbD 16 then .ok (.cmpEqImm (field w 17 4) (field w 11 5) (field w 4 7)) else zeros (field w 4 2 == 0) (.cmpEq (field w 17 4) (field w 11 5) (field w 6 5))
  | 0x1 => if w.getLsbD 16 then .ok (.cmpNeImm (field w 17 4) (field w 11 5) (field w 4 7)) else zeros (field w 4 2 == 0) (.cmpNe (field w 17 4) (field w 11 5) (field w 6 5))
  | 0x2 => if w.getLsbD 16 then .ok (.cmpLtImm (field w 17 4) (field w 11 5) (field w 4 7)) else zeros (field w 4 2 == 0) (.cmpLt (field w 17 4) (field w 11 5) (field w 6 5))
  | 0x3 => if w.getLsbD 16 then .ok (.cmpGeImm (field w 17 4) (field w 11 5) (field w 4 7)) else zeros (field w 4 2 == 0) (.cmpGe (field w 17 4) (field w 11 5) (field w 6 5))
  | 0x4 => if w.getLsbD 16 then .ok (.cmpLtuImm (field w 17 4) (field w 11 5) (field w 4 7)) else zeros (field w 4 2 == 0) (.cmpLtu (field w 17 4) (field w 11 5) (field w 6 5))
  | 0x5 => if w.getLsbD 16 then .ok (.cmpGeuImm (field w 17 4) (field w 11 5) (field w 4 7)) else zeros (field w 4 2 == 0) (.cmpGeu (field w 17 4) (field w 11 5) (field w 6 5))
  | 0x6 => if w.getLsbD 16 then .ok (.cmpGtImm (field w 17 4) (field w 11 5) (field w 4 7)) else zeros (field w 4 2 == 0) (.cmpGt (field w 17 4) (field w 11 5) (field w 6 5))
  | 0x7 => if w.getLsbD 16 then .ok (.cmpLeImm (field w 17 4) (field w 11 5) (field w 4 7)) else zeros (field w 4 2 == 0) (.cmpLe (field w 17 4) (field w 11 5) (field w 6 5))
  | 0x8 => if w.getLsbD 16 then .ok (.cmpGtuImm (field w 17 4) (field w 11 5) (field w 4 7)) else zeros (field w 4 2 == 0) (.cmpGtu (field w 17 4) (field w 11 5) (field w 6 5))
  | 0x9 => if w.getLsbD 16 then .ok (.cmpLeuImm (field w 17 4) (field w 11 5) (field w 4 7)) else zeros (field w 4 2 == 0) (.cmpLeu (field w 17 4) (field w 11 5) (field w 6 5))
  | 0xA => if w.getLsbD 16 then .ok (.cmpTstImm (field w 17 4) (field w 11 5) (field w 4 7)) else zeros (field w 4 2 == 0) (.cmpTst (field w 17 4) (field w 11 5) (field w 6 5))
  | 0xB => if w.getLsbD 16 then .ok (.cmpNtstImm (field w 17 4) (field w 11 5) (field w 4 7)) else zeros (field w 4 2 == 0) (.cmpNtst (field w 17 4) (field w 11 5) (field w 6 5))
  | 0xC => if w.getLsbD 16 then .error .condition else zeros (field w 4 2 == 0) (.cmpFeq (field w 17 4) (field w 11 5) (field w 6 5))
  | 0xD => if w.getLsbD 16 then .error .condition else zeros (field w 4 2 == 0) (.cmpFlt (field w 17 4) (field w 11 5) (field w 6 5))
  | 0xE => if w.getLsbD 16 then .error .condition else zeros (field w 4 2 == 0) (.cmpFle (field w 17 4) (field w 11 5) (field w 6 5))
  | 0xF => if w.getLsbD 16 then .error .condition else zeros (field w 4 2 == 0) (.cmpFunord (field w 17 4) (field w 11 5) (field w 6 5))
  | _ => .error .function

/-- Major 0x09 (R40). -/
def decPred (w : Half) : Except Illegal Instr :=
  match (field w 0 6).toNat with
  | 0x0 => zeros (field w 6 3 == 0) (.pand (field w 17 4) (field w 13 4) (field w 9 4))
  | 0x1 => zeros (field w 6 3 == 0) (.por (field w 17 4) (field w 13 4) (field w 9 4))
  | 0x2 => zeros (field w 6 3 == 0) (.pxor (field w 17 4) (field w 13 4) (field w 9 4))
  | 0x3 => zeros (field w 6 3 == 0) (.pandn (field w 17 4) (field w 13 4) (field w 9 4))
  | 0x4 => zeros (field w 6 7 == 0) (.pnot (field w 17 4) (field w 13 4))
  | 0x8 => zeros (field w 6 10 == 0) (.pget (field w 16 5))
  | 0x9 => zeros (field w 16 5 == 0 && field w 6 5 == 0) (.pput (field w 11 5))
  | _ => .error .function

/-- Major 0x0E (R40). -/
def decJump (w : Half) : Except Illegal Instr :=
  match (field w 0 6).toNat with
  | 0x0 => zeros (field w 16 5 == 0 && field w 6 5 == 0) (.jr (field w 11 5))
  | 0x1 => zeros (field w 6 5 == 0) (.jcall (field w 16 5) (field w 11 5))
  | _ => .error .function

/-- Major 0x0F (R40). -/
def decFlt (w : Half) : Except Illegal Instr :=
  match (field w 0 6).toNat with
  | 0x0 => .ok (.fadd (field w 16 5) (field w 11 5) (field w 6 5))
  | 0x1 => .ok (.fsub (field w 16 5) (field w 11 5) (field w 6 5))
  | 0x2 => .ok (.fmul (field w 16 5) (field w 11 5) (field w 6 5))
  | 0x3 => .ok (.fma (field w 16 5) (field w 11 5) (field w 6 5))
  | 0x4 => .ok (.fmax (field w 16 5) (field w 11 5) (field w 6 5))
  | 0x5 => .ok (.fmin (field w 16 5) (field w 11 5) (field w 6 5))
  | 0x6 => zeros (field w 6 5 == 0) (.fabs (field w 16 5) (field w 11 5))
  | 0x7 => zeros (field w 6 5 == 0) (.fneg (field w 16 5) (field w 11 5))
  | 0x8 => .ok (.fdiv (field w 16 5) (field w 11 5) (field w 6 5))
  | 0x9 => zeros (field w 6 5 == 0) (.fsqrt (field w 16 5) (field w 11 5))
  | 0xA => zeros (field w 6 5 == 0) (.frsqrt (field w 16 5) (field w 11 5))
  | 0xB => zeros (field w 6 5 == 0) (.frcp (field w 16 5) (field w 11 5))
  | 0xC => zeros (field w 6 5 == 0) (.fexp2 (field w 16 5) (field w 11 5))
  | 0xD => zeros (field w 6 5 == 0) (.flog2 (field w 16 5) (field w 11 5))
  | 0x10 => zeros (field w 6 5 == 0) (.itof (field w 16 5) (field w 11 5))
  | 0x11 => zeros (field w 6 5 == 0) (.ftoiRne (field w 16 5) (field w 11 5))
  | 0x12 => zeros (field w 6 5 == 0) (.ftoiRz (field w 16 5) (field w 11 5))
  | 0x13 => zeros (field w 6 5 == 0) (.ftoiDn (field w 16 5) (field w 11 5))
  | 0x14 => .ok (.bfdot4 (field w 16 5) (field w 11 5) (field w 6 5))
  | 0x15 => .ok (.e4dot8 (field w 16 5) (field w 11 5) (field w 6 5))
  | 0x16 => .ok (.bfpack (field w 16 5) (field w 11 5) (field w 6 5))
  | 0x17 => zeros (field w 6 5 == 0) (.bfunpk (field w 16 5) (field w 11 5))
  | _ => .error .function

/-- Major 0x1B (R40). -/
def decAmo (w : Half) : Except Illegal Instr :=
  match (field w 0 5).toNat with
  | 0x0 => .ok (.aadd (field w 16 5) (field w 11 5) (field w 6 5) (w.getLsbD 5))
  | 0x1 => .ok (.aand (field w 16 5) (field w 11 5) (field w 6 5) (w.getLsbD 5))
  | 0x2 => .ok (.aor (field w 16 5) (field w 11 5) (field w 6 5) (w.getLsbD 5))
  | 0x3 => .ok (.axor (field w 16 5) (field w 11 5) (field w 6 5) (w.getLsbD 5))
  | 0x4 => .ok (.amin (field w 16 5) (field w 11 5) (field w 6 5) (w.getLsbD 5))
  | 0x5 => .ok (.amins (field w 16 5) (field w 11 5) (field w 6 5) (w.getLsbD 5))
  | 0x6 => .ok (.amax (field w 16 5) (field w 11 5) (field w 6 5) (w.getLsbD 5))
  | 0x7 => .ok (.amaxs (field w 16 5) (field w 11 5) (field w 6 5) (w.getLsbD 5))
  | 0x8 => .ok (.aswap (field w 16 5) (field w 11 5) (field w 6 5) (w.getLsbD 5))
  | 0x9 => .ok (.acas (field w 16 5) (field w 11 5) (field w 6 5) (w.getLsbD 5))
  | _ => .error .function

/-- Major 0x1C (R40). -/
def decPosted (w : Half) : Except Illegal Instr :=
  match (field w 0 5).toNat with
  | 0x0 => zeros (field w 16 5 == 0) (.postAdd (field w 11 5) (field w 6 5) (w.getLsbD 5))
  | 0x1 => zeros (field w 16 5 == 0) (.postAnd (field w 11 5) (field w 6 5) (w.getLsbD 5))
  | 0x2 => zeros (field w 16 5 == 0) (.postOr (field w 11 5) (field w 6 5) (w.getLsbD 5))
  | 0x3 => zeros (field w 16 5 == 0) (.postXor (field w 11 5) (field w 6 5) (w.getLsbD 5))
  | 0x4 => zeros (field w 16 5 == 0) (.postMin (field w 11 5) (field w 6 5) (w.getLsbD 5))
  | 0x5 => zeros (field w 16 5 == 0) (.postMins (field w 11 5) (field w 6 5) (w.getLsbD 5))
  | 0x6 => zeros (field w 16 5 == 0) (.postMax (field w 11 5) (field w 6 5) (w.getLsbD 5))
  | 0x7 => zeros (field w 16 5 == 0) (.postMaxs (field w 11 5) (field w 6 5) (w.getLsbD 5))
  | 0xA => zeros (field w 16 5 == 0) (.postSt (field w 11 5) (field w 6 5) (w.getLsbD 5))
  | _ => .error .function

/-- Major 0x1D (R40). -/
def decOrd (w : Half) : Except Illegal Instr :=
  match (field w 0 6).toNat with
  | 0x0 => zeros (field w 16 5 == 0 && field w 6 4 == 0) (.fenceRel (field w 13 3) (w.getLsbD 12) (w.getLsbD 11) (w.getLsbD 10))
  | 0x1 => zeros (field w 16 5 == 0 && field w 6 4 == 0) (.fenceAcq (field w 13 3) (w.getLsbD 12) (w.getLsbD 11) (w.getLsbD 10))
  | 0x2 => zeros (field w 16 5 == 0 && field w 6 4 == 0) (.fenceFull (field w 13 3) (w.getLsbD 12) (w.getLsbD 11) (w.getLsbD 10))
  | 0x3 => zeros (field w 16 5 == 0) (.park (field w 11 5) (field w 6 5))
  | _ => .error .function

/-- Major 0x1E (R40). -/
def decStrand (w : Half) : Except Illegal Instr :=
  match (field w 0 6).toNat with
  | 0x0 => .ok (.spawn (field w 16 5) (field w 11 5) (field w 6 5))
  | 0x1 => .ok (.spawnat (field w 16 5) (field w 11 5) (field w 6 5))
  | 0x2 => zeros (field w 16 5 == 0 && field w 6 5 == 0) (.go (field w 11 5))
  | 0x3 => zeros (field w 6 15 == 0) (.pin)
  | 0x4 => zeros (field w 6 15 == 0) (.unpin)
  | 0x5 => zeros (field w 16 5 == 0 && field w 6 5 == 0) (.join (field w 11 5))
  | 0x6 => zeros (field w 16 5 == 0) (.cancel (field w 11 5) (field w 6 5))
  | 0x7 => zeros (field w 16 5 == 0 && field w 6 5 == 0) (.prio (field w 11 5))
  | 0x8 => zeros (field w 16 5 == 0 && field w 6 5 == 0) (.setlin (field w 11 5))
  | _ => .error .function

/-- Major 0x1F (R40). -/
def decSync (w : Half) : Except Illegal Instr :=
  match (field w 0 6).toNat with
  | 0x0 => zeros (field w 16 5 == 0 && field w 6 5 == 0) (.arrive (field w 11 5))
  | 0x1 => zeros (field w 16 5 == 0) (.await (field w 11 5) (field w 6 5))
  | _ => .error .function

/-- Major 0x20 (R40). -/
def decValu (w : Half) : Except Illegal Instr :=
  match (field w 0 8).toNat with
  | 0x0 => .ok (.vfadd (field w 18 3) (field w 15 3) (field w 12 3) (field w 8 4))
  | 0x1 => .ok (.vfsub (field w 18 3) (field w 15 3) (field w 12 3) (field w 8 4))
  | 0x2 => .ok (.vfmul (field w 18 3) (field w 15 3) (field w 12 3) (field w 8 4))
  | 0x3 => .ok (.vfma (field w 18 3) (field w 15 3) (field w 12 3) (field w 8 4))
  | 0x4 => .ok (.vfmax (field w 18 3) (field w 15 3) (field w 12 3) (field w 8 4))
  | 0x5 => .ok (.vfmin (field w 18 3) (field w 15 3) (field w 12 3) (field w 8 4))
  | 0x6 => zeros (field w 15 3 == 0) (.vfabs (field w 18 3) (field w 12 3) (field w 8 4))
  | 0x7 => zeros (field w 15 3 == 0) (.vfneg (field w 18 3) (field w 12 3) (field w 8 4))
  | 0x8 => .ok (.vfdiv (field w 18 3) (field w 15 3) (field w 12 3) (field w 8 4))
  | 0x9 => .ok (.vfcmpEq (field w 18 3) (field w 15 3) (field w 12 3) (field w 8 4))
  | 0xA => .ok (.vfcmpLt (field w 18 3) (field w 15 3) (field w 12 3) (field w 8 4))
  | 0xB => .ok (.vfcmpLe (field w 18 3) (field w 15 3) (field w 12 3) (field w 8 4))
  | 0x10 => .ok (.viadd (field w 18 3) (field w 15 3) (field w 12 3) (field w 8 4))
  | 0x11 => .ok (.visub (field w 18 3) (field w 15 3) (field w 12 3) (field w 8 4))
  | 0x12 => .ok (.vimul (field w 18 3) (field w 15 3) (field w 12 3) (field w 8 4))
  | 0x13 => .ok (.vimax (field w 18 3) (field w 15 3) (field w 12 3) (field w 8 4))
  | 0x14 => .ok (.vimin (field w 18 3) (field w 15 3) (field w 12 3) (field w 8 4))
  | 0x15 => .ok (.vand (field w 18 3) (field w 15 3) (field w 12 3) (field w 8 4))
  | 0x16 => .ok (.vor (field w 18 3) (field w 15 3) (field w 12 3) (field w 8 4))
  | 0x17 => .ok (.vxor (field w 18 3) (field w 15 3) (field w 12 3) (field w 8 4))
  | 0x18 => .ok (.vshl (field w 18 3) (field w 15 3) (field w 12 3) (field w 8 4))
  | 0x19 => .ok (.vshr (field w 18 3) (field w 15 3) (field w 12 3) (field w 8 4))
  | 0x1A => .ok (.vsra (field w 18 3) (field w 15 3) (field w 12 3) (field w 8 4))
  | 0x1B => .ok (.vicmpEq (field w 18 3) (field w 15 3) (field w 12 3) (field w 8 4))
  | 0x1C => .ok (.vicmpLt (field w 18 3) (field w 15 3) (field w 12 3) (field w 8 4))
  | 0x20 => .ok (.vsel (field w 18 3) (field w 15 3) (field w 12 3) (field w 8 4))
  | 0x21 => zeros (field w 15 3 == 0) (.vmov (field w 18 3) (field w 12 3) (field w 8 4))
  | _ => .error .function

/-- Major 0x21 (R40). -/
def decVmem (w : Half) : Except Illegal Instr :=
  match (field w 0 4).toNat with
  | 0x0 => .ok (.vld (field w 18 3) (field w 13 5) (field w 8 5) (field w 4 4))
  | 0x1 => .ok (.vst (field w 18 3) (field w 13 5) (field w 8 5) (field w 4 4))
  | 0x2 => zeros (field w 8 5 == 0) (.vldr (field w 18 3) (field w 13 5) (field w 4 4))
  | _ => .error .function

/-- Major 0x22 (R40). -/
def decVcvt (w : Half) : Except Illegal Instr :=
  match (field w 0 8).toNat with
  | 0x0 => zeros (field w 15 3 == 0) (.vcvtF32I32 (field w 18 3) (field w 12 3) (field w 8 4))
  | 0x1 => zeros (field w 15 3 == 0) (.vcvtI32F32Rne (field w 18 3) (field w 12 3) (field w 8 4))
  | 0x2 => zeros (field w 15 3 == 0) (.vcvtI32F32Rz (field w 18 3) (field w 12 3) (field w 8 4))
  | 0x3 => zeros (field w 15 3 == 0) (.vqzE4m3 (field w 18 3) (field w 12 3) (field w 8 4))
  | 0x4 => zeros (field w 15 3 == 0) (.vqzE5m2 (field w 18 3) (field w 12 3) (field w 8 4))
  | 0x5 => zeros (field w 15 3 == 0) (.vqzBf16 (field w 18 3) (field w 12 3) (field w 8 4))
  | 0x6 => zeros (field w 15 3 == 0) (.vqzE5m2Ieee (field w 18 3) (field w 12 3) (field w 8 4))
  | _ => .error .function

/-- Major 0x23 (R40). -/
def decVred (w : Half) : Except Illegal Instr :=
  match (field w 0 8).toNat with
  | 0x0 => zeros (field w 15 3 == 0) (.vrsum (field w 18 3) (field w 12 3) (field w 8 4))
  | 0x1 => zeros (field w 15 3 == 0) (.vrmax (field w 18 3) (field w 12 3) (field w 8 4))
  | 0x2 => zeros (field w 15 3 == 0) (.vrmin (field w 18 3) (field w 12 3) (field w 8 4))
  | 0x3 => zeros (field w 15 3 == 0) (.vramax (field w 18 3) (field w 12 3) (field w 8 4))
  | 0x8 => zeros (field w 15 3 == 0) (.vrsqrt (field w 18 3) (field w 12 3) (field w 8 4))
  | 0x9 => zeros (field w 15 3 == 0) (.vrcp (field w 18 3) (field w 12 3) (field w 8 4))
  | 0xA => zeros (field w 15 3 == 0) (.vsqrt (field w 18 3) (field w 12 3) (field w 8 4))
  | 0xB => zeros (field w 15 3 == 0) (.vexp2 (field w 18 3) (field w 12 3) (field w 8 4))
  | 0xC => zeros (field w 15 3 == 0) (.vlog2 (field w 18 3) (field w 12 3) (field w 8 4))
  | _ => .error .function

/-- Major 0x24 (R40). -/
def decVcfg (w : Half) : Except Illegal Instr :=
  match (field w 0 6).toNat with
  | 0x0 => zeros (field w 6 15 == 0) (.vclaim)
  | 0x1 => zeros (field w 6 15 == 0) (.vrel)
  | 0x2 => zeros (field w 16 5 == 0) (.vshape (field w 11 5) (field w 6 5))
  | 0x3 => zeros (field w 16 2 == 0 && field w 6 5 == 0) (.vbcast (field w 18 3) (field w 11 5))
  | 0x4 => zeros (field w 16 2 == 0) (.vget (field w 18 3) (field w 11 5) (field w 6 5))
  | 0x5 => zeros (field w 16 2 == 0) (.vput (field w 18 3) (field w 11 5) (field w 6 5))
  | 0x6 => zeros (field w 6 12 == 0) (.vzero (field w 18 3))
  | _ => .error .function

/-- Major 0x29 (R40). -/
def decFctl (w : Half) : Except Illegal Instr :=
  match (field w 0 6).toNat with
  | 0x0 => zeros (field w 11 5 == 0) (.fid (field w 16 5) (field w 6 5))
  | 0x1 => zeros (field w 11 5 == 0) (.fdone (field w 16 5) (field w 6 5))
  | 0x2 => zeros (field w 16 5 == 0) (.fwait (field w 11 5) (field w 6 5))
  | 0x3 => zeros (field w 11 5 == 0) (.fstat (field w 16 5) (field w 6 5))
  | 0x4 => .ok (.mcset (field w 16 5) (field w 11 5) (field w 6 5))
  | 0x5 => zeros (field w 6 5 == 0) (.mcclr (field w 16 5) (field w 11 5))
  | 0x6 => .ok (.fres (field w 16 5) (field w 11 5) (field w 6 5))
  | 0x7 => .ok (.fabt (field w 16 5) (field w 11 5) (field w 6 5))
  | _ => .error .function

/-- Major 0x2D (R40). -/
def decMctl (w : Half) : Except Illegal Instr :=
  match (field w 0 6).toNat with
  | 0x0 => zeros (field w 6 15 == 0) (.mclaim)
  | 0x1 => zeros (field w 6 15 == 0) (.mrel)
  | 0x2 => zeros (field w 16 5 == 0) (.mfmt (field w 11 5) (field w 6 5))
  | 0x3 => zeros (field w 6 15 == 0) (.mwait)
  | 0x4 => zeros (field w 6 10 == 0) (.mstat (field w 16 5))
  | _ => .error .function

/-- Major 0x2E (R40). -/
def decCb (w : Half) : Except Illegal Instr :=
  match (field w 0 6).toNat with
  | 0x0 => zeros (field w 16 5 == 0) (.cbinit (field w 11 5) (field w 6 5))
  | 0x1 => zeros (field w 11 5 == 0) (.cbwait (field w 16 5) (field w 6 5))
  | 0x2 => zeros (field w 11 5 == 0) (.cbspace (field w 16 5) (field w 6 5))
  | 0x3 => zeros (field w 16 5 == 0) (.cbpush (field w 11 5) (field w 6 5))
  | 0x4 => zeros (field w 11 10 == 0) (.cbpop (field w 6 5))
  | 0x5 => zeros (field w 11 5 == 0) (.cbcnt (field w 16 5) (field w 6 5))
  | _ => .error .function

/-- Major 0x30 (R40). -/
def decXch (w : Half) : Except Illegal Instr :=
  match (field w 0 6).toNat with
  | 0x0 => .ok (.xopen (field w 16 5) (field w 11 5) (field w 6 5))
  | 0x1 => zeros (field w 11 5 == 0) (.xclose (field w 16 5) (field w 6 5))
  | 0x2 => zeros (field w 11 5 == 0) (.xstat (field w 16 5) (field w 6 5))
  | _ => .error .function

/-- Major 0x38 (R40). -/
def decCsr (w : Half) : Except Illegal Instr :=
  match (field w 14 2).toNat with
  | 0x0 => .ok (.csrr (field w 16 5) (field w 0 14))
  | 0x1 => .ok (.csrw (field w 16 5) (field w 0 14))
  | 0x2 => .ok (.csrs (field w 16 5) (field w 0 14))
  | 0x3 => .ok (.csrc (field w 16 5) (field w 0 14))
  | _ => .error .function

/-- Major 0x39 (R40). -/
def decPriv (w : Half) : Except Illegal Instr :=
  match (field w 0 6).toNat with
  | 0x0 => zeros (field w 6 15 == 0) (.tret)
  | 0x1 => zeros (field w 16 5 == 0) (.tlbi (field w 11 5) (field w 6 5))
  | 0x2 => zeros (field w 11 10 == 0) (.tlbia (field w 6 5))
  | 0x3 => zeros (field w 16 5 == 0) (.cwb (field w 11 5) (field w 6 5))
  | 0x4 => zeros (field w 16 5 == 0) (.cinv (field w 11 5) (field w 6 5))
  | 0x5 => .ok (.domset (field w 16 5) (field w 11 5) (field w 6 5))
  | 0x6 => .ok (.preemptSave (field w 16 5) (field w 11 5) (field w 6 5))
  | 0x7 => .ok (.pack (field w 16 5) (field w 11 5) (field w 6 5))
  | 0x8 => .ok (.prest (field w 16 5) (field w 11 5) (field w 6 5))
  | 0x9 => zeros (field w 6 5 == 0) (.sres (field w 16 5) (field w 11 5))
  | 0xA => zeros (field w 6 5 == 0) (.sredir (field w 16 5) (field w 11 5))
  | _ => .error .function

/-- The constructor a word names, before the limits on its fields (R40). -/
def decodeShape (w : Half) : Except Illegal Instr :=
  match (field w 26 6).toNat with
  | 0x00 => decSys w
  | 0x01 => decAlu w
  | 0x02 => .ok (.addi (field w 16 5) (field w 11 5) (field w 0 11))
  | 0x03 => .ok (.andi (field w 16 5) (field w 11 5) (field w 0 11))
  | 0x04 => .ok (.ori (field w 16 5) (field w 11 5) (field w 0 11))
  | 0x05 => .ok (.xori (field w 16 5) (field w 11 5) (field w 0 11))
  | 0x07 => .ok (.muli (field w 16 5) (field w 11 5) (field w 0 11))
  | 0x06 => decSh w
  | 0x08 => decCmp w
  | 0x09 => decPred w
  | 0x0A => zeros (field w 16 3 == 0) (.movz (field w 21 5) (field w 19 2) (field w 0 16))
  | 0x0B => zeros (field w 16 3 == 0) (.movk (field w 21 5) (field w 19 2) (field w 0 16))
  | 0x0C => .ok (.br (field w 0 21))
  | 0x0D => .ok (.call (field w 0 21))
  | 0x0E => decJump w
  | 0x0F => decFlt w
  | 0x10 => .ok (.ldb (field w 16 5) (field w 11 5) (field w 0 11))
  | 0x11 => .ok (.ldh (field w 16 5) (field w 11 5) (field w 0 11))
  | 0x12 => .ok (.ldw (field w 16 5) (field w 11 5) (field w 0 11))
  | 0x13 => .ok (.ldd (field w 16 5) (field w 11 5) (field w 0 11))
  | 0x14 => .ok (.ldbs (field w 16 5) (field w 11 5) (field w 0 11))
  | 0x15 => .ok (.ldhs (field w 16 5) (field w 11 5) (field w 0 11))
  | 0x16 => .ok (.ldws (field w 16 5) (field w 11 5) (field w 0 11))
  | 0x17 => .ok (.stb (field w 16 5) (field w 11 5) (field w 0 11))
  | 0x18 => .ok (.sth (field w 16 5) (field w 11 5) (field w 0 11))
  | 0x19 => .ok (.stw (field w 16 5) (field w 11 5) (field w 0 11))
  | 0x1A => .ok (.std (field w 16 5) (field w 11 5) (field w 0 11))
  | 0x1B => decAmo w
  | 0x1C => decPosted w
  | 0x1D => decOrd w
  | 0x1E => decStrand w
  | 0x1F => decSync w
  | 0x20 => decValu w
  | 0x21 => decVmem w
  | 0x22 => decVcvt w
  | 0x23 => decVred w
  | 0x24 => decVcfg w
  | 0x28 => zeros (field w 0 8 == 0) (.fetch (field w 16 5) (field w 12 4) (field w 8 4))
  | 0x29 => decFctl w
  | 0x2C => zeros (field w 0 12 == 0) (.mgo (field w 16 5) (field w 12 4))
  | 0x2D => decMctl w
  | 0x2E => decCb w
  | 0x30 => decXch w
  | 0x31 => zeros (field w 0 8 == 0) (.psend (field w 16 5) (field w 12 4) (field w 8 4))
  | 0x38 => decCsr w
  | 0x39 => decPriv w
  | _ => .error .major

/-- A word of the L format, which carries no guard (R34, R39). -/
def unguarded (w : Half) : Bool := field w 26 6 == 0x0A || field w 26 6 == 0x0B

/-- The instruction of a word, or why it is illegal in every mode (R41). -/
def decode (w : Half) : Except Illegal Instr :=
  match decodeShape w with
  | .error e => .error e
  | .ok i => match i.illegal with
    | none => .ok i
    | some e => .error e

/-- A word from its four bytes, little-endian (R34). -/
def wordOfBytes (b0 b1 b2 b3 : Byte) : Half := b3 ++ b2 ++ b1 ++ b0

/-- Decode the first word of a list of bytes; answers the rest. -/
def decodeBytes : List Byte → Option (Except Illegal Instr × List Byte)
  | b0 :: b1 :: b2 :: b3 :: rest => some (decode (wordOfBytes b0 b1 b2 b3), rest)
  | _ => none

/-- The word of an instruction under a guard, from the formats of R39 and the codes of R40; a step of the machine has none. -/
def encode (g : Guard) : Instr → Option Half
  | .nop => some (0#6 ++ g.pg ++ bit g.gn ++ 1#21)
  | .done => some (0#6 ++ g.pg ++ bit g.gn ++ 2#21)
  | .yield => some (0#6 ++ g.pg ++ bit g.gn ++ 3#21)
  | .trap c => some (0#6 ++ g.pg ++ bit g.gn ++ 0#5 ++ c ++ 4#6)
  | .brk => some (0#6 ++ g.pg ++ bit g.gn ++ 5#21)
  | .rdcyc d => some (0#6 ++ g.pg ++ bit g.gn ++ d ++ 6#16)
  | .rdout d => some (0#6 ++ g.pg ++ bit g.gn ++ d ++ 7#16)
  | .pseq d => some (0#6 ++ g.pg ++ bit g.gn ++ d ++ 8#16)
  | .svc c => some (0#6 ++ g.pg ++ bit g.gn ++ 0#5 ++ c ++ 9#6)
  | .add d a b => some (1#6 ++ g.pg ++ bit g.gn ++ d ++ a ++ b ++ 0#6)
  | .sub d a b => some (1#6 ++ g.pg ++ bit g.gn ++ d ++ a ++ b ++ 1#6)
  | .mul d a b => some (1#6 ++ g.pg ++ bit g.gn ++ d ++ a ++ b ++ 2#6)
  | .mulh d a b => some (1#6 ++ g.pg ++ bit g.gn ++ d ++ a ++ b ++ 3#6)
  | .mulhs d a b => some (1#6 ++ g.pg ++ bit g.gn ++ d ++ a ++ b ++ 4#6)
  | .div d a b => some (1#6 ++ g.pg ++ bit g.gn ++ d ++ a ++ b ++ 5#6)
  | .divs d a b => some (1#6 ++ g.pg ++ bit g.gn ++ d ++ a ++ b ++ 6#6)
  | .rem d a b => some (1#6 ++ g.pg ++ bit g.gn ++ d ++ a ++ b ++ 7#6)
  | .rems d a b => some (1#6 ++ g.pg ++ bit g.gn ++ d ++ a ++ b ++ 8#6)
  | .and d a b => some (1#6 ++ g.pg ++ bit g.gn ++ d ++ a ++ b ++ 9#6)
  | .or d a b => some (1#6 ++ g.pg ++ bit g.gn ++ d ++ a ++ b ++ 10#6)
  | .xor d a b => some (1#6 ++ g.pg ++ bit g.gn ++ d ++ a ++ b ++ 11#6)
  | .andn d a b => some (1#6 ++ g.pg ++ bit g.gn ++ d ++ a ++ b ++ 12#6)
  | .shl d a b => some (1#6 ++ g.pg ++ bit g.gn ++ d ++ a ++ b ++ 13#6)
  | .shr d a b => some (1#6 ++ g.pg ++ bit g.gn ++ d ++ a ++ b ++ 14#6)
  | .sra d a b => some (1#6 ++ g.pg ++ bit g.gn ++ d ++ a ++ b ++ 15#6)
  | .rol d a b => some (1#6 ++ g.pg ++ bit g.gn ++ d ++ a ++ b ++ 16#6)
  | .min d a b => some (1#6 ++ g.pg ++ bit g.gn ++ d ++ a ++ b ++ 17#6)
  | .mins d a b => some (1#6 ++ g.pg ++ bit g.gn ++ d ++ a ++ b ++ 18#6)
  | .max d a b => some (1#6 ++ g.pg ++ bit g.gn ++ d ++ a ++ b ++ 19#6)
  | .maxs d a b => some (1#6 ++ g.pg ++ bit g.gn ++ d ++ a ++ b ++ 20#6)
  | .clz d a => some (1#6 ++ g.pg ++ bit g.gn ++ d ++ a ++ 21#11)
  | .ctz d a => some (1#6 ++ g.pg ++ bit g.gn ++ d ++ a ++ 22#11)
  | .popc d a => some (1#6 ++ g.pg ++ bit g.gn ++ d ++ a ++ 23#11)
  | .sxb d a => some (1#6 ++ g.pg ++ bit g.gn ++ d ++ a ++ 24#11)
  | .sxh d a => some (1#6 ++ g.pg ++ bit g.gn ++ d ++ a ++ 25#11)
  | .sxw d a => some (1#6 ++ g.pg ++ bit g.gn ++ d ++ a ++ 26#11)
  | .zxw d a => some (1#6 ++ g.pg ++ bit g.gn ++ d ++ a ++ 27#11)
  | .addw d a b => some (1#6 ++ g.pg ++ bit g.gn ++ d ++ a ++ b ++ 28#6)
  | .subw d a b => some (1#6 ++ g.pg ++ bit g.gn ++ d ++ a ++ b ++ 29#6)
  | .mulw d a b => some (1#6 ++ g.pg ++ bit g.gn ++ d ++ a ++ b ++ 30#6)
  | .adds d a b => some (1#6 ++ g.pg ++ bit g.gn ++ d ++ a ++ b ++ 31#6)
  | .subs d a b => some (1#6 ++ g.pg ++ bit g.gn ++ d ++ a ++ b ++ 32#6)
  | .bswp d a => some (1#6 ++ g.pg ++ bit g.gn ++ d ++ a ++ 33#11)
  | .addi d a i => some (2#6 ++ g.pg ++ bit g.gn ++ d ++ a ++ i)
  | .andi d a i => some (3#6 ++ g.pg ++ bit g.gn ++ d ++ a ++ i)
  | .ori d a i => some (4#6 ++ g.pg ++ bit g.gn ++ d ++ a ++ i)
  | .xori d a i => some (5#6 ++ g.pg ++ bit g.gn ++ d ++ a ++ i)
  | .muli d a i => some (7#6 ++ g.pg ++ bit g.gn ++ d ++ a ++ i)
  | .shli d a m => some (6#6 ++ g.pg ++ bit g.gn ++ d ++ a ++ 0#5 ++ m)
  | .shri d a m => some (6#6 ++ g.pg ++ bit g.gn ++ d ++ a ++ 1#5 ++ m)
  | .srai d a m => some (6#6 ++ g.pg ++ bit g.gn ++ d ++ a ++ 2#5 ++ m)
  | .roli d a m => some (6#6 ++ g.pg ++ bit g.gn ++ d ++ a ++ 3#5 ++ m)
  | .cmpEq p a b => some (8#6 ++ g.pg ++ bit g.gn ++ p ++ 0#1 ++ a ++ b ++ 0#6)
  | .cmpEqImm p a i => some (8#6 ++ g.pg ++ bit g.gn ++ p ++ 1#1 ++ a ++ i ++ 0#4)
  | .cmpNe p a b => some (8#6 ++ g.pg ++ bit g.gn ++ p ++ 0#1 ++ a ++ b ++ 1#6)
  | .cmpNeImm p a i => some (8#6 ++ g.pg ++ bit g.gn ++ p ++ 1#1 ++ a ++ i ++ 1#4)
  | .cmpLt p a b => some (8#6 ++ g.pg ++ bit g.gn ++ p ++ 0#1 ++ a ++ b ++ 2#6)
  | .cmpLtImm p a i => some (8#6 ++ g.pg ++ bit g.gn ++ p ++ 1#1 ++ a ++ i ++ 2#4)
  | .cmpGe p a b => some (8#6 ++ g.pg ++ bit g.gn ++ p ++ 0#1 ++ a ++ b ++ 3#6)
  | .cmpGeImm p a i => some (8#6 ++ g.pg ++ bit g.gn ++ p ++ 1#1 ++ a ++ i ++ 3#4)
  | .cmpLtu p a b => some (8#6 ++ g.pg ++ bit g.gn ++ p ++ 0#1 ++ a ++ b ++ 4#6)
  | .cmpLtuImm p a i => some (8#6 ++ g.pg ++ bit g.gn ++ p ++ 1#1 ++ a ++ i ++ 4#4)
  | .cmpGeu p a b => some (8#6 ++ g.pg ++ bit g.gn ++ p ++ 0#1 ++ a ++ b ++ 5#6)
  | .cmpGeuImm p a i => some (8#6 ++ g.pg ++ bit g.gn ++ p ++ 1#1 ++ a ++ i ++ 5#4)
  | .cmpGt p a b => some (8#6 ++ g.pg ++ bit g.gn ++ p ++ 0#1 ++ a ++ b ++ 6#6)
  | .cmpGtImm p a i => some (8#6 ++ g.pg ++ bit g.gn ++ p ++ 1#1 ++ a ++ i ++ 6#4)
  | .cmpLe p a b => some (8#6 ++ g.pg ++ bit g.gn ++ p ++ 0#1 ++ a ++ b ++ 7#6)
  | .cmpLeImm p a i => some (8#6 ++ g.pg ++ bit g.gn ++ p ++ 1#1 ++ a ++ i ++ 7#4)
  | .cmpGtu p a b => some (8#6 ++ g.pg ++ bit g.gn ++ p ++ 0#1 ++ a ++ b ++ 8#6)
  | .cmpGtuImm p a i => some (8#6 ++ g.pg ++ bit g.gn ++ p ++ 1#1 ++ a ++ i ++ 8#4)
  | .cmpLeu p a b => some (8#6 ++ g.pg ++ bit g.gn ++ p ++ 0#1 ++ a ++ b ++ 9#6)
  | .cmpLeuImm p a i => some (8#6 ++ g.pg ++ bit g.gn ++ p ++ 1#1 ++ a ++ i ++ 9#4)
  | .cmpTst p a b => some (8#6 ++ g.pg ++ bit g.gn ++ p ++ 0#1 ++ a ++ b ++ 10#6)
  | .cmpTstImm p a i => some (8#6 ++ g.pg ++ bit g.gn ++ p ++ 1#1 ++ a ++ i ++ 10#4)
  | .cmpNtst p a b => some (8#6 ++ g.pg ++ bit g.gn ++ p ++ 0#1 ++ a ++ b ++ 11#6)
  | .cmpNtstImm p a i => some (8#6 ++ g.pg ++ bit g.gn ++ p ++ 1#1 ++ a ++ i ++ 11#4)
  | .cmpFeq p a b => some (8#6 ++ g.pg ++ bit g.gn ++ p ++ 0#1 ++ a ++ b ++ 12#6)
  | .cmpFlt p a b => some (8#6 ++ g.pg ++ bit g.gn ++ p ++ 0#1 ++ a ++ b ++ 13#6)
  | .cmpFle p a b => some (8#6 ++ g.pg ++ bit g.gn ++ p ++ 0#1 ++ a ++ b ++ 14#6)
  | .cmpFunord p a b => some (8#6 ++ g.pg ++ bit g.gn ++ p ++ 0#1 ++ a ++ b ++ 15#6)
  | .pand d a b => some (9#6 ++ g.pg ++ bit g.gn ++ d ++ a ++ b ++ 0#9)
  | .por d a b => some (9#6 ++ g.pg ++ bit g.gn ++ d ++ a ++ b ++ 1#9)
  | .pxor d a b => some (9#6 ++ g.pg ++ bit g.gn ++ d ++ a ++ b ++ 2#9)
  | .pandn d a b => some (9#6 ++ g.pg ++ bit g.gn ++ d ++ a ++ b ++ 3#9)
  | .pnot d a => some (9#6 ++ g.pg ++ bit g.gn ++ d ++ a ++ 4#13)
  | .pget d => some (9#6 ++ g.pg ++ bit g.gn ++ d ++ 8#16)
  | .pput a => some (9#6 ++ g.pg ++ bit g.gn ++ 0#5 ++ a ++ 9#11)
  | .movz d h i => some (10#6 ++ d ++ h ++ 0#3 ++ i)
  | .movk d h i => some (11#6 ++ d ++ h ++ 0#3 ++ i)
  | .br o => some (12#6 ++ g.pg ++ bit g.gn ++ o)
  | .call o => some (13#6 ++ g.pg ++ bit g.gn ++ o)
  | .jr a => some (14#6 ++ g.pg ++ bit g.gn ++ 0#5 ++ a ++ 0#11)
  | .jcall d a => some (14#6 ++ g.pg ++ bit g.gn ++ d ++ a ++ 1#11)
  | .fadd d a b => some (15#6 ++ g.pg ++ bit g.gn ++ d ++ a ++ b ++ 0#6)
  | .fsub d a b => some (15#6 ++ g.pg ++ bit g.gn ++ d ++ a ++ b ++ 1#6)
  | .fmul d a b => some (15#6 ++ g.pg ++ bit g.gn ++ d ++ a ++ b ++ 2#6)
  | .fma d a b => some (15#6 ++ g.pg ++ bit g.gn ++ d ++ a ++ b ++ 3#6)
  | .fmax d a b => some (15#6 ++ g.pg ++ bit g.gn ++ d ++ a ++ b ++ 4#6)
  | .fmin d a b => some (15#6 ++ g.pg ++ bit g.gn ++ d ++ a ++ b ++ 5#6)
  | .fabs d a => some (15#6 ++ g.pg ++ bit g.gn ++ d ++ a ++ 6#11)
  | .fneg d a => some (15#6 ++ g.pg ++ bit g.gn ++ d ++ a ++ 7#11)
  | .fdiv d a b => some (15#6 ++ g.pg ++ bit g.gn ++ d ++ a ++ b ++ 8#6)
  | .fsqrt d a => some (15#6 ++ g.pg ++ bit g.gn ++ d ++ a ++ 9#11)
  | .frsqrt d a => some (15#6 ++ g.pg ++ bit g.gn ++ d ++ a ++ 10#11)
  | .frcp d a => some (15#6 ++ g.pg ++ bit g.gn ++ d ++ a ++ 11#11)
  | .fexp2 d a => some (15#6 ++ g.pg ++ bit g.gn ++ d ++ a ++ 12#11)
  | .flog2 d a => some (15#6 ++ g.pg ++ bit g.gn ++ d ++ a ++ 13#11)
  | .itof d a => some (15#6 ++ g.pg ++ bit g.gn ++ d ++ a ++ 16#11)
  | .ftoiRne d a => some (15#6 ++ g.pg ++ bit g.gn ++ d ++ a ++ 17#11)
  | .ftoiRz d a => some (15#6 ++ g.pg ++ bit g.gn ++ d ++ a ++ 18#11)
  | .ftoiDn d a => some (15#6 ++ g.pg ++ bit g.gn ++ d ++ a ++ 19#11)
  | .bfdot4 d a b => some (15#6 ++ g.pg ++ bit g.gn ++ d ++ a ++ b ++ 20#6)
  | .e4dot8 d a b => some (15#6 ++ g.pg ++ bit g.gn ++ d ++ a ++ b ++ 21#6)
  | .bfpack d a b => some (15#6 ++ g.pg ++ bit g.gn ++ d ++ a ++ b ++ 22#6)
  | .bfunpk d a => some (15#6 ++ g.pg ++ bit g.gn ++ d ++ a ++ 23#11)
  | .ldb d a i => some (16#6 ++ g.pg ++ bit g.gn ++ d ++ a ++ i)
  | .ldh d a i => some (17#6 ++ g.pg ++ bit g.gn ++ d ++ a ++ i)
  | .ldw d a i => some (18#6 ++ g.pg ++ bit g.gn ++ d ++ a ++ i)
  | .ldd d a i => some (19#6 ++ g.pg ++ bit g.gn ++ d ++ a ++ i)
  | .ldbs d a i => some (20#6 ++ g.pg ++ bit g.gn ++ d ++ a ++ i)
  | .ldhs d a i => some (21#6 ++ g.pg ++ bit g.gn ++ d ++ a ++ i)
  | .ldws d a i => some (22#6 ++ g.pg ++ bit g.gn ++ d ++ a ++ i)
  | .stb d a i => some (23#6 ++ g.pg ++ bit g.gn ++ d ++ a ++ i)
  | .sth d a i => some (24#6 ++ g.pg ++ bit g.gn ++ d ++ a ++ i)
  | .stw d a i => some (25#6 ++ g.pg ++ bit g.gn ++ d ++ a ++ i)
  | .std d a i => some (26#6 ++ g.pg ++ bit g.gn ++ d ++ a ++ i)
  | .aadd d a b z => some (27#6 ++ g.pg ++ bit g.gn ++ d ++ a ++ b ++ bit z ++ 0#5)
  | .aand d a b z => some (27#6 ++ g.pg ++ bit g.gn ++ d ++ a ++ b ++ bit z ++ 1#5)
  | .aor d a b z => some (27#6 ++ g.pg ++ bit g.gn ++ d ++ a ++ b ++ bit z ++ 2#5)
  | .axor d a b z => some (27#6 ++ g.pg ++ bit g.gn ++ d ++ a ++ b ++ bit z ++ 3#5)
  | .amin d a b z => some (27#6 ++ g.pg ++ bit g.gn ++ d ++ a ++ b ++ bit z ++ 4#5)
  | .amins d a b z => some (27#6 ++ g.pg ++ bit g.gn ++ d ++ a ++ b ++ bit z ++ 5#5)
  | .amax d a b z => some (27#6 ++ g.pg ++ bit g.gn ++ d ++ a ++ b ++ bit z ++ 6#5)
  | .amaxs d a b z => some (27#6 ++ g.pg ++ bit g.gn ++ d ++ a ++ b ++ bit z ++ 7#5)
  | .aswap d a b z => some (27#6 ++ g.pg ++ bit g.gn ++ d ++ a ++ b ++ bit z ++ 8#5)
  | .acas d a b z => some (27#6 ++ g.pg ++ bit g.gn ++ d ++ a ++ b ++ bit z ++ 9#5)
  | .postAdd a b z => some (28#6 ++ g.pg ++ bit g.gn ++ 0#5 ++ a ++ b ++ bit z ++ 0#5)
  | .postAnd a b z => some (28#6 ++ g.pg ++ bit g.gn ++ 0#5 ++ a ++ b ++ bit z ++ 1#5)
  | .postOr a b z => some (28#6 ++ g.pg ++ bit g.gn ++ 0#5 ++ a ++ b ++ bit z ++ 2#5)
  | .postXor a b z => some (28#6 ++ g.pg ++ bit g.gn ++ 0#5 ++ a ++ b ++ bit z ++ 3#5)
  | .postMin a b z => some (28#6 ++ g.pg ++ bit g.gn ++ 0#5 ++ a ++ b ++ bit z ++ 4#5)
  | .postMins a b z => some (28#6 ++ g.pg ++ bit g.gn ++ 0#5 ++ a ++ b ++ bit z ++ 5#5)
  | .postMax a b z => some (28#6 ++ g.pg ++ bit g.gn ++ 0#5 ++ a ++ b ++ bit z ++ 6#5)
  | .postMaxs a b z => some (28#6 ++ g.pg ++ bit g.gn ++ 0#5 ++ a ++ b ++ bit z ++ 7#5)
  | .postSt a b z => some (28#6 ++ g.pg ++ bit g.gn ++ 0#5 ++ a ++ b ++ bit z ++ 10#5)
  | .fenceRel t x m l => some (29#6 ++ g.pg ++ bit g.gn ++ 0#5 ++ t ++ bit x ++ bit m ++ bit l ++ 0#10)
  | .fenceAcq t x m l => some (29#6 ++ g.pg ++ bit g.gn ++ 0#5 ++ t ++ bit x ++ bit m ++ bit l ++ 1#10)
  | .fenceFull t x m l => some (29#6 ++ g.pg ++ bit g.gn ++ 0#5 ++ t ++ bit x ++ bit m ++ bit l ++ 2#10)
  | .park a b => some (29#6 ++ g.pg ++ bit g.gn ++ 0#5 ++ a ++ b ++ 3#6)
  | .spawn d a b => some (30#6 ++ g.pg ++ bit g.gn ++ d ++ a ++ b ++ 0#6)
  | .spawnat d a b => some (30#6 ++ g.pg ++ bit g.gn ++ d ++ a ++ b ++ 1#6)
  | .go a => some (30#6 ++ g.pg ++ bit g.gn ++ 0#5 ++ a ++ 2#11)
  | .pin => some (30#6 ++ g.pg ++ bit g.gn ++ 3#21)
  | .unpin => some (30#6 ++ g.pg ++ bit g.gn ++ 4#21)
  | .join a => some (30#6 ++ g.pg ++ bit g.gn ++ 0#5 ++ a ++ 5#11)
  | .cancel a b => some (30#6 ++ g.pg ++ bit g.gn ++ 0#5 ++ a ++ b ++ 6#6)
  | .prio a => some (30#6 ++ g.pg ++ bit g.gn ++ 0#5 ++ a ++ 7#11)
  | .setlin a => some (30#6 ++ g.pg ++ bit g.gn ++ 0#5 ++ a ++ 8#11)
  | .arrive a => some (31#6 ++ g.pg ++ bit g.gn ++ 0#5 ++ a ++ 0#11)
  | .await a b => some (31#6 ++ g.pg ++ bit g.gn ++ 0#5 ++ a ++ b ++ 1#6)
  | .vfadd d a b l => some (32#6 ++ g.pg ++ bit g.gn ++ d ++ a ++ b ++ l ++ 0#8)
  | .vfsub d a b l => some (32#6 ++ g.pg ++ bit g.gn ++ d ++ a ++ b ++ l ++ 1#8)
  | .vfmul d a b l => some (32#6 ++ g.pg ++ bit g.gn ++ d ++ a ++ b ++ l ++ 2#8)
  | .vfma d a b l => some (32#6 ++ g.pg ++ bit g.gn ++ d ++ a ++ b ++ l ++ 3#8)
  | .vfmax d a b l => some (32#6 ++ g.pg ++ bit g.gn ++ d ++ a ++ b ++ l ++ 4#8)
  | .vfmin d a b l => some (32#6 ++ g.pg ++ bit g.gn ++ d ++ a ++ b ++ l ++ 5#8)
  | .vfabs d b l => some (32#6 ++ g.pg ++ bit g.gn ++ d ++ 0#3 ++ b ++ l ++ 6#8)
  | .vfneg d b l => some (32#6 ++ g.pg ++ bit g.gn ++ d ++ 0#3 ++ b ++ l ++ 7#8)
  | .vfdiv d a b l => some (32#6 ++ g.pg ++ bit g.gn ++ d ++ a ++ b ++ l ++ 8#8)
  | .vfcmpEq d a b l => some (32#6 ++ g.pg ++ bit g.gn ++ d ++ a ++ b ++ l ++ 9#8)
  | .vfcmpLt d a b l => some (32#6 ++ g.pg ++ bit g.gn ++ d ++ a ++ b ++ l ++ 10#8)
  | .vfcmpLe d a b l => some (32#6 ++ g.pg ++ bit g.gn ++ d ++ a ++ b ++ l ++ 11#8)
  | .viadd d a b l => some (32#6 ++ g.pg ++ bit g.gn ++ d ++ a ++ b ++ l ++ 16#8)
  | .visub d a b l => some (32#6 ++ g.pg ++ bit g.gn ++ d ++ a ++ b ++ l ++ 17#8)
  | .vimul d a b l => some (32#6 ++ g.pg ++ bit g.gn ++ d ++ a ++ b ++ l ++ 18#8)
  | .vimax d a b l => some (32#6 ++ g.pg ++ bit g.gn ++ d ++ a ++ b ++ l ++ 19#8)
  | .vimin d a b l => some (32#6 ++ g.pg ++ bit g.gn ++ d ++ a ++ b ++ l ++ 20#8)
  | .vand d a b l => some (32#6 ++ g.pg ++ bit g.gn ++ d ++ a ++ b ++ l ++ 21#8)
  | .vor d a b l => some (32#6 ++ g.pg ++ bit g.gn ++ d ++ a ++ b ++ l ++ 22#8)
  | .vxor d a b l => some (32#6 ++ g.pg ++ bit g.gn ++ d ++ a ++ b ++ l ++ 23#8)
  | .vshl d a b l => some (32#6 ++ g.pg ++ bit g.gn ++ d ++ a ++ b ++ l ++ 24#8)
  | .vshr d a b l => some (32#6 ++ g.pg ++ bit g.gn ++ d ++ a ++ b ++ l ++ 25#8)
  | .vsra d a b l => some (32#6 ++ g.pg ++ bit g.gn ++ d ++ a ++ b ++ l ++ 26#8)
  | .vicmpEq d a b l => some (32#6 ++ g.pg ++ bit g.gn ++ d ++ a ++ b ++ l ++ 27#8)
  | .vicmpLt d a b l => some (32#6 ++ g.pg ++ bit g.gn ++ d ++ a ++ b ++ l ++ 28#8)
  | .vsel d a b l => some (32#6 ++ g.pg ++ bit g.gn ++ d ++ a ++ b ++ l ++ 32#8)
  | .vmov d b l => some (32#6 ++ g.pg ++ bit g.gn ++ d ++ 0#3 ++ b ++ l ++ 33#8)
  | .vld v a b t => some (33#6 ++ g.pg ++ bit g.gn ++ v ++ a ++ b ++ t ++ 0#4)
  | .vst v a b t => some (33#6 ++ g.pg ++ bit g.gn ++ v ++ a ++ b ++ t ++ 1#4)
  | .vldr v a t => some (33#6 ++ g.pg ++ bit g.gn ++ v ++ a ++ 0#5 ++ t ++ 2#4)
  | .vcvtF32I32 d b l => some (34#6 ++ g.pg ++ bit g.gn ++ d ++ 0#3 ++ b ++ l ++ 0#8)
  | .vcvtI32F32Rne d b l => some (34#6 ++ g.pg ++ bit g.gn ++ d ++ 0#3 ++ b ++ l ++ 1#8)
  | .vcvtI32F32Rz d b l => some (34#6 ++ g.pg ++ bit g.gn ++ d ++ 0#3 ++ b ++ l ++ 2#8)
  | .vqzE4m3 d b l => some (34#6 ++ g.pg ++ bit g.gn ++ d ++ 0#3 ++ b ++ l ++ 3#8)
  | .vqzE5m2 d b l => some (34#6 ++ g.pg ++ bit g.gn ++ d ++ 0#3 ++ b ++ l ++ 4#8)
  | .vqzBf16 d b l => some (34#6 ++ g.pg ++ bit g.gn ++ d ++ 0#3 ++ b ++ l ++ 5#8)
  | .vqzE5m2Ieee d b l => some (34#6 ++ g.pg ++ bit g.gn ++ d ++ 0#3 ++ b ++ l ++ 6#8)
  | .vrsum d b l => some (35#6 ++ g.pg ++ bit g.gn ++ d ++ 0#3 ++ b ++ l ++ 0#8)
  | .vrmax d b l => some (35#6 ++ g.pg ++ bit g.gn ++ d ++ 0#3 ++ b ++ l ++ 1#8)
  | .vrmin d b l => some (35#6 ++ g.pg ++ bit g.gn ++ d ++ 0#3 ++ b ++ l ++ 2#8)
  | .vramax d b l => some (35#6 ++ g.pg ++ bit g.gn ++ d ++ 0#3 ++ b ++ l ++ 3#8)
  | .vrsqrt d b l => some (35#6 ++ g.pg ++ bit g.gn ++ d ++ 0#3 ++ b ++ l ++ 8#8)
  | .vrcp d b l => some (35#6 ++ g.pg ++ bit g.gn ++ d ++ 0#3 ++ b ++ l ++ 9#8)
  | .vsqrt d b l => some (35#6 ++ g.pg ++ bit g.gn ++ d ++ 0#3 ++ b ++ l ++ 10#8)
  | .vexp2 d b l => some (35#6 ++ g.pg ++ bit g.gn ++ d ++ 0#3 ++ b ++ l ++ 11#8)
  | .vlog2 d b l => some (35#6 ++ g.pg ++ bit g.gn ++ d ++ 0#3 ++ b ++ l ++ 12#8)
  | .vclaim => some (36#6 ++ g.pg ++ bit g.gn ++ 0#21)
  | .vrel => some (36#6 ++ g.pg ++ bit g.gn ++ 1#21)
  | .vshape a b => some (36#6 ++ g.pg ++ bit g.gn ++ 0#5 ++ a ++ b ++ 2#6)
  | .vbcast v a => some (36#6 ++ g.pg ++ bit g.gn ++ v ++ 0#2 ++ a ++ 3#11)
  | .vget v a b => some (36#6 ++ g.pg ++ bit g.gn ++ v ++ 0#2 ++ a ++ b ++ 4#6)
  | .vput v a b => some (36#6 ++ g.pg ++ bit g.gn ++ v ++ 0#2 ++ a ++ b ++ 5#6)
  | .vzero v => some (36#6 ++ g.pg ++ bit g.gn ++ v ++ 6#18)
  | .fetch s p c => some (40#6 ++ g.pg ++ bit g.gn ++ s ++ p ++ c ++ 0#8)
  | .fid d c => some (41#6 ++ g.pg ++ bit g.gn ++ d ++ 0#5 ++ c ++ 0#6)
  | .fdone d c => some (41#6 ++ g.pg ++ bit g.gn ++ d ++ 0#5 ++ c ++ 1#6)
  | .fwait a c => some (41#6 ++ g.pg ++ bit g.gn ++ 0#5 ++ a ++ c ++ 2#6)
  | .fstat d c => some (41#6 ++ g.pg ++ bit g.gn ++ d ++ 0#5 ++ c ++ 3#6)
  | .mcset d a b => some (41#6 ++ g.pg ++ bit g.gn ++ d ++ a ++ b ++ 4#6)
  | .mcclr d a => some (41#6 ++ g.pg ++ bit g.gn ++ d ++ a ++ 5#11)
  | .fres d a c => some (41#6 ++ g.pg ++ bit g.gn ++ d ++ a ++ c ++ 6#6)
  | .fabt d a c => some (41#6 ++ g.pg ++ bit g.gn ++ d ++ a ++ c ++ 7#6)
  | .mgo s p => some (44#6 ++ g.pg ++ bit g.gn ++ s ++ p ++ 0#12)
  | .mclaim => some (45#6 ++ g.pg ++ bit g.gn ++ 0#21)
  | .mrel => some (45#6 ++ g.pg ++ bit g.gn ++ 1#21)
  | .mfmt a b => some (45#6 ++ g.pg ++ bit g.gn ++ 0#5 ++ a ++ b ++ 2#6)
  | .mwait => some (45#6 ++ g.pg ++ bit g.gn ++ 3#21)
  | .mstat d => some (45#6 ++ g.pg ++ bit g.gn ++ d ++ 4#16)
  | .cbinit a h => some (46#6 ++ g.pg ++ bit g.gn ++ 0#5 ++ a ++ h ++ 0#6)
  | .cbwait d h => some (46#6 ++ g.pg ++ bit g.gn ++ d ++ 0#5 ++ h ++ 1#6)
  | .cbspace d h => some (46#6 ++ g.pg ++ bit g.gn ++ d ++ 0#5 ++ h ++ 2#6)
  | .cbpush a h => some (46#6 ++ g.pg ++ bit g.gn ++ 0#5 ++ a ++ h ++ 3#6)
  | .cbpop h => some (46#6 ++ g.pg ++ bit g.gn ++ 0#10 ++ h ++ 4#6)
  | .cbcnt d h => some (46#6 ++ g.pg ++ bit g.gn ++ d ++ 0#5 ++ h ++ 5#6)
  | .xopen d a c => some (48#6 ++ g.pg ++ bit g.gn ++ d ++ a ++ c ++ 0#6)
  | .xclose d c => some (48#6 ++ g.pg ++ bit g.gn ++ d ++ 0#5 ++ c ++ 1#6)
  | .xstat d c => some (48#6 ++ g.pg ++ bit g.gn ++ d ++ 0#5 ++ c ++ 2#6)
  | .psend s p c => some (49#6 ++ g.pg ++ bit g.gn ++ s ++ p ++ c ++ 0#8)
  | .csrr r c => some (56#6 ++ g.pg ++ bit g.gn ++ r ++ 0#2 ++ c)
  | .csrw r c => some (56#6 ++ g.pg ++ bit g.gn ++ r ++ 1#2 ++ c)
  | .csrs r c => some (56#6 ++ g.pg ++ bit g.gn ++ r ++ 2#2 ++ c)
  | .csrc r c => some (56#6 ++ g.pg ++ bit g.gn ++ r ++ 3#2 ++ c)
  | .tret => some (57#6 ++ g.pg ++ bit g.gn ++ 0#21)
  | .tlbi a b => some (57#6 ++ g.pg ++ bit g.gn ++ 0#5 ++ a ++ b ++ 1#6)
  | .tlbia b => some (57#6 ++ g.pg ++ bit g.gn ++ 0#10 ++ b ++ 2#6)
  | .cwb a b => some (57#6 ++ g.pg ++ bit g.gn ++ 0#5 ++ a ++ b ++ 3#6)
  | .cinv a b => some (57#6 ++ g.pg ++ bit g.gn ++ 0#5 ++ a ++ b ++ 4#6)
  | .domset d a b => some (57#6 ++ g.pg ++ bit g.gn ++ d ++ a ++ b ++ 5#6)
  | .preemptSave d a b => some (57#6 ++ g.pg ++ bit g.gn ++ d ++ a ++ b ++ 6#6)
  | .pack d a b => some (57#6 ++ g.pg ++ bit g.gn ++ d ++ a ++ b ++ 7#6)
  | .prest d a b => some (57#6 ++ g.pg ++ bit g.gn ++ d ++ a ++ b ++ 8#6)
  | .sres d a => some (57#6 ++ g.pg ++ bit g.gn ++ d ++ a ++ 9#11)
  | .sredir d a => some (57#6 ++ g.pg ++ bit g.gn ++ d ++ a ++ 10#11)
  | .preemptRestore _ _ _ | .preemptReset _ _ _ | .matrixMzero | .matrixMstep | .matrixMload | .matrixMout
  | .matrixStepFire | .matrixActionEnd | .deferredEngineTrap | .imageLoad | .migrationArrival
  | .spawnatArrival | .parkContextArrival | .contextReturnArrival | .admissionAnswer | .refusalArrival
  | .callFlitArrival | .holdAgeTick | .refusalResendTimeout | .classAgeTick | .kennelToBarrel | .lentMoveDone
  | .pinHoldExpiry | .contextLost | .requestArrival | .responseArrival | .postedArrival | .watcherReady
  | .joinContinuation | .acknowledgementArrival | .postedRefusalArrival | .deferredRefusalTrap
  | .walkEntryResponse | .icacheFill | .icacheParityRefill | .patrolScrub | .dramRefresh | .cancelFlitArrival
  | .cancelStopAck | .sweepFlitArrival | .markerFlitArrival | .cancelFinalAck | .fetchTableRead
  | .fetchTableEntryArrival | .fetchReadIssue | .burstLandBuffer | .burstLandMulticast | .burstLandCb
  | .burstLandHandler | .engineWriteArrival | .engineWriteAck | .fetchSlotPush | .fetchCompletionPoint
  | .completionArrivalAck | .fresAtChannel | .xchBindArrival | .xchBindReply | .xchSlotStart
  | .xchDataFlitArrival | .xchPermitArrival | .xchRefreshTimer | .xchCounterParityError
  | .xchResyncFlitArrival | .xchErrorFlitArrival | .xchCloseRequestArrival | .xchUnbindArrival
  | .xchUnbindReply | .diePortFlitArrival | .orderCountTimer | .orderCountArrival | .flitHeaderFailure
  | .gorrexFrameArrival | .gorrexIdleFrameTimer | .gorrexReplayTimeout | .gorrexLaneFailure
  | .gorrexRetrainDone | .gorrexCounterParityError | .gorrexResyncAnswer | .gorrexLaneRecalibration
  | .telemetrySample | .ethernetFrameArrival | .serviceEntryRegister | .serviceEntryClear | .launchDispatch
  | .psendTransmit | .hostLaunchAppend | .hostMemoryAccess | .powerOnReset | .supervisorCoreRestart
  | .quoteRequest | .thermalGovernance | .thermalShutdown | .messageRingWrite | .singleStepTrap
  | .preemptFlitArrival | .preemptTileAck | .restoreFlitArrival | .sliceExpiry | .tlbiFlitArrival
  | .domsetHoldArrival | .domsetDescriptorArrival | .cacheOpArrival | .sresArrival | .remoteCsrRequest
  | .csrWrite | .kdepthKlendWrite | .wdepthWrite | .stargetWrite | .pinholdWrite | .msgringWrite
  | .gorrexExpectedParityError | .supervisorStartedRetrain | .tileMapWrite | .forwardingEntryInstall
  | .virtualFunctionBinding | .vectorLastRowWritten => none

/-- The bytes of a word as stored (R34). -/
def bytesOfWord (w : Half) : List Byte := [field w 0 8, field w 8 8, field w 16 8, field w 24 8]

/-- The decoder on a word numbered as the table of operations numbers it: bit 0 is the least significant bit. -/
def decodeTableWord (nbits w : Nat) : Option Instr :=
  match decodeBytes (bytesOfWord (BitVec.ofNat 32 (w % 2 ^ nbits))) with
  | some (.ok i, _) => some i
  | _ => none

/-- The unguarded form (R34). -/
def always : Guard := ⟨0, false⟩

/-- The pseudo-instructions `mov`, `neg`, `not`, `b` and `ret` (R44). -/
def mov (d a : Reg) : Instr := .or d a 24
def neg (d a : Reg) : Instr := .sub d 24 a
def notReg (d a : Reg) : Instr := .xori d a (-1)
def branch (o : BitVec 21) : Instr := .br o
def ret : Instr := .jr 23

/-- The 16-bit halfwords of a constant, lowest first, with their indices. -/
def halfwords (v : Word) : List (BitVec 2 × BitVec 16) :=
  [(0, v.extractLsb' 0 16), (1, v.extractLsb' 16 16), (2, v.extractLsb' 32 16), (3, v.extractLsb' 48 16)]

/-- The pseudo-instruction `li` (R44). -/
def li (d : Reg) (v : Word) : List Instr :=
  match (halfwords v).filter (fun h => h.2 != 0) with
  | [] => [.movz d 0 0]
  | (h, x) :: rest => .movz d h x :: rest.map (fun y => .movk d y.1 y.2)

end Sys2Proof
end

