-- ==== Sys2Proof/Config.lean ====
section
/-! DEFINITION. What is fixed for the module: geometry (R6 to R12, R243), latency constants (R13, R87), and the
values the manual leaves open, which have no body. -/

namespace Sys2Proof.Config

/-- The points that the manual leaves open and on which the machine goes on. -/
inductive Open where
  /-- refresh cycles a miss meets, 0-24 (R87) -/
  | refresh
  /-- scrub cycles a miss meets, 0-4 (R87) -/
  | scrub
  /-- deflections a packet meets (R245) -/
  | deflect
  /-- which core with a ready strand issues first within one cycle -/
  | core
  /-- the order of accesses of different source tiles in one cycle (R112) -/
  | arrival
  /-- the line that a full set of the tile cache gives up (R60) -/
  | victim
  /-- the line that a full instruction cache gives up (R61) -/
  | ivictim
  /-- bytes of a save record whose layout is not given (R186, R239, R265, R266) -/
  | record
  /-- the link of a set that a frame takes (R250) -/
  | link
  /-- contents of a telemetry packet (R255) -/
  | telemetry
  deriving DecidableEq, Repr, Inhabited

/-- The free value for the `n`-th choice of a kind. It has no body: nothing can evaluate it (log entry 5). -/
opaque free : Open → Nat → Nat

/-- The CRC-16 of a flit header's covered bits, whose polynomial the manual does not give (R246). -/
opaque crc16 (covered : BitVec 128) : BitVec 16
/-- The SEC-DED code over a flit's payload, whose matrix the manual does not give (R246). -/
opaque secded (payload : BitVec 512) : BitVec 11
/-- The payload of a packet's flit, where the manual lays none out (R247). -/
opaque payload (p : Packet) (fi : Nat) : BitVec 512
/-- The payload of a flit for a peer module, which the manual does not lay out (R247, R250). -/
opaque peerPayload (m : PeerMsg) : BitVec 512
/-- The context tag of a control flit, which the manual leaves to its function (R247). -/
opaque controlTag (p : Packet) : BitVec 32

/-- The save area of a function whose turn ends, or of a partition that stops, in 4 KiB units of each tile's memory: the
manual leaves its place to the firmware (R268, R269; log entry 13). -/
opaque area (key : Nat) : Nat

/-- What a signed configuration record sets: the manual gives no form for its bytes (R294; log entry 71). -/
opaque settings (record : List Byte) : List Setting
/-- The bits of the headers of a sent datagram that the manual leaves open: the traffic class, the time to live and the
identification or flow label (R292; log entry 72). -/
opaque ipOpen (n : Nat) : BitVec 36

/-- Whether an ECDSA P-384 signature over a digest is the Leresk root key's (R294). -/
opaque rootSigned (digest sig : List Byte) : Bool
/-- The entry point of a verified firmware image, which the manual does not give (R294). -/
opaque firmwareEntry (image : List Byte) : BitVec 48
/-- The attestation key's identity that a die derives from its unclonable function and register 0 (R295). -/
opaque deviceKey (die : Nat) (m0 : List Byte) : List Byte
/-- An ECDSA P-384 signature with a derived key (R295). -/
opaque sign (key msg : List Byte) : List Byte

/-- The number of enabled tiles (R12). -/
def tiles : Nat := 3072
/-- The number of compute-side dies (R6). -/
def dies : Nat := 36

/-- An M-tile (R10). -/
def isM (t : Nat) : Bool := t < 1536
/-- The die of a tile (R10). -/
def dieOf (t : Nat) : Nat := if t < 1536 then t / 64 else 24 + (t - 1536) / 128
/-- The die-local index of a tile (R10). -/
def localOf (t : Nat) : Nat := if t < 1536 then t % 64 else (t - 1536) % 128
/-- Die-local tile 0 of a die (R10, R11). -/
def tile0 (d : Nat) : Nat := if d < 24 then 64 * d else 1536 + 128 * (d - 24)
/-- The tiles of a die (R10). -/
def tilesOfDie (d : Nat) : List Nat := (List.range (if d < 24 then 64 else 128)).map (tile0 d + ·)
/-- Barrel cores of a tile (R9). -/
def coresOf (t : Nat) : Nat := if isM t then 4 else 2
/-- A tile whose core 0 is a supervisor core (R11). -/
def hasSupervisor (t : Nat) : Bool := localOf t == 0
/-- User cores of a tile, lowest first (R11). -/
def userCores (t : Nat) : List Nat :=
  (List.range (coresOf t)).filter (fun c => !(hasSupervisor t && c == 0))
/-- Owned memory in bytes (R9). -/
def memSize (t : Nat) : Nat := if isM t then 2 * 2 ^ 30 else 3 * 2 ^ 29
/-- The lent-slot pool: the top 4 MiB of the tile's memory (R56, R77). -/
def poolSize : Nat := 4 * 2 ^ 20
/-- Local store in bytes (R9). -/
def lsSize (t : Nat) : Nat := if isM t then 2 ^ 20 else 4 * 2 ^ 20
/-- Sets of the 16-way tile cache of 512-byte lines (R9, R60). -/
def cacheSets (t : Nat) : Nat := if isM t then 256 else 128

/-- Grid position of a compute-side die (R7, R243). -/
def grid (d : Nat) : Nat × Nat :=
  if d < 24 then ([0, 2, 3, 5].getD (d % 4) 0, d / 4)
  else ([1, 4].getD ((d - 24) % 2) 0, (d - 24) / 2)

/-- Distance on a ring of six. -/
def ring6 (a b : Nat) : Nat := let x := if a < b then b - a else a - b; min x (6 - x)

/-- Minimal torus hops between two dies (R243). -/
def hops (a b : Nat) : Nat := ring6 (grid a).1 (grid b).1 + ring6 (grid a).2 (grid b).2

/-- X without deflections: 12 within a die, 36 + 8H between dies (R87). -/
def oneWay (s d : Nat) : Nat :=
  if dieOf s = dieOf d then 12 else 36 + 8 * hops (dieOf s) (dieOf d)

/-- Access time of a hit in the tile cache (R13). -/
def hitTime : Nat := 14
/-- Access time of local store (R87). -/
def lsTime : Nat := 4
/-- Access time of a miss without refresh or scrub (R13). -/
def missTime (t : Nat) : Nat := if isM t then 90 else 160
/-- Tile to Gorrex egress, and Gorrex ingress to tile (R250). -/
def portTime : Nat := 30
/-- One traversal of a Gorrex link (R250). -/
def linkTime : Nat := 240
/-- Partitions of the module (R12, R16). -/
def partitions : Nat := 48
/-- Gorrex links of the module (R12, R251). -/
def links : Nat := 32
/-- Virtual functions of the host link (R12). -/
def functions : Nat := 1024

end Sys2Proof.Config
end

