-- ==== Sys2Proof/Machine/SMap.lean ====
section
/-! DEFINITION. Sparse data by number: a list of key and value pairs with strictly rising keys. -/

namespace Sys2Proof

/-- Keys strictly rising, so that equal contents are equal lists. -/
abbrev SMap (α : Type) := List (Nat × α)

variable {α : Type}

/-- The value at a key. -/
def SMap.find? : SMap α → Nat → Option α
  | [], _ => none
  | (k, v) :: m, i => if k = i then some v else if i < k then none else SMap.find? m i

/-- The value at a key, or what an unlisted key reads as. -/
def SMap.getD (m : SMap α) (i : Nat) (d : α) : α := (SMap.find? m i).getD d

/-- Set the value at a key. -/
def SMap.put : SMap α → Nat → α → SMap α
  | [], i, x => [(i, x)]
  | (k, v) :: m, i, x =>
    if k = i then (i, x) :: m
    else if i < k then (i, x) :: (k, v) :: m
    else (k, v) :: SMap.put m i x

/-- Take a key out. -/
def SMap.erase : SMap α → Nat → SMap α
  | [], _ => []
  | (k, v) :: m, i => if k = i then m else if i < k then (k, v) :: m else (k, v) :: SMap.erase m i

/-- Set the value at a key, listing nothing that equals the unlisted value. -/
def SMap.set [DecidableEq α] (m : SMap α) (i : Nat) (x d : α) : SMap α :=
  if x = d then SMap.erase m i else SMap.put m i x

/-- Change the value at a key, if it is listed. -/
def SMap.adjust : SMap α → Nat → (α → α) → SMap α
  | [], _, _ => []
  | (k, v) :: m, i, f =>
    if k = i then (k, f v) :: m else if i < k then (k, v) :: m else (k, v) :: SMap.adjust m i f

/-- Without the keys from `lo` up to `hi`. -/
def SMap.dropRange (m : SMap α) (lo hi : Nat) : SMap α := m.filter (fun e => decide (e.1 < lo) || decide (hi ≤ e.1))

/-- The keys from `lo` up to `hi` alone. -/
def SMap.inRange (m : SMap α) (lo hi : Nat) : SMap α := m.filter (fun e => decide (lo ≤ e.1) && decide (e.1 < hi))

/-- Set every key of the second map. -/
def SMap.merge (m n : SMap α) : SMap α := List.foldl (fun m (e : Nat × α) => SMap.put m e.1 e.2) m n

/-- Keys strictly rise, all above `lo`. -/
def SMap.risingFrom : Nat → SMap α → Bool
  | _, [] => true
  | lo, (k, _) :: m => decide (lo ≤ k) && SMap.risingFrom (k + 1) m

/-- The canonical form: keys strictly rise. -/
def SMap.rising (m : SMap α) : Bool := SMap.risingFrom 0 m

end Sys2Proof
end

