-- ==== Sys2Proof/Syntax/Event.lean ====
section
/-! DEFINITION. The events of the machine: for each row of the table without bits, the data that the step acts on.
Some events belong to no row: a packet that enters the crossbar once its context is packed (R81), a birth that asks
its tile for a slot some cycles after the instruction that made it (R127, R146, R181), a piece of a vector store
that its unit sends in a cycle after the issue (R164), a context that takes an entry in the cycle after its wait began
(R145), a message that reaches a Gorrex egress (R250), the next access of a unit that is no strand (R59, R262, R287 to
R293), a `.launch` line whose cycle has come (R46), a firmware image from the host (R294), and an error that cannot be
corrected (R62, R64, R156, R211, R254). -/

namespace Sys2Proof

inductive Event where
  | none
  | inject (src dst : Nat) (p : Packet)
  | ask (tile uid : Nat)
  | vpiece (tile core uid : Nat)
  | seat (tile core uid : Nat)
  | egress (tile module : Nat) (m : PeerMsg)
  | job (id : Nat)
  | launchLine (l : Launch)
  | hostFirmware (f : Firmware)
  | uncorrectable (e : ErrorAt)
  | matrixMzero (tile : Nat)
  | matrixMstep (tile : Nat)
  | matrixMload (tile : Nat)
  | matrixMout (tile : Nat)
  | matrixStepFire (tile : Nat)
  | matrixActionEnd (tile : Nat)
  | deferredEngineTrap (uid : Nat)
  | imageLoad (img : Image)
  | migrationArrival (m : Mig)
  | spawnatArrival (m : Mig)
  | parkContextArrival (m : Mig)
  | contextReturnArrival (m : Mig)
  | admissionAnswer (uid tile : Nat)
  | refusalArrival (uid tile : Nat) (listed forGood : Bool)
  | callFlitArrival (uid tile : Nat)
  | holdAgeTick (tile uid stamp : Nat)
  | refusalResendTimeout (uid tile : Nat)
  | classAgeTick (uid stamp : Nat)
  | kennelToBarrel (tile : Nat)
  | lentMoveDone (tile core uid : Nat)
  | pinHoldExpiry (uid stop : Nat)
  | contextLost (uid : Nat)
  | requestArrival (r : Req)
  | responseArrival (r : Resp)
  | postedArrival (p : Post)
  | watcherReady (tile : Nat)
  | joinContinuation (tile uid : Nat)
  | acknowledgementArrival (uid num : Nat)
  | postedRefusalArrival (uid num : Nat) (va : Word)
  | deferredRefusalTrap (uid : Nat)
  | walkEntryResponse (walk : Nat) (ans : Answer)
  | icacheFill (tile fill : Nat) (ans : Answer)
  | icacheParityRefill (tile line : Nat)
  | patrolScrub (tile sector : Nat) (uncorrectable : Bool)
  | dramRefresh (tile : Nat)
  | cancelFlitArrival (r : Round)
  | cancelStopAck (id : Nat)
  | sweepFlitArrival (r : Round)
  | markerFlitArrival (r : Round)
  | cancelFinalAck (id : Nat)
  | fetchTableRead (tile ch : Nat)
  | fetchTableEntryArrival (tile ch tag : Nat) (ans : Answer)
  | fetchReadIssue (tile : Nat)
  | burstLandBuffer (b : Burst)
  | burstLandMulticast (b : Burst)
  | burstLandCb (b : Burst)
  | burstLandHandler (b : Burst)
  | engineWriteArrival (w : EWrite)
  | engineWriteAck (tile ch tag : Nat) (refused : Option Nat)
  | fetchSlotPush (tile ch : Nat)
  | fetchCompletionPoint (tile ch : Nat)
  | completionArrivalAck (tile ch : Nat) (refused : Option Nat)
  | fresAtChannel (r : FresReq)
  | xchBindArrival (b : Bind)
  | xchBindReply (b : BindReply)
  | xchSlotStart (tile : Nat)
  | xchDataFlitArrival (f : XFlit)
  | xchPermitArrival (p : Permit)
  | xchRefreshTimer (tile ch stamp : Nat)
  | xchCounterParityError (tile ch : Nat)
  | xchResyncFlitArrival (tile ch : Nat)
  | xchErrorFlitArrival (tile ch : Nat) (ek : BitVec 2)
  | xchCloseRequestArrival (tile ch : Nat)
  | xchUnbindArrival (tile ch : Nat)
  | xchUnbindReply (tile ch : Nat)
  | diePortFlitArrival (f : PortFlit)
  | orderCountTimer (src dst stamp : Nat)
  | orderCountArrival (src dst : Nat) (count : BitVec 8)
  | flitHeaderFailure (tile : Nat) (atDie : Bool) (reason : BitVec 8) (lo hi : Word)
  | gorrexFrameArrival (link : Nat) (f : Frame)
  | gorrexIdleFrameTimer (link stamp : Nat)
  | gorrexReplayTimeout (link stamp : Nat)
  | gorrexLaneFailure (link : Nat) (rx : Bool)
  | gorrexRetrainDone (link stamp : Nat)
  | gorrexCounterParityError (link : Nat)
  | gorrexResyncAnswer (link : Nat) (expected : BitVec 16)
  | gorrexLaneRecalibration (link : Nat)
  | telemetrySample (die : Nat)
  | ethernetFrameArrival (f : EthFrame)
  | serviceEntryRegister (idx : Nat) (w : List (Nat × Word))
  | serviceEntryClear (idx : Nat)
  | launchDispatch (part : Nat)
  | psendTransmit (part ch : Nat)
  | hostLaunchAppend (fn : Nat) (l : Launch)
  | hostMemoryAccess (a : HostAccess)
  | powerOnReset (die : Nat)
  | supervisorCoreRestart (die : Nat)
  | quoteRequest (nonce : List Byte)
  | thermalGovernance (die delay : Nat)
  | thermalShutdown
  | messageRingWrite (die : Nat) (m : Option Msg) (bad : Bool)
  | singleStepTrap (uid : Nat)
  | preemptFlitArrival (r : Round)
  | preemptTileAck (r : Round)
  | restoreFlitArrival (r : Round)
  | sliceExpiry (part stamp : Nat)
  | tlbiFlitArrival (r : Round)
  | domsetHoldArrival (r : Round)
  | domsetDescriptorArrival (r : Round)
  | cacheOpArrival (c : CacheOp)
  | sresArrival (r : SresReq)
  | remoteCsrRequest (c : CsrReq)
  | csrWrite (tile num : Nat) (v : Word)
  | kdepthKlendWrite (tile : Nat) (lend : Bool) (v : Word)
  | wdepthWrite (tile : Nat) (v : Word)
  | stargetWrite (tile : Nat) (v : Word)
  | pinholdWrite (uid : Option Nat) (tile : Nat) (v : Word)
  | msgringWrite (tile : Nat) (v : Word)
  | gorrexExpectedParityError (link : Nat) (both : Bool)
  | supervisorStartedRetrain (link : Nat) (rx : Bool) (mode : LinkMode)
  | tileMapWrite (part : Nat) (tiles : List Nat)
  | forwardingEntryInstall (retired : Nat) (replacement : Option Nat)
  | virtualFunctionBinding (b : Binding)
  | vectorLastRowWritten (tile core : Nat) (v : BitVec 3)
  deriving DecidableEq, Repr, Inhabited

/-- The step of the table that an event is. -/
def Event.instr : Event → Instr
  | .none => .nop
  | .inject _ _ _ => .nop
  | .ask _ _ => .nop
  | .vpiece _ _ _ => .nop
  | .seat _ _ _ => .nop
  | .egress _ _ _ => .nop
  | .job _ => .nop
  | .launchLine _ => .nop
  | .hostFirmware _ => .nop
  | .uncorrectable _ => .nop
  | .matrixMzero _ => .matrixMzero
  | .matrixMstep _ => .matrixMstep
  | .matrixMload _ => .matrixMload
  | .matrixMout _ => .matrixMout
  | .matrixStepFire _ => .matrixStepFire
  | .matrixActionEnd _ => .matrixActionEnd
  | .deferredEngineTrap _ => .deferredEngineTrap
  | .imageLoad _ => .imageLoad
  | .migrationArrival _ => .migrationArrival
  | .spawnatArrival _ => .spawnatArrival
  | .parkContextArrival _ => .parkContextArrival
  | .contextReturnArrival _ => .contextReturnArrival
  | .admissionAnswer _ _ => .admissionAnswer
  | .refusalArrival _ _ _ _ => .refusalArrival
  | .callFlitArrival _ _ => .callFlitArrival
  | .holdAgeTick _ _ _ => .holdAgeTick
  | .refusalResendTimeout _ _ => .refusalResendTimeout
  | .classAgeTick _ _ => .classAgeTick
  | .kennelToBarrel _ => .kennelToBarrel
  | .lentMoveDone _ _ _ => .lentMoveDone
  | .pinHoldExpiry _ _ => .pinHoldExpiry
  | .contextLost _ => .contextLost
  | .requestArrival _ => .requestArrival
  | .responseArrival _ => .responseArrival
  | .postedArrival _ => .postedArrival
  | .watcherReady _ => .watcherReady
  | .joinContinuation _ _ => .joinContinuation
  | .acknowledgementArrival _ _ => .acknowledgementArrival
  | .postedRefusalArrival _ _ _ => .postedRefusalArrival
  | .deferredRefusalTrap _ => .deferredRefusalTrap
  | .walkEntryResponse _ _ => .walkEntryResponse
  | .icacheFill _ _ _ => .icacheFill
  | .icacheParityRefill _ _ => .icacheParityRefill
  | .patrolScrub _ _ _ => .patrolScrub
  | .dramRefresh _ => .dramRefresh
  | .cancelFlitArrival _ => .cancelFlitArrival
  | .cancelStopAck _ => .cancelStopAck
  | .sweepFlitArrival _ => .sweepFlitArrival
  | .markerFlitArrival _ => .markerFlitArrival
  | .cancelFinalAck _ => .cancelFinalAck
  | .fetchTableRead _ _ => .fetchTableRead
  | .fetchTableEntryArrival _ _ _ _ => .fetchTableEntryArrival
  | .fetchReadIssue _ => .fetchReadIssue
  | .burstLandBuffer _ => .burstLandBuffer
  | .burstLandMulticast _ => .burstLandMulticast
  | .burstLandCb _ => .burstLandCb
  | .burstLandHandler _ => .burstLandHandler
  | .engineWriteArrival _ => .engineWriteArrival
  | .engineWriteAck _ _ _ _ => .engineWriteAck
  | .fetchSlotPush _ _ => .fetchSlotPush
  | .fetchCompletionPoint _ _ => .fetchCompletionPoint
  | .completionArrivalAck _ _ _ => .completionArrivalAck
  | .fresAtChannel _ => .fresAtChannel
  | .xchBindArrival _ => .xchBindArrival
  | .xchBindReply _ => .xchBindReply
  | .xchSlotStart _ => .xchSlotStart
  | .xchDataFlitArrival _ => .xchDataFlitArrival
  | .xchPermitArrival _ => .xchPermitArrival
  | .xchRefreshTimer _ _ _ => .xchRefreshTimer
  | .xchCounterParityError _ _ => .xchCounterParityError
  | .xchResyncFlitArrival _ _ => .xchResyncFlitArrival
  | .xchErrorFlitArrival _ _ _ => .xchErrorFlitArrival
  | .xchCloseRequestArrival _ _ => .xchCloseRequestArrival
  | .xchUnbindArrival _ _ => .xchUnbindArrival
  | .xchUnbindReply _ _ => .xchUnbindReply
  | .diePortFlitArrival _ => .diePortFlitArrival
  | .orderCountTimer _ _ _ => .orderCountTimer
  | .orderCountArrival _ _ _ => .orderCountArrival
  | .flitHeaderFailure _ _ _ _ _ => .flitHeaderFailure
  | .gorrexFrameArrival _ _ => .gorrexFrameArrival
  | .gorrexIdleFrameTimer _ _ => .gorrexIdleFrameTimer
  | .gorrexReplayTimeout _ _ => .gorrexReplayTimeout
  | .gorrexLaneFailure _ _ => .gorrexLaneFailure
  | .gorrexRetrainDone _ _ => .gorrexRetrainDone
  | .gorrexCounterParityError _ => .gorrexCounterParityError
  | .gorrexResyncAnswer _ _ => .gorrexResyncAnswer
  | .gorrexLaneRecalibration _ => .gorrexLaneRecalibration
  | .telemetrySample _ => .telemetrySample
  | .ethernetFrameArrival _ => .ethernetFrameArrival
  | .serviceEntryRegister _ _ => .serviceEntryRegister
  | .serviceEntryClear _ => .serviceEntryClear
  | .launchDispatch _ => .launchDispatch
  | .psendTransmit _ _ => .psendTransmit
  | .hostLaunchAppend _ _ => .hostLaunchAppend
  | .hostMemoryAccess _ => .hostMemoryAccess
  | .powerOnReset _ => .powerOnReset
  | .supervisorCoreRestart _ => .supervisorCoreRestart
  | .quoteRequest _ => .quoteRequest
  | .thermalGovernance _ _ => .thermalGovernance
  | .thermalShutdown => .thermalShutdown
  | .messageRingWrite _ _ _ => .messageRingWrite
  | .singleStepTrap _ => .singleStepTrap
  | .preemptFlitArrival _ => .preemptFlitArrival
  | .preemptTileAck _ => .preemptTileAck
  | .restoreFlitArrival _ => .restoreFlitArrival
  | .sliceExpiry _ _ => .sliceExpiry
  | .tlbiFlitArrival _ => .tlbiFlitArrival
  | .domsetHoldArrival _ => .domsetHoldArrival
  | .domsetDescriptorArrival _ => .domsetDescriptorArrival
  | .cacheOpArrival _ => .cacheOpArrival
  | .sresArrival _ => .sresArrival
  | .remoteCsrRequest _ => .remoteCsrRequest
  | .csrWrite _ _ _ => .csrWrite
  | .kdepthKlendWrite _ _ _ => .kdepthKlendWrite
  | .wdepthWrite _ _ => .wdepthWrite
  | .stargetWrite _ _ => .stargetWrite
  | .pinholdWrite _ _ _ => .pinholdWrite
  | .msgringWrite _ _ => .msgringWrite
  | .gorrexExpectedParityError _ _ => .gorrexExpectedParityError
  | .supervisorStartedRetrain _ _ _ => .supervisorStartedRetrain
  | .tileMapWrite _ _ => .tileMapWrite
  | .forwardingEntryInstall _ _ => .forwardingEntryInstall
  | .virtualFunctionBinding _ => .virtualFunctionBinding
  | .vectorLastRowWritten _ _ _ => .vectorLastRowWritten

end Sys2Proof
end

