-- ==== Sys2Proof/Machine/State.lean ====
section
/-! DEFINITION. The state of the module as plain data, why a step can stop, and the state after reset. -/

namespace Sys2Proof.Machine

/-- The 256-byte context of a strand (R66), without the fields that the record leaves zero. `hleft` is the count at
the time the context was last written; while the pin runs, `Strand.pinEnd` says when it reaches zero. -/
structure Ctx where
  g : Vector Word 24
  pred : BitVec 16
  pc : BitVec 48
  pseq : BitVec 16
  lin : BitVec 16
  sid : BitVec 32
  rpin : Bool
  xpin : Bool
  sup : Bool
  cls : BitVec 2
  tcause : BitVec 8
  tvec : BitVec 48
  tseq : BitVec 16
  tpc : BitVec 48
  tval : Word
  nstop : BitVec 16
  alt : BitVec 8
  prev : BitVec 12
  cur : BitVec 12
  pmin : BitVec 16
  plim : BitVec 8
  hleft : BitVec 32
  phold : BitVec 32
  deriving DecidableEq, Repr, Inhabited

/-- Where a context lies (R70). `source` is a birth that its source keeps until a slot takes it (R78); `saved` a record in
a save area (R266), by the number of the area. -/
inductive Place where
  | slot (tile core slot : Nat)
  | kennel (tile core : Nat)
  | lent (tile core : Nat)
  | flight (dst : Nat)
  | source (tile : Nat)
  | saved (tile core area : Nat) (lent : Bool)
  deriving DecidableEq, Repr, Inhabited

/-- What a not-ready strand waits for (R70, R263). -/
inductive Wait where
  | park (owner : Nat) (isAwait : Bool)
  | vclaim | mclaim | mwait | mrel
  | cbwait (h : Nat) | cbspace (h : Nat)
  | fwait (ch : Nat) (id : BitVec 32)
  | xclose (ch : Nat)
  | cancel
  | supervisor
  deriving DecidableEq, Repr, Inhabited

/-- Whether a strand may issue. `stalled` keeps the slot and tries again; `held` is travelling, or refused and held
(R78); `away` is a pinned strand whose context is at another tile (R142). -/
inductive Run where
  | ready | stalled | held | away
  | waiting (w : Wait)
  deriving DecidableEq, Repr, Inhabited

/-- A posted operation not yet acknowledged: its number, class (0 local store, 1 module memory, 2 peer) and owner. -/
structure Posted where
  num : Nat
  cls : Nat
  owner : Nat
  deriving DecidableEq, Repr, Inhabited

/-- The progress of an instruction that makes several accesses or waits for an answer: its phase (0 none), the words
read so far, a failed word with its cause and address, and an answer. -/
structure Prog where
  phase : Nat
  words : SMap Word
  bad : Option (Nat × Word)
  val : Word
  deriving DecidableEq, Repr, Inhabited

/-- A translation that ended in a fault, kept for the access that waited for it (R54). -/
structure WalkFault where
  va : Word
  cause : Nat
  deriving DecidableEq, Repr, Inhabited

/-- What a birth still owes its source (R78): the parent of a `spawn` or `spawnat` child, the channel of a handler or tail,
a join record, or a launch queue with the die whose dispatcher serves it (R291). `stepped` is an admitted handler that
single-steps and still holds its landing slot (R272). -/
inductive Birth where
  | none
  | spawn (parent : Nat)
  | spawnat (parent : Nat)
  | handler (tile ch : Nat) (id : BitVec 32)
  | stepped (tile : Nat)
  | tail | continuation
  | launch (part q die : Nat)
  deriving DecidableEq, Repr, Inhabited

/-- A strand: its context and all that is kept about it while it lives. `age` is what a birth asks again with, `asked` that
its tile has refused it a slot (R78, R127); `tried` that its next instruction has been issued and waits in its slot (R127);
`struck` that a pre-emption has stopped it and had it take the trap of its poison (R116); `watch` is the word, the value and
the kind of a `park` or `await` under way (R122, R140); `tick` is the cycle in which its effective class rises next (R76).
-/
structure Strand where
  ctx : Ctx
  tile : Nat
  place : Place
  run : Run
  nextAt : Nat
  complete : Nat
  since : Nat
  ecls : Nat
  tick : Nat
  ids : Nat
  pending : List (Nat × Nat)
  poison : SMap (Nat × Word)
  posted : List Posted
  refusals : List (Nat × Word)
  engTrap : Option (Nat × Word)
  prog : Prog
  child : Option Nat
  marked : Option Nat
  handler : Option (Nat × Nat × BitVec 32)
  fault : Option WalkFault
  walking : Bool
  packet : Option Packet
  pinEnd : Nat
  home : Nat
  forGood : Bool
  age : Nat
  asked : Bool
  tried : Bool
  struck : Bool
  watch : Option (Target × Word × Bool)
  birth : Birth
  deriving DecidableEq, Repr, Inhabited

/-- A translation held by a TLB (R53, R55). -/
structure TlbEntry where
  page : Nat
  giant : Bool
  dom : Nat
  doff : Nat
  r : Bool
  w : Bool
  x : Bool
  deriving DecidableEq, Repr, Inhabited

/-- A line of an instruction cache (R61), with the domain and the size of the page it came from. -/
structure ILine where
  dom : Nat
  giant : Bool
  bytes : List Byte
  deriving DecidableEq, Repr, Inhabited

/-- A fill of an instruction cache that is under way (R61): its line, the domain and the size of its page, and the
strand that waits for it. -/
structure IFill where
  line : Nat
  dom : Nat
  giant : Bool
  uid : Nat
  deriving DecidableEq, Repr, Inhabited

/-- A line of a tile cache (R60): its number in the tile's memory and the sectors that are in and dirty. -/
structure CLine where
  line : Nat
  valid : BitVec 8
  dirty : BitVec 8
  deriving DecidableEq, Repr, Inhabited

/-- An entry of a watch table (R141): the watched word by its cell number, and the watcher. -/
structure Watcher where
  cell : Nat
  uid : Nat
  num : Nat
  deriving DecidableEq, Repr, Inhabited

/-- An entry of a hold list (R78): the request, where it came from, its age, and whether its source is this tile. -/
structure HoldEntry where
  uid : Nat
  origin : Nat
  sid : BitVec 32
  age : Nat
  local_ : Bool
  stamp : Nat
  deriving DecidableEq, Repr, Inhabited

/-- Who waits for a walk (R51, R61, R184): a strand's access or its fetch, a fetch channel, or a unit that is no strand. -/
inductive WalkFor where
  | strand (uid : Nat)
  | fetch (uid : Nat)
  | channel (ch : Nat) (id : BitVec 32) (kind : Nat)
  | job (id : Nat)
  deriving DecidableEq, Repr, Inhabited

/-- The permissions an access needs (R54): read, write, execute. -/
structure Perm where
  r : Bool
  w : Bool
  x : Bool
  deriving DecidableEq, Repr, Inhabited

/-- A walk under way (R51): its slot among the walker's 256, 256 while it waits for one (R248), whether the table that it
reads has been invalidated or replaced since it began, so that it starts again (R55), and the virtual function whose
table it reads instead of the tile's (R293). -/
structure Walk where
  tile : Nat
  slot : Nat
  va : Word
  perm : Perm
  level : Nat
  who : WalkFor
  stale : Bool
  fn : Option Nat
  deriving DecidableEq, Repr, Inhabited

/-- What a unit that is no strand does with the bytes that it reads and writes: an access of a peer module (R59), the
oldest message of a die (R262), the registration of a service (R287), a frame for a service (R290), a `psend` (R292), or
an access through a function's window (R293). `phase` counts the rounds of accesses that are over; `src` is the tile of the
peer module, and `sent` the cycle in which its access reaches its owner, once it has left (R250). -/
inductive JobFor where
  | peer (module src tile tag : Nat) (posted : Bool) (sent : Option Nat)
  | ring (die phase : Nat)
  | register (idx : Nat)
  | frame (idx phase : Nat)
  | psend (part ch phase : Nat)
  | host (va len : Nat) (write : Bool)
  deriving DecidableEq, Repr, Inhabited

/-- An access of such a unit: its address, or its target where that is known, the permissions that it needs, and what it
does; none is a translation alone. -/
structure JobStep where
  addr : Word
  tgt : Option Target
  perm : Perm
  op : Option ReqOp
  deriving DecidableEq, Repr, Inhabited

/-- A unit's accesses under way, one after another (R60): the tile whose page table they go by or the function whose
(R293), whether they leave from that tile or from a port of the module, how many cycles they take to their owner
from there, what is still to do, the translation of the first, and the answers and targets so far. -/
structure Job where
  who : JobFor
  tile : Nat
  fn : Option Nat
  fromTile : Bool
  lag : Nat
  todo : List JobStep
  tgt : Option Target
  got : List Answer
  tgts : List Target
  deriving DecidableEq, Repr, Inhabited

/-- A cancellation filter (R134). -/
structure Filter where
  id : Nat
  part : Nat
  a : BitVec 16
  m : BitVec 16
  users : Bool
  deriving DecidableEq, Repr, Inhabited

/-- The supervisor CSRs of a tile (R281). -/
structure TileRegs where
  kdepth : Nat
  klend : Nat
  wdepth : Nat
  agestep : Nat
  xrefresh : Nat
  ocap : Nat
  ptbase : Word
  scrubrate : Nat
  slicemin : Nat
  msgring : Word
  dbgctl : Word
  starget : Nat
  dtvec : BitVec 48
  dpinlim : BitVec 8
  dpinmin : BitVec 16
  dpinhold : BitVec 32
  deriving DecidableEq, Repr, Inhabited

/-- What a tile holds besides its cores and engines. `wakeNext` is the first cycle of a wake sequence that is still free
(R143); `calls` are slots reserved by a call (strand, core, lent; R78); `remote` is one past the cycle of the last access
performed for another tile (R112); `fills` are the fills of its instruction cache under way (R61); `domHeld` are packets
that wait at the tile's port for a `domset` or for its restore, with the cycle and the tie of their arrival (R267, R277);
`halted` that the tile is stopped, saved or not yet restored (R264). -/
structure TileState where
  regs : TileRegs
  serial : BitVec 20
  tlb : List TlbEntry
  icache : SMap ILine
  fills : SMap IFill
  watch : List Watcher
  waking : List (Nat × Nat × Nat)
  wakeNext : Nat
  hold : List HoldEntry
  calls : List (Nat × Nat × Bool)
  filters : List Filter
  remote : Nat
  domHeld : List (Nat × Nat × Event)
  halted : Bool
  deriving DecidableEq, Repr, Inhabited

/-- A core: its barrel slots and when each became free, its kennel and lent entries by strand, the areas of its lent entries
in the tile's pool (R77), slots reserved for moves and calls, lent entries that are moving, contexts that wait in a barrel
slot for a slot (R145), the rotation pointer, one past the cycle of the last issue, and the supervisor core's stop (R258).
-/
structure Core where
  slots : SMap Nat
  freeAt : SMap Nat
  kennel : List Nat
  lent : List Nat
  lslot : SMap Nat
  kres : Nat
  lres : Nat
  moving : List Nat
  inSlot : List Nat
  rot : Nat
  issued : Nat
  stopped : Bool
  deriving DecidableEq, Repr, Inhabited

/-- A vector memory instruction under way (R164): its register, type, rows' base and stride, whether one row serves
every row, and the targets of its pieces in order; for a store the next piece and the pc of the instruction. -/
structure VJob where
  v : Nat
  ty : Nat
  base : Word
  stride : Word
  dup : Bool
  tgts : List Target
  next : Nat
  pc : BitVec 48
  deriving DecidableEq, Repr, Inhabited

/-- A vector unit (R149 to R156). Element (r, l) is number 64 r + l of its register. `pending` marks registers not yet
ready: one past the cycle in which the register will be, or 1 while that is not known; `busy` and `memBusy` are cycles,
`loads` counts pieces still out. -/
structure VUnit where
  holder : Option Nat
  waiters : List Nat
  v : Vector (Vector Half 1024) 8
  rows : Nat
  lanes : Nat
  pending : Vector Nat 8
  busy : Nat
  memBusy : Nat
  loads : Nat
  job : Option VJob
  poison : SMap (Nat × Word)
  deriving DecidableEq, Repr

/-- Which engine holds or awaits a side of a circular buffer (R201). The fetch engine holds one for a command, so that a
later command to the same buffer waits for it (DESIGN CHOICE, log entry 49). -/
inductive Eng where
  | fetch (ch : Nat) (id : BitVec 32) | matrix | xch (ch : Nat)
  deriving DecidableEq, Repr, Inhabited

/-- A circular-buffer handle (R198, R199, R201). -/
structure Cb where
  base : Nat
  size : Nat
  count : Nat
  fmt : Nat
  rows : Nat
  cols : Nat
  c0 : BitVec 32
  produced : BitVec 32
  consumed : BitVec 32
  ppos : Nat
  cpos : Nat
  prodBy : Option Eng
  consBy : Option Eng
  waitP : List Eng
  waitC : List Eng
  deriving DecidableEq, Repr, Inhabited

/-- A stop of a channel at a command (R184): its kind, cause and address, and the linear index it stands at. -/
structure FStop where
  kind : Nat
  cause : Nat
  addr : Word
  k : Nat
  deriving DecidableEq, Repr, Inhabited

/-- A fetch command (R175, R189) and how far it has come. `k` is the linear index of the next burst, `redo` bursts refused
and to be read again, each with its source, `again` copies refused and to be written again, each with its linear index,
write tag, address and bytes, `entry` a block and its table entry once it is in, `asked` the block whose entry is being
read, `reads`, `writes` and `handlers` what is still out, `walks` its walks, `slots` the bursts landed for each slot of mode
2 with 1024 for each that was delivered, `arriving` that the completion arrival is out, `killed` that its family was
cancelled. -/
structure FCmd where
  w : Vector Word 8
  id : BitVec 32
  lin : BitVec 16
  sup : Bool
  tvec : BitVec 48
  plim : BitVec 8
  pmin : BitVec 16
  phold : BitVec 32
  k : Nat
  redo : List (Nat × Word)
  again : List (Nat × Nat × Word × Option (List Byte))
  entry : Option (Nat × Word)
  asked : Option Nat
  stop : Option FStop
  walks : Nat
  reads : Nat
  writes : Nat
  handlers : Nat
  delivered : Nat
  status : Nat
  aborted : Bool
  started : Bool
  p0 : BitVec 32
  pushed : Nat
  slots : SMap Nat
  arriving : Bool
  killed : Bool
  deriving DecidableEq, Repr, Inhabited

/-- A fetch channel (R174). `ready` is the first cycle in which it may issue a read. -/
structure Chan where
  cmds : List FCmd
  fid : BitVec 32
  fdone : BitVec 32
  ready : Nat
  deriving DecidableEq, Repr, Inhabited

/-- What the engine keeps against a tag (R183): channel, transfer id, linear index, iteration vector, source address,
destination, the order of its read, and the write tags that its copies hold; against a write's, the address and the bytes
of the copy until it is acknowledged, none when it is poisoned or its burst counts for nothing (R182, R184). `table` marks
the read of a table entry (R177, R248); a completion arrival's tag has the index one past the last burst. -/
structure Tag where
  ch : Nat
  id : BitVec 32
  k : Nat
  iv : Nat × Nat × Nat × Nat
  src : Word
  dst : Option Target
  order : Nat
  wtags : List Nat
  va : Word
  data : Option (List Byte)
  table : Bool
  deriving DecidableEq, Repr, Inhabited

/-- A fetch engine (R174, R181, R183). `landing` counts landing slots in use; `issued` is one past
the cycle of the last read. -/
structure Fetch where
  chans : Vector Chan 8
  reads : SMap Tag
  writes : SMap Tag
  landing : Nat
  rr : Nat
  issued : Nat
  deriving DecidableEq, Repr, Inhabited

/-- A format context (R203). -/
structure MCtx where
  fa : Nat
  fb : Nat
  ca : List (BitVec 16)
  cb : List (BitVec 16)
  deriving DecidableEq, Repr, Inhabited

/-- A queued matrix command with its copy of a context (R203). -/
structure MCmd where
  w0 : Word
  rsc : Word
  csc : Word
  ctx : MCtx
  deriving DecidableEq, Repr, Inhabited

/-- A matrix engine (R203, R204, R213). `phase` is 0 idle, 1 started and waiting to fire, 2 acting; `scale` holds the
row and column scales that a `mout` has read, `bad` that they were poisoned, and `poison` numbers accumulator elements. -/
structure Matrix where
  holder : Option Nat
  waiters : List Nat
  acc : Vector (Vector Half 4096) 4
  poison : List Nat
  ctxs : Vector MCtx 4
  queue : List MCmd
  phase : Nat
  step : Nat
  cause : Nat
  hdl : Nat
  kind : Nat
  stop : Bool
  acc0 : Nat
  op : Nat
  scale : List Half
  bad : Bool
  deriving DecidableEq, Repr

/-- A channel of an exchange engine (R228 to R238). `st` is 0 free, 1 send end, 2 receive end, 3 closing, 4 binding;
`sender` tells the ends apart; `ih` is the peer's handle that a bind flit names; `stamp` is the cycle of a receive end's next
permit, and the first in which a send end may ship; `flits` counts the flits of a slot that are in at a receive end, and marks
at a closing send end that its unbind flit is out, at a binding one that a close request is in; `closers` are the strands in
`xclose`. -/
structure XChan where
  st : Nat
  sender : Bool
  peer : Nat
  pch : Nat
  h : Nat
  ih : Nat
  sbytes : Nat
  count : Nat
  shipped : BitVec 32
  landed : BitVec 32
  consumed : BitVec 32
  ek : BitVec 2
  err : Bool
  resync : Bool
  lin : BitVec 16
  opener : Nat
  sup : Bool
  flits : Nat
  stamp : Nat
  closers : List Nat
  deriving DecidableEq, Repr, Inhabited

/-- An exchange engine: its channels, the round-robin pointer, the slot being sent (channel and next flit), and the
cycle its output is next free (R234). -/
structure Xch where
  chans : Vector XChan 4
  rr : Nat
  sending : Option (Nat × Nat)
  freeAt : Nat
  deriving DecidableEq, Repr, Inhabited

/-- A pair of tiles (R112, R249). `expected` and `fi` are what the port of the destination die expects next, `age` the
greatest age among the flits of the packet that is coming in, and `bad` that one of them has an uncorrectable payload
(R254). -/
structure Pair where
  seq : BitVec 8
  expected : BitVec 8
  fi : BitVec 2
  age : BitVec 8
  bad : Bool
  delivered : BitVec 8
  seen : BitVec 8
  told : BitVec 8
  stamp : Nat
  last : Nat
  queue : List Packet
  deriving DecidableEq, Repr, Inhabited

/-- A Gorrex link (R251 to R253). `mode` and `rmode` are the modes of the direction out of the module and of the one into
it; `training` that it retrains, until `trainEnd`; `out` that it is down for that retraining; `sent` what it has sent, with
the cycle in which each frame is in at the peer (R250); `timer` marks the last cycle of progress, `owed` an acknowledgement
not yet sent. -/
structure Link where
  mode : LinkMode
  rmode : LinkMode
  training : Bool
  trainEnd : Nat
  out : Bool
  next : BitVec 16
  ack : BitVec 16
  expected : BitVec 16
  expected2 : BitVec 16
  store : List Frame
  sent : List (Nat × Frame)
  timer : Nat
  owed : Nat
  resync : Bool
  recal : Nat
  deriving DecidableEq, Repr, Inhabited

/-- A partition-wide protocol under way (R134, R264, R273, R277). `kind`: 0 cancel, 1 tlbi, 2 tlbia, 3 domset,
4 save, 5 restore, 6 stop, 7 reset; `key` and `area` say whose save areas and where. -/
structure Proto where
  kind : Nat
  part : Nat
  lead : Nat
  uid : Nat
  n : Nat
  acks : Nat
  phase : Nat
  a : BitVec 16
  m : BitVec 16
  va : Word
  dom : Nat
  desc : Desc
  tiles : List Nat
  key : Nat
  area : Nat
  users : Bool
  counts : SMap Nat
  deriving DecidableEq, Repr, Inhabited

/-- What a partition does (R264 to R268). -/
inductive PartMode where
  | running | saving | saved | restoring | stopped
  deriving DecidableEq, Repr, Inhabited

/-- A partition (R264 to R270, R291). -/
structure Part where
  mode : PartMode
  queues : Vector (List Launch) 4
  fns : List Nat
  slices : List Nat
  cur : Nat
  stretch : Nat
  overrun : Nat
  reason : Nat
  sliceStamp : Nat
  deriving DecidableEq, Repr, Inhabited

/-- A die: the messages in its message engine and whether it is writing one (R262), measurement registers (R295), boot
outcome and the image that its boot ROM has verified (R294), thermal state (R296), and the counts of its error log (R254)
and of telemetry (R255). -/
structure Die where
  mq : List Msg
  ringing : Bool
  meas : Vector (List Byte) 8
  booted : Bool
  failed : Bool
  image : List Byte
  hot : Nat
  delays : Nat
  errors : Nat
  telemetry : Nat
  deriving DecidableEq, Repr, Inhabited

/-- A frame past matching (R290): its address block and its payload. -/
structure Request where
  block : List Byte
  payload : List Byte
  deriving DecidableEq, Repr, Inhabited

/-- A service-table entry (R286 to R289): its words, and v; the translation that checks it, while one does; the words that it
was registered with, with the ring pages by page number, once it is; its counts; and the frames past matching. -/
structure Svc where
  w : SvcWords
  v : Bool
  task : Option Nat
  live : Option SvcWords
  drops : Word
  reg : Nat
  pages : SMap (Nat × Nat)
  produced : BitVec 32
  consumed : BitVec 32
  frames : List Request
  deriving DecidableEq, Repr, Inhabited

/-- The addresses of an Ethernet port (R288, R292). -/
structure EthPort where
  mac : BitVec 48
  ips : List IpAddr
  deriving DecidableEq, Repr, Inhabited

/-- A queued `psend` (R292): the tile it was issued on, its payload by pieces (target and length), its address block, and
the target of its arrival. -/
structure Psend where
  tile : Nat
  pay : List (Target × Nat)
  block : Option Target
  meet : Option Target
  deriving DecidableEq, Repr, Inhabited

/-- A virtual function (R269, R293): its partition, its page table, the domain descriptors and multicast groups that are
swapped with it, and its host receive ring. -/
structure VFn where
  part : Nat
  ptbase : Word
  descs : SMap Desc
  groups : SMap (List Nat)
  ring : List (List Byte)
  deriving DecidableEq, Repr, Inhabited

/-- An event under way: when it is due, its place within the cycle (0 answers, 1 engines and local accesses, 2 accesses that
arrive from other tiles, 3 permits that arrive, 4 permits that leave), the cycle it first arrived, and what breaks a tie. -/
structure Entry where
  due : Nat
  phase : Nat
  arr : Nat
  tie : Nat
  ev : Event
  deriving DecidableEq, Repr, Inhabited

/-- What a tile has saved (R265): whose records they are, the byte that their area begins at, and whether they have not yet
been restored; the kennel and lent entries of each user core in order, the engines, the vector units by core, and the
handles, for what the records do not hold; and what takes effect at the restore: the `fres` and `fabt` (R194), the contexts
that `prest` gave waiting strands, and the pcs that `sres` and `sredir` gave them (R279, R280). -/
structure Saved where
  key : Nat
  cell : Nat
  out : Bool
  kennel : SMap (List Nat)
  lent : SMap (List Nat)
  fetch : Fetch
  matrix : Matrix
  xch : Xch
  vunits : SMap VUnit
  cbs : SMap Cb
  ops : List FresReq
  fixes : SMap Ctx
  wakes : SMap (BitVec 48)
  deriving DecidableEq, Repr

/-- The module. `event` is the event under way, `arr` and `tie` its first arrival and its order, and `focus` the strand that
issues in this step, with the word it executes; `ctr` is the model's own counter to which free values are applied; `seq`
numbers agenda entries, `uids` strands, walks and protocols. -/
structure State where
  now : Nat
  powered : Bool
  modnum : BitVec 12
  ctr : Nat
  seq : Nat
  uids : Nat
  focus : Nat
  word : Half
  event : Event
  arr : Nat
  tie : Nat
  agenda : List Entry
  strands : SMap Strand
  tiles : SMap TileState
  partOf : SMap Nat
  retired : SMap (Option Nat)
  cores : SMap Core
  vunits : SMap VUnit
  cbs : SMap Cb
  fetches : SMap Fetch
  matrices : SMap Matrix
  xchs : SMap Xch
  mem : SMap Byte
  poison : SMap Unit
  cache : SMap (List CLine)
  backing : SMap (List Byte × Bool)
  descs : SMap Desc
  groups : SMap (List Nat)
  locks : List (Nat × Nat)
  walks : SMap Walk
  jobs : SMap Job
  pairs : SMap Pair
  links : SMap Link
  linkSets : SMap (List Nat)
  linkParts : List Nat
  peerPairs : SMap (BitVec 8 × BitVec 8)
  peerTags : SMap (Agent × Word × Nat × Nat)
  peerHeld : List (Nat × Nat × BitVec 8 × PeerMsg)
  peerOut : List (Nat × Nat × Option (BitVec 8) × PeerMsg)
  exportPart : Option Nat
  protos : SMap Proto
  parts : SMap Part
  saved : SMap Saved
  dies : SMap Die
  svc : SMap Svc
  psendq : SMap (List Psend)
  ports : SMap EthPort
  sentFrames : List EthFrame
  physQueue : List EthFrame
  badFrames : Nat
  fns : SMap VFn
  hostReads : List (List Byte)
  flash : Option Firmware
  hostImage : Option Firmware
  harvest : SMap Nat
  trims : SMap Nat
  msix : List Nat
  mailbox : SMap (List Word)
  reports : List (List Byte)
  deriving DecidableEq, Repr

/-- Why the machine stops with a fault. -/
inductive Fault where
  /-- `step`, once the module has powered down at 105 C: memory contents are lost and nothing runs (R296). Safe. -/
  | poweredDown
  /-- `step`, when no strand can ever issue and no event is due: only the outside can act. Safe. -/
  | idle
  deriving DecidableEq, Repr, Inhabited

/-- Why the machine has no meaning for what it is asked to do. -/
inductive Refusal where
  /-- `exec`, for an instruction without a meaning. Safe. -/
  | notModelled (mnemonic : String)
  /-- A meaning, when the strand in focus does not exist or does not stand in a barrel slot: `step` never asks for
  that. Safe. -/
  | noStrand
  /-- The meaning of a step without bits, when the event under way is not that step's: `step` never asks for that.
  Safe. -/
  | noEvent
  deriving DecidableEq, Repr, Inhabited

/-- CSRs of a tile at reset (R281). -/
def TileRegs.reset (t : Nat) : TileRegs :=
  { kdepth := 256, klend := 4096, wdepth := 64, agestep := 65536, xrefresh := 2048, ocap := 256, ptbase := 0,
    scrubrate := 256, slicemin := 0, msgring := 0, dbgctl := 0, starget := t, dtvec := 0, dpinlim := 4,
    dpinmin := 16, dpinhold := 4096 }

/-- A tile at reset (R55, R141, R78). -/
def TileState.reset (t : Nat) : TileState :=
  { regs := TileRegs.reset t, serial := 0, tlb := [], icache := [], fills := [], watch := [], waking := [], wakeNext := 0,
    hold := [], calls := [], filters := [], remote := 0, domHeld := [], halted := false }

/-- A core at reset: no strand. -/
def Core.reset : Core :=
  { slots := [], freeAt := [], kennel := [], lent := [], lslot := [], kres := 0, lres := 0, moving := [], inSlot := [], rot := 15, issued := 0,
    stopped := false }

/-- A vector unit that nothing holds, and the state of a grant (R151). -/
def VUnit.reset : VUnit :=
  { holder := none, waiters := [], v := Vector.replicate 8 (Vector.replicate 1024 0), rows := 16, lanes := 64,
    pending := Vector.replicate 8 0, busy := 0, memBusy := 0, loads := 0, job := none, poison := [] }

/-- A fetch engine at reset (R110, R174). -/
def Fetch.reset : Fetch :=
  { chans := Vector.replicate 8 { cmds := [], fid := 0, fdone := 0, ready := 0 },
    reads := [], writes := [], landing := 0, rr := 0, issued := 0 }

/-- The context of a grant: bf16 and zero codebooks (R204). -/
def MCtx.reset : MCtx :=
  { fa := 1, fb := 1, ca := List.replicate 16 0, cb := List.replicate 16 0 }

/-- A matrix engine that nothing holds, and the state of a grant (R204). -/
def Matrix.reset : Matrix :=
  { holder := none, waiters := [], acc := Vector.replicate 4 (Vector.replicate 4096 0), poison := [],
    ctxs := Vector.replicate 4 MCtx.reset, queue := [], phase := 0, step := 0, cause := 0, hdl := 0, kind := 0,
    stop := false, acc0 := 0, op := 0, scale := [], bad := false }

/-- A free exchange channel (R228). -/
def XChan.reset : XChan :=
  { st := 0, sender := false, peer := 0, pch := 0, h := 0, ih := 0, sbytes := 0, count := 0, shipped := 0, landed := 0, consumed := 0, ek := 0,
    err := false, resync := false, lin := 0, opener := 0, sup := false, flits := 0, stamp := 0, closers := [] }

/-- An exchange engine at reset. -/
def Xch.reset : Xch := { chans := Vector.replicate 4 XChan.reset, rr := 0, sending := none, freeAt := 0 }

/-- A pair that has carried nothing (R249). -/
def Pair.reset : Pair :=
  { seq := 0, expected := 0, fi := 0, age := 0, bad := false, delivered := 0, seen := 0, told := 0, stamp := 0, last := 0, queue := [] }

/-- A link at reset: full, nothing sent (log entry 4). -/
def Link.reset : Link :=
  { mode := .full, rmode := .full, training := false, trainEnd := 0, out := false, next := 0, ack := 0, expected := 0, expected2 := 0, store := [], sent := [],
    timer := 0, owed := 0, resync := false, recal := 0 }

/-- A partition with nothing queued. -/
def Part.reset : Part :=
  { mode := .running, queues := Vector.replicate 4 [], fns := [], slices := [], cur := 0, stretch := 0,
    overrun := 0, reason := 0, sliceStamp := 0 }

/-- A die at reset: measurement registers zero (R295). -/
def Die.reset : Die :=
  { mq := [], ringing := false, meas := Vector.replicate 8 (List.replicate 48 0), booted := false,
    failed := false, image := [], hot := 0, delays := 0, errors := 0, telemetry := 0 }

/-- A service-table entry at reset (R286). -/
def Svc.reset : Svc :=
  { w := ⟨0, 0, 0, 0, 0⟩, v := false, task := none, live := none, drops := 0, reg := 0, pages := [], produced := 0,
    consumed := 0, frames := [] }

/-- An Ethernet port without addresses (log entry 71). -/
def EthPort.reset : EthPort := { mac := 0, ips := [] }

/-- No instruction in progress. -/
def Prog.none : Prog := { phase := 0, words := [], bad := Option.none, val := 0 }

/-- The events due from reset: each die boots at cycle 0 (R294), samples telemetry every millisecond, and the links
recalibrate every 100 ms (R255). -/
def resetAgenda : List Entry :=
  (List.range 36).map (fun d => ⟨0, 0, 0, d, .powerOnReset d⟩)
    ++ (List.range 38).map (fun d => ⟨2250000, 0, 2250000, d, .telemetrySample d⟩)
    ++ (List.range 32).map (fun l => ⟨225000000, 0, 225000000, l, .gorrexLaneRecalibration l⟩)

/-- The machine right after reset. -/
def State.reset : State :=
  { now := 0, powered := true, modnum := 0, ctr := 0, seq := 64, uids := 1, focus := 0, word := 0, event := .none, arr := 0, tie := 0,
    agenda := resetAgenda, strands := [], tiles := [], partOf := [], retired := [], cores := [], vunits := [], cbs := [],
    fetches := [], matrices := [], xchs := [], mem := [], poison := [], cache := [], backing := [], descs := [],
    groups := [], locks := [], walks := [], jobs := [], pairs := [], links := [], linkSets := [], linkParts := [], peerPairs := [], peerTags := [],
    peerHeld := [], peerOut := [], exportPart := none, protos := [], parts := [], saved := [], dies := [], svc := [], psendq := [],
    ports := [], sentFrames := [], physQueue := [], badFrames := 0, fns := [], hostReads := [], flash := none, hostImage := none, harvest := [], trims := [], msix := [],
    mailbox := [], reports := [] }

end Sys2Proof.Machine
end

