-- ==== Sys2Proof/Machine/Base.lean ====
section
/-! DEFINITION. Reading and changing one part of the state, the agenda of events, and packets between tiles. -/

namespace Sys2Proof.Machine
open Sys2Proof

/-! ## Parts of the state -/

def State.tile (s : State) (t : Nat) : TileState := SMap.getD s.tiles t (TileState.reset t)
def State.setTile (s : State) (t : Nat) (x : TileState) : State := { s with tiles := SMap.put s.tiles t x }
def State.onTile (s : State) (t : Nat) (f : TileState → TileState) : State := s.setTile t (f (s.tile t))
def State.regs (s : State) (t : Nat) : TileRegs := (s.tile t).regs

/-- The number of a core of a tile. -/
def coreNo (t c : Nat) : Nat := 4 * t + c
def State.core (s : State) (t c : Nat) : Core := SMap.getD s.cores (coreNo t c) Core.reset
def State.onCore (s : State) (t c : Nat) (f : Core → Core) : State :=
  { s with cores := SMap.put s.cores (coreNo t c) (f (s.core t c)) }
def State.vunit (s : State) (t c : Nat) : VUnit := SMap.getD s.vunits (coreNo t c) VUnit.reset
def State.onVunit (s : State) (t c : Nat) (f : VUnit → VUnit) : State :=
  { s with vunits := SMap.put s.vunits (coreNo t c) (f (s.vunit t c)) }

def State.strand (s : State) (u : Nat) : Option Strand := SMap.find? s.strands u
def State.onStrand (s : State) (u : Nat) (f : Strand → Strand) : State :=
  { s with strands := SMap.adjust s.strands u f }

/-- The number of a handle of a tile. -/
def cbNo (t h : Nat) : Nat := 16 * t + h
/-- A handle; none while it is unset (R216). -/
def State.cb (s : State) (t h : Nat) : Option Cb := SMap.find? s.cbs (cbNo t h)
def State.setCb (s : State) (t h : Nat) (c : Cb) : State := { s with cbs := SMap.put s.cbs (cbNo t h) c }
def State.onCb (s : State) (t h : Nat) (f : Cb → Cb) : State := { s with cbs := SMap.adjust s.cbs (cbNo t h) f }

def State.fetch (s : State) (t : Nat) : Fetch := SMap.getD s.fetches t Fetch.reset
def State.onFetch (s : State) (t : Nat) (f : Fetch → Fetch) : State :=
  { s with fetches := SMap.put s.fetches t (f (s.fetch t)) }
def State.chan (s : State) (t ch : Nat) : Chan := (s.fetch t).chans[ch]?.getD default
def State.onChan (s : State) (t ch : Nat) (f : Chan → Chan) : State :=
  s.onFetch t (fun e => { e with chans := e.chans.setIfInBounds ch (f (e.chans[ch]?.getD default)) })

def State.matrix (s : State) (t : Nat) : Matrix := SMap.getD s.matrices t Matrix.reset
def State.onMatrix (s : State) (t : Nat) (f : Matrix → Matrix) : State :=
  { s with matrices := SMap.put s.matrices t (f (s.matrix t)) }

def State.xch (s : State) (t : Nat) : Xch := SMap.getD s.xchs t Xch.reset
def State.onXch (s : State) (t : Nat) (f : Xch → Xch) : State :=
  { s with xchs := SMap.put s.xchs t (f (s.xch t)) }
def State.xchan (s : State) (t ch : Nat) : XChan := (s.xch t).chans[ch]?.getD XChan.reset
def State.onXchan (s : State) (t ch : Nat) (f : XChan → XChan) : State :=
  s.onXch t (fun e => { e with chans := e.chans.setIfInBounds ch (f (e.chans[ch]?.getD XChan.reset)) })

def State.part (s : State) (p : Nat) : Part := SMap.getD s.parts p Part.reset
def State.onPart (s : State) (p : Nat) (f : Part → Part) : State :=
  { s with parts := SMap.put s.parts p (f (s.part p)) }
def State.die (s : State) (d : Nat) : Die := SMap.getD s.dies d Die.reset
def State.onDie (s : State) (d : Nat) (f : Die → Die) : State := { s with dies := SMap.put s.dies d (f (s.die d)) }
def State.link (s : State) (l : Nat) : Link := SMap.getD s.links l Link.reset
def State.onLink (s : State) (l : Nat) (f : Link → Link) : State :=
  { s with links := SMap.put s.links l (f (s.link l)) }

/-- The partition of a tile (R110, R269). -/
def State.partOfTile (s : State) (t : Nat) : Nat := SMap.getD s.partOf t 0
/-- The number of no partition: a tile that none holds has it (R12, R16). -/
def noPart : Nat := Config.partitions

/-- The tiles of a partition, in rising number (R269); a number that is no partition has none (R12). -/
def State.tilesOf (s : State) (p : Nat) : List Nat :=
  if p < Config.partitions then (List.range Config.tiles).filter (fun t => s.partOfTile t == p) else []

/-- Follow forwarding entries from a tile's number: a replacement may be retired in its turn (R82). -/
def State.realFrom (s : State) : Nat → Nat → Nat
  | 0, t => t
  | n + 1, t => match SMap.find? s.retired t with
    | some (some r) => s.realFrom n r
    | _ => t
/-- The tile that answers to a number: the replacement of a retired tile (R82). -/
def State.real (s : State) (t : Nat) : Nat := s.realFrom s.retired.length t
/-- What the forwarding of a packet from a tile's number adds to its time: a transit for each entry (R82). -/
def State.transitFrom (s : State) : Nat → Nat → Nat
  | 0, _ => 0
  | n + 1, t => match SMap.find? s.retired t with
    | some (some r) => Config.oneWay t r + s.transitFrom n r
    | _ => 0
def State.transit (s : State) (t : Nat) : Nat := s.transitFrom s.retired.length t
/-- The tile that a number leads to is retired, without a forwarding entry (R82). -/
def State.gone (s : State) (t : Nat) : Bool := SMap.find? s.retired (s.real t) == some none

/-- Two tiles of one partition (R16, R269). -/
def State.together (s : State) (a b : Nat) : Bool :=
  s.partOfTile a == s.partOfTile b && decide (s.partOfTile a < Config.partitions)

/-- A new number for a strand, a walk, a protocol or a tag. -/
def State.newId (s : State) : Nat × State := (s.uids, { s with uids := s.uids + 1 })

/-- The next free value of a kind (log entry 5). -/
def State.free (s : State) (k : Config.Open) : Nat × State :=
  (Config.free k s.ctr, { s with ctr := s.ctr + 1 })

/-! ## The agenda -/

/-- Strictly earlier: by cycle, place within the cycle, first arrival, tie. -/
def Entry.before (a b : Entry) : Bool :=
  if a.due = b.due then
    if a.phase = b.phase then
      if a.arr = b.arr then decide (a.tie < b.tie) else decide (a.arr < b.arr)
    else decide (a.phase < b.phase)
  else decide (a.due < b.due)

/-- Insert an entry after every entry that is not after it. -/
def insertEntry (e : Entry) : List Entry → List Entry
  | [] => [e]
  | x :: xs => if e.before x then e :: x :: xs else x :: insertEntry e xs

/-- An event at a cycle, in the order of making among its equals. -/
def State.schedule (s : State) (due phase : Nat) (ev : Event) : State :=
  { s with agenda := insertEntry ⟨due, phase, due, s.seq, ev⟩ s.agenda, seq := s.seq + 1 }

/-- An engine's change of a count, after all that the engines of this cycle look at: who waits for it sees it in the next
cycle (R216, R234). -/
def State.scheduleLast (s : State) (due : Nat) (ev : Event) : State :=
  { s with agenda := insertEntry ⟨due, 1, due + 1, s.seq, ev⟩ s.agenda, seq := s.seq + 1 }

/-- A unit that is no strand begins its accesses at a cycle (R60). -/
def State.startJob (s : State) (due : Nat) (j : Job) : State :=
  let i := s.newId
  State.schedule { i.2 with jobs := SMap.put i.2.jobs i.1 j } due 1 (.job i.1)

def State.onJob (s : State) (id : Nat) (f : Job → Job) : State := { s with jobs := SMap.adjust s.jobs id f }

/-- The event under way waits for its turn at an owner: it keeps its first arrival (R112). -/
def State.defer (s : State) : State :=
  { s with agenda := insertEntry ⟨s.now + 1, 2, s.arr, s.tie, s.event⟩ s.agenda }

end Sys2Proof.Machine
end

