-- ==== Sys2Proof/Machine/Packets.lean ====
section
/-! DEFINITION. Packets: the step that each performs, its lineage and the filters that discard it (R134), its flits and
their headers (R246 to R248), and how it crosses the module (R244, R245, R249). -/

namespace Sys2Proof.Machine
open Sys2Proof

/-! ## Packets -/

/-- The step that performs a packet at its destination, and its place within the cycle. -/
def packetEvent : Packet → Nat × Event
  | .mig m => (2, .migrationArrival m)
  | .spawnat m => (2, .spawnatArrival m)
  | .parkCtx m => (2, .parkContextArrival m)
  | .ctxReturn m => (2, .contextReturnArrival m)
  | .req r => (2, .requestArrival r)
  | .resp r => (0, .responseArrival r)
  | .post p => (2, .postedArrival p)
  | .ack u n => (0, .acknowledgementArrival u n)
  | .refusal u n a => (0, .postedRefusalArrival u n a)
  | .ewrite w => (2, .engineWriteArrival w)
  | .ewriteAck t c g r => (0, if g < 256 then .engineWriteAck t c g r else .completionArrivalAck t c r)
  | .admission u t => (0, .admissionAnswer u t)
  | .refused u t l f => (0, .refusalArrival u t l f)
  | .call u t => (0, .callFlitArrival u t)
  | .bind b => (2, .xchBindArrival b)
  | .bindReply b => (0, .xchBindReply b)
  | .xdata f => (2, .xchDataFlitArrival f)
  | .permit p => (3, .xchPermitArrival p)
  | .resync t c => (2, .xchResyncFlitArrival t c)
  | .xerror t c e => (0, .xchErrorFlitArrival t c e)
  | .closeReq t c => (2, .xchCloseRequestArrival t c)
  | .unbind t c => (2, .xchUnbindArrival t c)
  | .unbindReply t c => (0, .xchUnbindReply t c)
  | .cancel r => (2, .cancelFlitArrival r)
  | .cancelAck i => (0, .cancelStopAck i)
  | .sweep r => (2, .sweepFlitArrival r)
  | .marker r => (2, .markerFlitArrival r)
  | .cancelFinal i => (0, .cancelFinalAck i)
  | .tlbi r => (2, .tlbiFlitArrival r)
  | .roundAck i => (0, .responseArrival ⟨.round i, 0, .data []⟩)
  | .domHold r => (2, .domsetHoldArrival r)
  | .domDesc r => (2, .domsetDescriptorArrival r)
  | .cacheOp c => (2, .cacheOpArrival c)
  | .opAck u v => (0, .responseArrival ⟨.op u, v, .data []⟩)
  | .csr c => (2, .remoteCsrRequest c)
  | .sres r => (2, .sresArrival r)
  | .fres r => (2, .fresAtChannel r)
  | .preempt r => (2, .preemptFlitArrival r)
  | .preemptAck r => (0, .preemptTileAck r)
  | .restore r => (2, .restoreFlitArrival r)
  | .message d m b => (0, .messageRingWrite d (some m) b)
  | .orderCount a b c => (0, .orderCountArrival a b c)

/-- A packet of four flits (R247). -/
def packetLong : Packet → Bool
  | .mig _ => true | .spawnat _ => true | .parkCtx _ => true | .ctxReturn _ => true
  | _ => false

/-- The lineage by which a filter discards a packet, and whether a supervisor strand issued it (R133, R134): of a context, of
a request for a strand or for a fetch command, of a posted operation, and of an engine write. A walker's reads belong to
no strand. -/
def State.packetLin (s : State) : Packet → Option (BitVec 16 × Bool)
  | .mig m => (s.strand m.uid).map (fun t => (t.ctx.lin, t.ctx.sup))
  | .spawnat m => (s.strand m.uid).map (fun t => (t.ctx.lin, t.ctx.sup))
  | .parkCtx m => (s.strand m.uid).map (fun t => (t.ctx.lin, t.ctx.sup))
  | .ctxReturn m => (s.strand m.uid).map (fun t => (t.ctx.lin, t.ctx.sup))
  | .req r => match r.agent with
    | .walker _ => none
    | .round _ => none
    | .op _ => none
    | .job _ => none
    | _ => some (r.lin, r.sup)
  | .post p => some (p.lin, p.sup)
  | .ewrite w => some (w.lin, w.sup)
  | _ => none

/-- The tile that a packet with a lineage comes from. -/
def packetSrc : Packet → Nat
  | .mig m => m.src
  | .spawnat m => m.src
  | .parkCtx m => m.src
  | .ctxReturn m => m.src
  | .req r => r.src
  | .post p => p.src
  | .ewrite w => w.src
  | _ => 0

/-- A lineage in the family of a filter (R86, R133). -/
def Filter.hits (f : Filter) (l : BitVec 16) (sup : Bool) : Bool :=
  ((l ^^^ f.a) &&& f.m == 0) && !(f.users && sup)

/-- A packet that a filter of the tile discards, going out or coming in: of the family, from a tile of the partition
(R133, R134). -/
def State.filtered (s : State) (t : Nat) (p : Packet) : Bool :=
  match s.packetLin p with
  | none => false
  | some (l, sup) => (s.tile t).filters.any (fun f => f.hits l sup && s.partOfTile (packetSrc p) == f.part)

/-- The pair of a source and a destination tile. -/
def pairNo (src dst : Nat) : Nat := 4096 * src + dst
def State.pair (s : State) (src dst : Nat) : Pair := SMap.getD s.pairs (pairNo src dst) Pair.reset
def State.onPair (s : State) (src dst : Nat) (f : Pair → Pair) : State :=
  { s with pairs := SMap.put s.pairs (pairNo src dst) (f (s.pair src dst)) }

/-- The delivery mode of a command (R175). -/
def FCmd.mode (c : FCmd) : Nat := (c.w[7]?.getD 0).toNat % 16

/-- The step that takes an answer, by the agent it belongs to (R248). -/
def State.respEvent (s : State) (r : Resp) : Event :=
  match r.agent with
  | .walker w => .walkEntryResponse w r.ans
  | .icache t l => .icacheFill t l r.ans
  | .table t ch g => .fetchTableEntryArrival t ch g r.ans
  | .burst t g =>
    let mode := match SMap.find? (s.fetch t).reads g with
      | none => 0
      | some x => match (s.chan t x.ch).cmds.find? (fun c => c.id == x.id) with
        | some c => c.mode
        | none => 0
    if mode = 1 then .burstLandHandler ⟨t, g, r.ans⟩
    else if mode = 2 then .burstLandCb ⟨t, g, r.ans⟩
    else if mode = 3 then .burstLandMulticast ⟨t, g, r.ans⟩
    else .burstLandBuffer ⟨t, g, r.ans⟩
  | _ => .responseArrival r

/-- An answer at a cycle. Bursts that land together do so in the order of their reads (R181). -/
def State.respond (s : State) (due : Nat) (r : Resp) : State :=
  let tie := match r.agent with
    | .burst t g => match SMap.find? (s.fetch t).reads g with
      | some x => x.order
      | none => s.seq
    | _ => s.seq
  { s with agenda := insertEntry ⟨due, 0, due, tie, s.respEvent r⟩ s.agenda, seq := s.seq + 1 }

/-- Deliver a packet at a cycle: accesses of different sources in one cycle have no fixed order (R112). -/
def State.deliverAt (s : State) (due : Nat) (p : Packet) : State :=
  let d := packetEvent p
  if d.1 = 2 then
    let f := s.free .arrival
    { f.2 with agenda := insertEntry ⟨due, 2, due, f.1, d.2⟩ f.2.agenda }
  else match p with
    | .resp r => s.respond due r
    | _ => s.schedule due d.1 d.2

/-! ## Flits (R246 to R248) -/

/-- The 32 words of a context (R66). -/
def Ctx.words (c : Ctx) (hleft : BitVec 32) : List Word :=
  let b (x : Bool) (i : Nat) : Nat := if x then 2 ^ i else 0
  let k (x : Nat) : Word := BitVec.ofNat 64 x
  c.g.toList ++
    [k ((c.pred ||| 1).toNat * 2 ^ 48 + c.pc.toNat),
     k (c.pseq.toNat * 2 ^ 48 + c.lin.toNat * 2 ^ 32 + c.sid.toNat),
     k (b c.rpin 60 + b c.xpin 59 + b c.sup 58 + c.cls.toNat * 2 ^ 56 + c.tcause.toNat * 2 ^ 48 + c.tvec.toNat),
     k (c.tseq.toNat * 2 ^ 48 + c.tpc.toNat), c.tval,
     k (c.nstop.toNat * 2 ^ 32 + c.alt.toNat * 2 ^ 24 + c.prev.toNat * 2 ^ 12 + c.cur.toNat),
     k (c.pmin.toNat * 2 ^ 40 + c.plim.toNat * 2 ^ 32 + hleft.toNat), toWord c.phold]

/-- The context that a packet carries. -/
def packetCtx : Packet → Option Nat
  | .mig m => some m.uid
  | .spawnat m => some m.uid
  | .parkCtx m => some m.uid
  | .ctxReturn m => some m.uid
  | _ => none

/-- The kind of a packet (R247). -/
def packetKind : Packet → BitVec 4
  | .mig _ => 0 | .spawnat _ => 1 | .parkCtx _ => 0 | .ctxReturn _ => 0
  | .req _ => 2 | .resp _ => 3 | .post _ => 4
  | .ack _ _ => 5 | .refusal _ _ _ => 5 | .ewrite _ => 6 | .ewriteAck _ _ _ _ => 5
  | .xdata _ => 7 | .permit _ => 8 | .message _ _ _ => 10
  | _ => 9

/-- An engine tag (R248). -/
def engineTag (src : Nat) (dir : Bool) (ch tag : Nat) : BitVec 32 :=
  BitVec.ofNat 32 (3 * 2 ^ 30 + src * 2 ^ 28 + (if dir then 2 ^ 11 else 0) + ch % 8 * 2 ^ 8 + tag % 256)

/-- The sid of a strand. -/
def State.sidOf (s : State) (u : Nat) : BitVec 32 := ((s.strand u).map (·.ctx.sid)).getD 0

/-- The agent that a request or its answer belongs to: a strand's sid, or an engine tag (R248). -/
def State.agentTag (s : State) (t : Nat) : Agent → BitVec 32
  | .reg u _ _ _ => s.sidOf u
  | .word u _ => s.sidOf u
  | .line u _ => s.sidOf u
  | .join u _ => s.sidOf u
  | .op u => s.sidOf u
  | .icache t f => match SMap.find? (s.tile t).fills f with
    | some x => s.sidOf x.uid
    | none => 0
  | .walker w => engineTag 1 false 0 (match SMap.find? s.walks w with | some x => x.slot | none => 0)
  | .table _ ch tag => engineTag 0 false ch tag
  | .burst _ tag => engineTag 0 false (match SMap.find? (s.fetch t).reads tag with | some x => x.ch | none => 0) tag
  | .round _ => 0
  | .job _ => 0

/-- The lineage of a strand. -/
def State.linOf (s : State) (u : Nat) : BitVec 16 := ((s.strand u).map (·.ctx.lin)).getD 0

/-- The lineage of the command that a tag of a fetch engine belongs to. -/
def State.tagLin (s : State) (t : Nat) (x : Option Tag) : BitVec 16 :=
  (x.bind (fun x => ((s.chan t x.ch).cmds.find? (fun c => c.id == x.id)).map (·.lin))).getD 0

/-- The lineage of the strand or command that an answer goes to. -/
def State.agentLin (s : State) : Agent → BitVec 16
  | .reg u _ _ _ => s.linOf u
  | .word u _ => s.linOf u
  | .line u _ => s.linOf u
  | .join u _ => s.linOf u
  | .op u => s.linOf u
  | .icache t f => ((SMap.find? (s.tile t).fills f).map (fun x => s.linOf x.uid)).getD 0
  | .table t _ g => s.tagLin t (SMap.find? (s.fetch t).reads g)
  | .burst t g => s.tagLin t (SMap.find? (s.fetch t).reads g)
  | .walker _ => 0
  | .round _ => 0
  | .job _ => 0

/-- The lineage in the header of a packet's flits: of the context that they belong to (R246). -/
def State.headerLin (s : State) (src : Nat) (p : Packet) : BitVec 16 :=
  match p with
  | .resp r => s.agentLin r.agent
  | .ack u _ => s.linOf u
  | .refusal u _ _ => s.linOf u
  | .ewriteAck t _ g _ => s.tagLin t (SMap.find? (s.fetch t).writes (g % 256))
  | .admission u _ => s.linOf u
  | .refused u _ _ _ => s.linOf u
  | .call u _ => s.linOf u
  | .opAck u _ => s.linOf u
  | .csr c => s.linOf c.uid
  | .sres r => s.linOf r.uid
  | .fres r => s.linOf r.uid
  | .cacheOp c => s.linOf c.uid
  | .bind b => b.lin
  | .xdata f => (((s.xch src).chans.toList.find? (fun x => x.sender && x.peer == f.dst && x.pch == f.ch)).map (·.lin)).getD 0
  | p => ((s.packetLin p).map (·.1)).getD 0

/-- The context tag of a packet's flits (R247). -/
def State.packetTag (s : State) (src : Nat) (p : Packet) : BitVec 32 :=
  match p with
  | .mig m => s.sidOf m.uid
  | .spawnat m => s.sidOf m.uid
  | .parkCtx m => s.sidOf m.uid
  | .ctxReturn m => s.sidOf m.uid
  | .req r => s.agentTag r.src r.agent
  | .resp r => s.agentTag src r.agent
  | .post p => s.sidOf p.uid
  | .ack u _ => s.sidOf u
  | .refusal u _ _ => s.sidOf u
  | .ewrite w => engineTag 0 true w.ch w.tag
  | .ewriteAck _ ch tag _ => engineTag 0 true ch tag
  | .xdata f => BitVec.ofNat 32 (f.ch % 4 + f.flit % 512 * 4 + f.index.toNat % 2 ^ 21 * 2 ^ 11)
  | .permit p => BitVec.ofNat 32 p.ch
  | .message _ _ _ => BitVec.ofNat 32 src
  | _ => Config.controlTag p

/-- Words as the bits of a payload, the first lowest. -/
def payloadOf : List Word → BitVec 512
  | [] => 0
  | w :: ws => (payloadOf ws <<< 64) ||| w.setWidth 512

/-- The payload of a packet's flit `i`: a quarter of a context (R66), or what the manual lays out no further. -/
def State.packetPayload (s : State) (p : Packet) (i : Nat) : BitVec 512 :=
  match (packetCtx p).bind s.strand with
  | some x => payloadOf (((x.ctx.words x.ctx.hleft).drop (8 * i)).take 8)
  | none => Config.payload p i

/-- Flits of a packet, minus 1 (R247). -/
def packetTrail (p : Packet) : Nat := if packetLong p then 3 else 0

/-- The age that a packet enters the torus with: 0, or what a context sent again carries (R78, R245). -/
def packetAge : Packet → Nat
  | .mig m => m.age
  | .spawnat m => m.age
  | .parkCtx m => m.age
  | .ctxReturn m => m.age
  | _ => 0

/-- The packet with the age that its flits have come to (R245). -/
def withAge (p : Packet) (a : Nat) : Packet :=
  match p with
  | .mig m => .mig { m with age := a }
  | .spawnat m => .spawnat { m with age := a }
  | .parkCtx m => .parkCtx { m with age := a }
  | .ctxReturn m => .ctxReturn { m with age := a }
  | p => p

/-- A packet whose payload is uncorrectable (R89, R230, R233, R254). An acknowledgement or a control flit is judged by its
header alone (R247). -/
def spoilPacket : Packet → Packet
  | .mig m => .mig { m with bad := true }
  | .spawnat m => .spawnat { m with bad := true }
  | .parkCtx m => .parkCtx { m with bad := true }
  | .ctxReturn m => .ctxReturn { m with bad := true }
  | .req r => .req { r with bad := true }
  | .resp r => .resp { r with ans := .fail 7 }
  | .post p => .post { p with bad := true }
  | .ewrite w => .ewrite { w with poisoned := true }
  | .bindReply b => .bindReply { b with bad := true }
  | .xdata f => .xdata { f with bad := true }
  | .permit p => .permit { p with bad := true }
  | .message d m _ => .message d m true
  | p => p

/-- A packet whose payload is uncorrectable, of those that carry a context (R89, R254). -/
def packetBad : Packet → Bool
  | .mig m => m.bad
  | .spawnat m => m.bad
  | .parkCtx m => m.bad
  | .ctxReturn m => m.bad
  | _ => false

/-- A packet that carries a context. -/
def carries (u : Nat) (p : Packet) : Bool := packetCtx p == some u

/-- An answer with the response that carries it changed. -/
def onAnswer (f : Packet → Packet) (g : Agent) (a : Answer) : Answer :=
  match f (.resp ⟨g, 0, a⟩) with
  | .resp r => r.ans
  | _ => a

/-- The packet that is on its way as an event, and the event with that packet changed. -/
def onPacket (f : Packet → Packet) : Event → Event
  | .inject s d p => .inject s d (f p)
  | .diePortFlitArrival x => .diePortFlitArrival { x with pkt := f x.pkt }
  | .migrationArrival m => match f (.mig m) with | .mig m => .migrationArrival m | _ => .migrationArrival m
  | .spawnatArrival m => match f (.spawnat m) with | .spawnat m => .spawnatArrival m | _ => .spawnatArrival m
  | .parkContextArrival m => match f (.parkCtx m) with | .parkCtx m => .parkContextArrival m | _ => .parkContextArrival m
  | .contextReturnArrival m => match f (.ctxReturn m) with
    | .ctxReturn m => .contextReturnArrival m
    | _ => .contextReturnArrival m
  | .requestArrival r => match f (.req r) with | .req r => .requestArrival r | _ => .requestArrival r
  | .responseArrival r => match f (.resp r) with | .resp r => .responseArrival r | _ => .responseArrival r
  | .walkEntryResponse w a => .walkEntryResponse w (onAnswer f (.walker w) a)
  | .icacheFill t l a => .icacheFill t l (onAnswer f (.icache t l) a)
  | .fetchTableEntryArrival t ch g a => .fetchTableEntryArrival t ch g (onAnswer f (.table t ch g) a)
  | .burstLandBuffer b => .burstLandBuffer { b with ans := onAnswer f (.burst b.tile b.tag) b.ans }
  | .burstLandMulticast b => .burstLandMulticast { b with ans := onAnswer f (.burst b.tile b.tag) b.ans }
  | .burstLandCb b => .burstLandCb { b with ans := onAnswer f (.burst b.tile b.tag) b.ans }
  | .burstLandHandler b => .burstLandHandler { b with ans := onAnswer f (.burst b.tile b.tag) b.ans }
  | .postedArrival p => match f (.post p) with | .post p => .postedArrival p | _ => .postedArrival p
  | .engineWriteArrival w => match f (.ewrite w) with | .ewrite w => .engineWriteArrival w | _ => .engineWriteArrival w
  | .xchBindReply b => match f (.bindReply b) with | .bindReply b => .xchBindReply b | _ => .xchBindReply b
  | .xchDataFlitArrival x => match f (.xdata x) with | .xdata x => .xchDataFlitArrival x | _ => .xchDataFlitArrival x
  | .xchPermitArrival p => match f (.permit p) with | .permit p => .xchPermitArrival p | _ => .xchPermitArrival p
  | .messageRingWrite d (some m) b => match f (.message d m b) with
    | .message d m b => .messageRingWrite d (some m) b
    | _ => .messageRingWrite d (some m) b
  | e => e

/-- Change every packet on its way to which a test applies. -/
def State.onFlight (s : State) (p : Packet → Bool) (f : Packet → Packet) : State :=
  let g (x : Packet) : Packet := if p x then f x else x
  { s with agenda := s.agenda.map (fun e => { e with ev := onPacket g e.ev }),
           pairs := s.pairs.map (fun e => (e.1, { e.2 with queue := e.2.queue.map g })),
           tiles := s.tiles.map (fun e =>
             (e.1, { e.2 with domHeld := e.2.domHeld.map (fun h => (h.1, h.2.1, onPacket g h.2.2)) })) }

/-- The parity of an age. -/
def parityOf (a : BitVec 8) : Bool := (List.range 8).foldl (fun b i => b ^^ a.getLsbD i) false

/-- The 128 bits of a header (R246). -/
def headerBits (h : FlitHeader) : BitVec 128 :=
  h.age ++ h.seq ++ h.fi ++ h.nf ++ h.kind ++ h.dst ++ h.src ++ h.lin ++ h.ctx ++ 0#4
    ++ BitVec.ofBool h.ap ++ h.pecc ++ h.crc

/-- The bits that the check covers: all of [127:16] except age and ap (R246). -/
def headerCovered (h : FlitHeader) : BitVec 128 := headerBits { h with age := 0, ap := false, crc := 0 }

/-- The age of a flit: one whose ap disagrees with it is of age 255 (R247). -/
def headerAge (h : FlitHeader) : BitVec 8 := if h.ap = parityOf h.age then h.age else 255

/-- What is wrong with a header: 1 its check, 2 its destination, 3 its kind; 0 nothing (R246, R247, R254). -/
def headerFails (h : FlitHeader) : BitVec 8 :=
  if h.crc ≠ Config.crc16 (headerCovered h) then 1
  else if Config.tiles ≤ h.dst.toNat ∧ (h.dst.toNat < 0xF00 ∨ 0xF24 < h.dst.toNat) then 2
  else if 11 ≤ h.kind.toNat then 3
  else 0

/-- The header of flit `i` of a packet (R246). -/
def State.flitHeader (s : State) (src dst : Nat) (seq : BitVec 8) (age i : Nat) (p : Packet) : FlitHeader :=
  let a : BitVec 8 := BitVec.ofNat 8 (min age 255)
  let h : FlitHeader :=
    { age := a, seq := seq, fi := BitVec.ofNat 2 i, nf := BitVec.ofNat 2 (packetTrail p), kind := packetKind p,
      dst := BitVec.ofNat 12 dst, src := BitVec.ofNat 12 src, lin := s.headerLin src p,
      ctx := s.packetTag src p, ap := parityOf a, pecc := Config.secded (s.packetPayload p i), crc := 0 }
  { h with crc := Config.crc16 (headerCovered h) }

/-! ## Sending (R244, R245, R249) -/

/-- Flit `i` of a packet crosses the torus: it reaches the port of its destination die 24 + 8H + 16D later, each
deflection adding one to its age (R87, R245). -/
def State.launchFlit (s : State) (src dst : Nat) (seq : BitVec 8) (p : Packet) (i : Nat) : State :=
  let f := s.free .deflect
  f.2.schedule (s.now + i + 24 + 8 * Config.hops (Config.dieOf src) (Config.dieOf dst) + 16 * f.1) 0
    (.diePortFlitArrival ⟨src, dst, s.flitHeader src dst seq (packetAge p + f.1) i p, 0, p⟩)

/-- A crossbar finds a flit whose header fails its checks: the packet is discarded, and the partition of the tile that was to
receive it stops (R246, R254). -/
def State.flitFails (s : State) (t : Nat) (h : FlitHeader) : State :=
  let b := headerBits h
  s.schedule s.now 0 (.flitHeaderFailure t false (headerFails h) (b.extractLsb' 0 64) (b.extractLsb' 64 64))

/-- The crossbar checks a flit's header before the packet goes on (R246). -/
def State.checkFlit (s : State) (t : Nat) (h : FlitHeader) (next : State) : State :=
  if headerFails h = 0 then next else s.flitFails t h

/-- A packet enters its die's crossbar in this cycle, which checks the headers of its flits (R244, R245, R246, R249). Within
a die it takes 12 cycles, after the packet before it of the same pair; between dies its flits follow each other onto the
torus, and it is held while 128 packets of the pair are not yet counted as delivered. -/
def State.inject (s : State) (src dst : Nat) (p : Packet) : State :=
  if s.filtered src p then s
  else
    let q := s.pair src dst
    if Config.dieOf src = Config.dieOf dst then
      let last := max (s.now + 12 + packetTrail p) (q.last + 1)
      match (List.range (packetTrail p + 1)).find? (fun i => headerFails (s.flitHeader src dst q.seq (packetAge p) i p) != 0) with
      | some i => s.flitFails (if dst < Config.tiles then dst else src) (s.flitHeader src dst q.seq (packetAge p) i p)
      | none =>
        let s := s.onPair src dst (fun q => { q with last := last, seq := q.seq + 1 })
        s.deliverAt (last + s.transit dst) p
    else if 128 ≤ (q.seq - q.seen).toNat ∨ q.queue ≠ [] then
      s.onPair src dst (fun q => { q with queue := q.queue ++ [p] })
    else
      (List.range (packetTrail p + 1)).foldl (fun s i => s.launchFlit src dst q.seq p i)
        (s.onPair src dst (fun q => { q with seq := q.seq + 1 }))

/-- Send a packet: a context is packed into its four flits first (R81). -/
def State.send (s : State) (src dst : Nat) (p : Packet) : State :=
  if packetLong p then s.schedule (s.now + 8) 1 (.inject src dst p) else s.inject src dst p

end Sys2Proof.Machine
end

