-- ==== Sys2Proof/Machine/Storage.lean ====
section
/-! DEFINITION. Memory and local store (R49, R57, R62, R64), the tile cache (R60), the watch table's wakes (R122,
R141, R143), and what an access does at its owner (R111). -/

namespace Sys2Proof.Machine
open Sys2Proof

/-! ## Bytes -/

/-- The number of a byte of a tile's memory or local store. -/
def cellNo (t : Nat) (ls : Bool) (off : Nat) : Nat := t * 2 ^ 33 + (if ls then 2 ^ 32 else 0) + off
/-- The tile, kind and offset of a byte's number. -/
def cellTile (k : Nat) : Nat := k / 2 ^ 33
def cellLs (k : Nat) : Bool := k / 2 ^ 32 % 2 == 1
def cellOff (k : Nat) : Nat := k % 2 ^ 32

/-- What a byte that nothing has written reads as: the firmware writes zero to every byte before any partition runs
(R294; log entry 1). -/
def emptyByte : Byte := 0

/-- Reading one byte. -/
def State.byte (s : State) (k : Nat) : Byte := SMap.getD s.mem k emptyByte
/-- Writing one byte, in canonical form. -/
def State.setByte (s : State) (k : Nat) (b : Byte) : State := { s with mem := SMap.set s.mem k b emptyByte }

/-- The canonical form of memory: rising byte numbers, and no byte that reads as an unlisted one. -/
def Memory.wf (m : SMap Byte) : Bool := SMap.rising m && m.all (fun c => c.2 != emptyByte)

def State.readBytes (s : State) (k n : Nat) : List Byte := (List.range n).map (fun i => s.byte (k + i))

def State.writeBytes (s : State) (k : Nat) : List Byte → State
  | [] => s
  | b :: bs => State.writeBytes (s.setByte k b) (k + 1) bs

/-- Bytes at their offsets from a base. -/
def State.writeAt (s : State) (k : Nat) : List (Nat × Byte) → State
  | [] => s
  | (o, b) :: bs => State.writeAt (s.setByte (k + o) b) k bs

/-- The value of bytes, little-endian (R1). -/
def leValue : List Byte → Nat
  | [] => 0
  | b :: bs => b.toNat + 256 * leValue bs

/-- The low `n` bytes of a value, little-endian (R1). -/
def leBytes : Nat → Nat → List Byte
  | 0, _ => []
  | n + 1, v => BitVec.ofNat 8 v :: leBytes n (v / 256)

def wordOf (bs : List Byte) : Word := BitVec.ofNat 64 (leValue bs)
def bytesOf (n : Nat) (w : Word) : List Byte := leBytes n w.toNat
def State.wordAt (s : State) (k : Nat) : Word := wordOf (s.readBytes k 8)

/-! ## Poison (R62, R64) -/

/-- Bytes of the poison granule. -/
def granSize (k : Nat) : Nat := if cellLs k then 8 else 64
/-- The granule of a byte. -/
def gran (k : Nat) : Nat := k / granSize k * granSize k
def State.poisoned (s : State) (k : Nat) : Bool := (SMap.find? s.poison (gran k)).isSome
/-- A poisoned granule among `n` bytes, 1 to 64, of one 64-byte block. -/
def State.anyPoison (s : State) (k n : Nat) : Bool := (List.range n).any (fun i => s.poisoned (k + i))
def State.setPoison (s : State) (k : Nat) : State := { s with poison := SMap.put s.poison (gran k) () }
def State.clearPoison (s : State) (k : Nat) : State := { s with poison := SMap.erase s.poison (gran k) }
/-- A sector of DRAM or HBM is uncorrectable: it is marked poisoned (R62). Where the tile cache holds it dirty, the error is
in the memory behind it and the cache's copy stays good (R60). Where the cache holds it clean, the manual does not say whether
the good copy still serves: it is poisoned at once (DESIGN CHOICE, log entry 80). -/
def State.spoilSector (s : State) (k : Nat) : State :=
  let q := k / 64 * 64
  match SMap.find? s.backing q with
  | some b => { s with backing := SMap.put s.backing q (b.1, true) }
  | none => s.setPoison q

/-- Poison every granule of `n` bytes. -/
def State.poisonRange (s : State) (k n : Nat) : State :=
  (List.range n).foldl (fun s i => s.setPoison (k + i)) s

/-- Bytes to write, at offsets from a base: some poisoned granule is covered only in part. -/
def State.partly (s : State) (k : Nat) (bs : List (Nat × Byte)) : Bool :=
  bs.any (fun b => s.poisoned (k + b.1) &&
    !((List.range (granSize k)).all (fun j => bs.any (fun c => k + c.1 == gran (k + b.1) + j))))

/-- Clear the poison of every granule that the bytes touch. -/
def State.clearAt (s : State) (k : Nat) (bs : List (Nat × Byte)) : State :=
  bs.foldl (fun s b => if s.poisoned (k + b.1) then s.clearPoison (k + b.1) else s) s

/-! ## The tile cache (R60) -/

def CLine.has (l : CLine) (sec : Nat) : Bool := l.valid.getLsbD sec
def CLine.fill (l : CLine) (sec : Nat) (dirty : Bool) : CLine :=
  { l with valid := l.valid ||| (1#8 <<< sec), dirty := if dirty then l.dirty ||| (1#8 <<< sec) else l.dirty }

/-- The set of a byte's line, by line number (log entry 9). -/
def cacheSet (k : Nat) : Nat := cellTile k * 256 + cellOff k / 512 % Config.cacheSets (cellTile k)

/-- The tile cache holds the sector of a byte. -/
def State.inCache (s : State) (k : Nat) : Bool :=
  (SMap.getD s.cache (cacheSet k) []).any (fun l => l.line == cellOff k / 512 && l.has (cellOff k / 64 % 8))

/-- The memory behind a sector, kept when the sector becomes dirty (R60, R276). -/
def State.keepBehind (s : State) (k : Nat) : State :=
  let q := k / 64 * 64
  match SMap.find? s.backing q with
  | some _ => s
  | none => { s with backing := SMap.put s.backing q (s.readBytes q 64, s.poisoned q) }

/-- Write back a line that leaves: nothing is kept behind its sectors. -/
def State.writeBackLine (s : State) (t : Nat) (l : CLine) : State :=
  { s with backing := (List.range 8).foldl (fun m i => SMap.erase m (cellNo t false (l.line * 512 + i * 64))) s.backing }

/-- Cycles of a miss, with what refresh and scrub add (R87). -/
def State.missCost (s : State) (t : Nat) : Nat × State :=
  let r := s.free .refresh
  let c := r.2.free .scrub
  (Config.missTime t + r.1 % 25 + (if (s.regs t).scrubrate = 0 then 0 else c.1 % 5), c.2)

/-- Pass an access to one sector through the owner's cache: its time A and the cache after it (R60, R87). -/
def State.touch (s : State) (k : Nat) (write : Bool) : Nat × State :=
  if cellLs k then (Config.lsTime, s)
  else
    let t := cellTile k
    let set := cacheSet k
    let line := cellOff k / 512
    let sec := cellOff k / 64 % 8
    let ways := SMap.getD s.cache set []
    let s := if write then s.keepBehind k else s
    match ways.find? (fun l => l.line == line) with
    | some l =>
      let ways' := l.fill sec write :: ways.filter (fun x => x.line != line)
      let s' := { s with cache := SMap.put s.cache set ways' }
      if l.has sec then (Config.hitTime, s') else s'.missCost t
    | none =>
      let new : CLine := CLine.fill ⟨line, 0, 0⟩ sec write
      if ways.length < 16 then ({ s with cache := SMap.put s.cache set (new :: ways) }).missCost t
      else
        let v := s.free .victim
        let out := ways.getD (v.1 % 16) new
        let s := v.2.writeBackLine t out
        ({ s with cache := SMap.put s.cache set (new :: ways.filter (fun x => x.line != out.line)) }).missCost t

/-! ## Owners (R56 to R58) -/

/-- The domset of a partition's domain that has reached its second phase (R277). -/
def State.newDesc (s : State) (p d : Nat) : Option Proto :=
  (List.find? (fun x => x.2.kind == 3 && x.2.part == p && x.2.dom == d && x.2.phase == 2) s.protos).map (·.2)

/-- The number of a descriptor: partition and domain. -/
def descNo (p d : Nat) : Nat := 64 * p + d

/-- A tile's copy of a domain's descriptor (R56, R277). -/
def State.desc (s : State) (t p d : Nat) : Option Desc :=
  match s.newDesc p d with
  | some x => if x.tiles.contains t then some x.desc else SMap.find? s.descs (descNo p d)
  | none => SMap.find? s.descs (descNo p d)

/-- The owner of a domain offset and the byte's number (R57). -/
def locateIn (x : Desc) (off : Nat) : Option (Nat × Nat) :=
  let n := x.list.length
  let u := off / 4096
  if n = 0 then none
  else if x.size / n * n * 4096 ≤ off then none
  else
    let t := x.list.getD (u % n) 0
    some (t, cellNo t false (x.base + u / n * 4096 + off % 4096))

/-- The owner of a target and its byte's number, by the descriptors that a tile holds. -/
def State.locate (s : State) (at' : Nat) : Target → Option (Nat × Nat)
  | .ls t off => some (t, cellNo t true off)
  | .tm _ t off => some (t, cellNo t false off)
  | .md p d off => match s.desc at' p d with
    | none => none
    | some x => locateIn x off

/-! ## Watchers (R122, R141, R143) -/

/-- Keep a wake sequence in order: by cycle, then by entry number. -/
def insertWake (x : Nat × Nat × Nat) : List (Nat × Nat × Nat) → List (Nat × Nat × Nat)
  | [] => [x]
  | y :: ys => if x.1 < y.1 ∨ (x.1 = y.1 ∧ x.2.1 < y.2.1) then x :: y :: ys else y :: insertWake x ys

/-- A watcher leaves the table; it becomes ready in the next free cycle of the tile's wake sequence (R143). -/
def State.wake (s : State) (t : Nat) (w : Watcher) : State :=
  let x := s.tile t
  let c := max (s.now + 1) x.wakeNext
  let x := { x with watch := x.watch.filter (fun y => y.num != w.num),
                    waking := insertWake (s.now, w.num, w.uid) x.waking, wakeNext := c + 1 }
  (s.setTile t x).schedule c 0 (.watcherReady t)

/-- Wake, in entry order, every watcher of tile `t` for which the test holds. -/
def State.wakeWhere (s : State) (t : Nat) (p : Watcher → Bool) : State :=
  ((s.tile t).watch.filter p).foldl (fun s w => s.wake t w) s

/-- Wake the watchers of the words that a write at tile `t` has changed: `old` is the state before the write. -/
def State.wakeChanged (old s : State) (t : Nat) : State :=
  match (s.tile t).watch with
  | [] => s
  | _ => s.wakeWhere t (fun w => old.readBytes w.cell 8 != s.readBytes w.cell 8)

/-! ## Accesses at their owner -/

/-- Read `n` bytes of one 64-byte block: the bytes, or a data error; with the access time (R62, R87). -/
def State.performRead (s : State) (k n : Nat) : Answer × Nat × State :=
  let a := s.touch k false
  (if s.anyPoison k n then .fail 7 else .data (s.readBytes k n), a.1, a.2)

/-- Write bytes at offsets from `k` within one block: refused when a poisoned granule is covered in part (R62). -/
def State.performWrite (s : State) (k : Nat) (bs : List (Nat × Byte)) : Bool × Nat × State :=
  if s.partly k bs then
    let a := s.touch k false
    (false, a.1, a.2)
  else
    let a := s.touch k true
    let s' := (a.2.clearAt k bs).writeAt k bs
    (true, a.1, State.wakeChanged s s' (s.real (cellTile k)))

/-- Bytes at rising offsets. -/
def placed (bs : List Byte) : List (Nat × Byte) := (List.range bs.length).zip bs

/-- The new value of a read-modify-write of `n` bytes, none when nothing is written (R118, R119, R137, R139). `e` is
the expected value of `acas`. -/
def rmwValue (f : Rmw) (n : Nat) (old b e : Word) : Option Word :=
  let w := 8 * n
  let cut (x : Word) : Word := BitVec.ofNat 64 (x.toNat % 2 ^ w)
  let sgn (x : Word) : Int := Int.bmod x.toNat (2 ^ w)
  let o := cut old
  let b := cut b
  match f with
  | .add => some (cut (o + b))
  | .and => some (o &&& b)
  | .or => some (o ||| b)
  | .xor => some (o ^^^ b)
  | .min => some (if b.toNat < o.toNat then b else o)
  | .mins => some (if sgn b < sgn o then b else o)
  | .max => some (if o.toNat < b.toNat then b else o)
  | .maxs => some (if sgn o < sgn b then b else o)
  | .swap => some b
  | .st => some b
  | .cas => if o = cut e then some b else none
  | .dec => some (cut (o - 1))
  | .arrive =>
    let arrived := o.toNat / 2 ^ 32 % 2 ^ 31 + 1
    let expected := o.toNat % 2 ^ 32
    let phase := o.toNat / 2 ^ 63
    some (BitVec.ofNat 64
      (if max expected 1 ≤ arrived then (1 - phase) * 2 ^ 63 + expected
       else phase * 2 ^ 63 + arrived % 2 ^ 31 * 2 ^ 32 + expected))

/-- A read-modify-write of `n` bytes in one step: the old value, or a data error when the granule is poisoned (R62,
R118). A plain store (`post.st`) is a write. -/
def State.performRmw (s : State) (k n : Nat) (f : Rmw) (b e : Word) : Answer × Nat × State :=
  if f = .st then
    let r := s.performWrite k (placed (bytesOf n b))
    (if r.1 then .data [] else .fail 7, r.2)
  else if s.anyPoison k n then
    let a := s.touch k false
    (.fail 7, a.1, a.2)
  else
    let old := s.readBytes k n
    match rmwValue f n (wordOf old) b e with
    | none =>
      let a := s.touch k false
      (.data old, a.1, a.2)
    | some v =>
      let a := s.touch k true
      let s' := a.2.writeAt k (placed (bytesOf n v))
      (.data old, a.1, State.wakeChanged s s' (s.real (cellTile k)))

/-- The turn of an access from another tile at its owner: one is performed in a cycle (R112). -/
def State.takeTurn (s : State) (t : Nat) : Option State :=
  if s.now + 1 ≤ (s.tile t).remote then none
  else some (s.onTile t (fun x => { x with remote := s.now + 1 }))

end Sys2Proof.Machine
end

