-- ==== Sys2Proof/Machine/Ethernet.lean ====
section
/-! DEFINITION. Ethernet frames: the checks of R285, the layers that R288 and R289 name, and the frame that a `psend` builds
(R292). The layouts are those of the standards that R285 names (log entry 71). -/

namespace Sys2Proof
open Machine

/-! ## Numbers in network order -/

/-- Bytes of a number, the highest first. -/
def beBytes (n v : Nat) : List Byte := (leBytes n v).reverse
/-- The number of bytes, the highest first. -/
def beValue (bs : List Byte) : Nat := leValue bs.reverse
/-- `n` bytes from an offset, as a number. -/
def beField (bs : List Byte) (off n : Nat) : Nat := beValue ((bs.drop off).take n)

/-- The sum of the 16-bit words of bytes, an odd byte padded with zero. -/
def sum16 : List Byte → Nat
  | a :: b :: bs => a.toNat * 256 + b.toNat + sum16 bs
  | [a] => a.toNat * 256
  | [] => 0

/-- A sum with its checksum in it is good: it is all ones when its carries are folded in. -/
def sumGood (n : Nat) : Bool := decide (n ≠ 0) && n % 65535 == 0

/-- The checksum that makes a sum good. -/
def checkOf (n : Nat) : Nat := if n = 0 then 65535 else 65534 - (n - 1) % 65535

/-- One byte of the frame check sequence, CRC-32. -/
def crc32Step (c : Half) (b : Byte) : Half :=
  (List.range 8).foldl (fun c _ => if c.getLsbD 0 then (c >>> 1) ^^^ 0xEDB88320 else c >>> 1) (c ^^^ b.setWidth 32)

/-- The frame check sequence of bytes. -/
def crc32 (bs : List Byte) : Half := ~~~(bs.foldl crc32Step 0xFFFFFFFF)

/-! ## Received frames (R285, R288) -/

/-- The frame check sequence is right. -/
def EthFrame.fcsOk (f : EthFrame) : Bool :=
  decide (18 ≤ f.bytes.length)
    && leValue (f.bytes.drop (f.bytes.length - 4)) == (crc32 (f.bytes.take (f.bytes.length - 4))).toNat

/-- The VLAN id of a frame that carries an 802.1Q tag. -/
def EthFrame.tag (f : EthFrame) : Option Nat :=
  if beField f.bytes 12 2 = 0x8100 then some (beField f.bytes 14 2 % 4096) else none

/-- Where the EtherType stands, after one tag at most: behind a second tag it is that tag's own. -/
def EthFrame.typeAt (f : EthFrame) : Nat := if f.tag.isSome then 16 else 12

def EthFrame.etherType (f : EthFrame) : Nat := beField f.bytes f.typeAt 2

/-- What the frame carries. -/
def EthFrame.packet (f : EthFrame) : List Byte := (f.bytes.take (f.bytes.length - 4)).drop (f.typeAt + 2)

/-- The length of an IPv4 header. -/
def ipHeader (p : List Byte) : Nat := 4 * (beField p 0 1 % 16)

/-- A frame with an IPv4 packet whose header check fails. -/
def EthFrame.headerBad (f : EthFrame) : Bool :=
  let p := f.packet
  f.etherType == 0x0800 && !(beField p 0 1 / 16 == 4 && decide (20 ≤ ipHeader p) && decide (ipHeader p ≤ p.length)
    && sumGood (sum16 (p.take (ipHeader p))))

/-- A fragment of an IPv4 packet. -/
def isFragment (p : List Byte) : Bool := beField p 6 2 % 2 ^ 14 != 0

/-- An address from its bytes. -/
def ipOf (bs : List Byte) : IpAddr :=
  ⟨bs.length == 16, BitVec.ofNat 64 (beValue bs), BitVec.ofNat 64 (beValue bs / 2 ^ 64)⟩

/-- The source, the destination and the segment of a frame that carries UDP: over IPv4, not in fragments, or over IPv6
without extension headers. -/
def EthFrame.segment (f : EthFrame) : Option (List Byte × List Byte × List Byte) :=
  let p := f.packet
  let b (o n : Nat) : List Byte := (p.drop o).take n
  if f.etherType = 0x0800 then
    if beField p 9 1 = 17 ∧ isFragment p = false then
      some (b 12 4, b 16 4, (p.take (beField p 2 2)).drop (ipHeader p))
    else none
  else if f.etherType = 0x86DD ∧ beField p 0 1 / 16 = 6 ∧ beField p 6 1 = 17 then
    some (b 8 16, b 24 16, b 40 (beField p 4 2))
  else none

/-- The sum over a segment and what the checksum covers of its packet. -/
def udpSum (src dst seg : List Byte) : Nat := sum16 src + sum16 dst + 17 + seg.length + sum16 seg

/-- A frame with UDP whose checksum fails: it is checked when it is nonzero in IPv4, and always in IPv6 (R285). A length
that its packet cannot hold fails too. -/
def EthFrame.udpBad (f : EthFrame) : Bool :=
  match f.segment with
  | none => false
  | some (src, dst, seg) =>
    let n := beField seg 4 2
    let c := beField seg 6 2
    decide (n < 8) || decide (seg.length < n) ||
      (if c = 0 then src.length == 16 else !(sumGood (udpSum src dst (seg.take n))))

/-- A frame that the port drops and counts (R285). -/
def EthFrame.faulty (f : EthFrame) : Bool :=
  !f.fcsOk || decide (9216 < f.bytes.length) || f.headerBad || f.udpBad

/-- What a matching frame says (R288, R289). -/
structure Datagram where
  mac : Nat
  src : IpAddr
  dst : IpAddr
  sport : Nat
  dport : Nat
  payload : List Byte
  deriving DecidableEq, Repr, Inhabited

/-- The datagram of a frame in the part of the standard that the port supports (R285). -/
def EthFrame.datagram (f : EthFrame) : Option Datagram :=
  match f.segment with
  | none => none
  | some (src, dst, seg) =>
    if src.length = 4 ∧ ipHeader f.packet ≠ 20 then none
    else some ⟨beField f.bytes 6 6, ipOf src, ipOf dst, beField seg 0 2, beField seg 2 2,
      (seg.take (beField seg 4 2)).drop 8⟩

/-- The address block of a datagram (R289). -/
def Datagram.block (d : Datagram) (idx now : Nat) : List Byte :=
  let w (x : Nat) : List Byte := leBytes 8 x
  w (d.mac + if d.dst.v6 then 2 ^ 48 else 0) ++ w (d.sport + d.dport * 2 ^ 16)
    ++ w d.src.lo.toNat ++ w d.src.hi.toNat ++ w d.dst.lo.toNat ++ w d.dst.hi.toNat
    ++ w (d.payload.length % 2 ^ 16 + idx * 2 ^ 32) ++ w now

/-! ## Sent frames (R292) -/

/-- The bytes of an address in a packet. -/
def ipBytes (v6 : Bool) (lo hi : Nat) : List Byte := if v6 then beBytes 16 (hi * 2 ^ 64 + lo) else beBytes 4 lo

/-- A UDP segment with its checksum, which is not sent as zero. -/
def udpSegment (src dst : List Byte) (sport dport : Nat) (payload : List Byte) : List Byte :=
  let seg (c : Nat) : List Byte := beBytes 2 sport ++ beBytes 2 dport ++ beBytes 2 (8 + payload.length) ++ beBytes 2 c ++ payload
  let c := checkOf (udpSum src dst (seg 0))
  seg (if c = 0 then 65535 else c)

/-- An IPv4 packet without options, or an IPv6 packet without extension headers. -/
def ipPacket (v6 : Bool) (o : BitVec 36) (src dst seg : List Byte) : List Byte :=
  let f (lo n : Nat) : Nat := o.toNat / 2 ^ lo % 2 ^ n
  if v6 then
    beBytes 4 (6 * 2 ^ 28 + f 0 8 * 2 ^ 20 + f 16 20) ++ beBytes 2 seg.length ++ beBytes 1 17 ++ beBytes 1 (f 8 8)
      ++ src ++ dst ++ seg
  else
    let h (c : Nat) : List Byte := beBytes 1 0x45 ++ beBytes 1 (f 0 8) ++ beBytes 2 (20 + seg.length) ++ beBytes 2 (f 16 16)
      ++ beBytes 2 (f 32 1 * 2 ^ 14) ++ beBytes 1 (f 8 8) ++ beBytes 1 17 ++ beBytes 2 c ++ src ++ dst
    h (checkOf (sum16 (h 0))) ++ seg

/-- The frame of a datagram to where an address block says, from the port's own address: untagged, padded to 64 bytes, with
its frame check sequence (R289, R292). -/
def sentBytes (mac : BitVec 48) (o : BitVec 36) (block payload : List Byte) : List Byte :=
  let w (i : Nat) : Nat := leValue ((block.drop (8 * i)).take 8)
  let v6 := w 0 / 2 ^ 48 % 2 == 1
  let src := ipBytes v6 (w 4) (w 5)
  let dst := ipBytes v6 (w 2) (w 3)
  let p := ipPacket v6 o src dst (udpSegment src dst (w 1 / 2 ^ 16) (w 1) payload)
  let f := beBytes 6 (w 0) ++ beBytes 6 mac.toNat ++ beBytes 2 (if v6 then 0x86DD else 0x0800) ++ p
  let f := f ++ List.replicate (60 - f.length) 0
  f ++ leBytes 4 (crc32 f).toNat

end Sys2Proof
end

