-- ==== Sys2Proof/Machine/Numbers.lean ====
section
/-! DEFINITION. Number formats and exact arithmetic (R17 to R33): a format's patterns are read into exact
values, every operation is exact, and one rounding writes the result back. -/

namespace Sys2Proof.Num

/-- The floating-point formats of R17. -/
inductive Fmt where
  | f32 | bf16 | f16 | e4m3 | e5m2
  deriving DecidableEq, Repr, Inhabited

/-- Fraction width F (R17). -/
def Fmt.frac : Fmt → Nat
  | .f32 => 23 | .bf16 => 7 | .f16 => 10 | .e4m3 => 3 | .e5m2 => 2

/-- Exponent width (R17). -/
def Fmt.ebits : Fmt → Nat
  | .f32 => 8 | .bf16 => 8 | .f16 => 5 | .e4m3 => 4 | .e5m2 => 5

/-- Bias (R17). -/
def Fmt.bias : Fmt → Nat
  | .f32 => 127 | .bf16 => 127 | .f16 => 15 | .e4m3 => 7 | .e5m2 => 15

/-- Width in bits (R17). -/
def Fmt.width (f : Fmt) : Nat := 1 + f.ebits + f.frac

/-- The pattern of the largest finite value, sign clear (R17): 448 is 0x7E in e4m3. -/
def Fmt.maxFinite (f : Fmt) : Nat :=
  match f with
  | .e4m3 => 0x7E
  | _ => (2 ^ f.ebits - 1) * 2 ^ f.frac - 1

/-- The pattern of +infinity; e4m3 has none and its entry is never used (R17). -/
def Fmt.infBits (f : Fmt) : Nat := (2 ^ f.ebits - 1) * 2 ^ f.frac

/-- The canonical NaN (R23); in e4m3 the sign of the source is kept. -/
def Fmt.nanBits (f : Fmt) (neg : Bool) : Nat :=
  match f with
  | .f32 => 0x7FC00000
  | .bf16 => 0x7FC0
  | .f16 => 0x7E00
  | .e4m3 => if neg then 0xFF else 0x7F
  | .e5m2 => 0x7E

/-- An exact value: `fin s m e` is (-1)^s * m * 2^e. -/
inductive Val where
  | nan (neg : Bool)
  | inf (neg : Bool)
  | fin (neg : Bool) (m : Nat) (e : Int)
  deriving DecidableEq, Repr, Inhabited

/-- The exact value of a pattern (R17). -/
def decode (f : Fmt) (bits : Nat) : Val :=
  let F := f.frac
  let fr := bits % 2 ^ F
  let ex := bits / 2 ^ F % 2 ^ f.ebits
  let s := bits / 2 ^ (F + f.ebits) % 2 == 1
  if ex = 2 ^ f.ebits - 1 ∧ (f ≠ .e4m3 ∨ fr = 7) then
    if f ≠ .e4m3 ∧ fr = 0 then .inf s else .nan s
  else if ex = 0 then .fin s fr (1 - (f.bias : Int) - F)
  else .fin s (2 ^ F + fr) ((ex : Int) - f.bias - F)

/-- Number of significant bits of `m`. -/
def bitLen (m : Nat) : Nat := if m = 0 then 0 else Nat.log2 m + 1

/-- The rounding modes of R21. -/
inductive Mode where
  | rne | rz | dn
  deriving DecidableEq, Repr

/-- `m * 2^e` (a little more when `sticky`) in units of `2^q`, rounded by the mode (R21). -/
def roundUnits (mode : Mode) (neg : Bool) (m : Nat) (e : Int) (sticky : Bool) (q : Int) : Nat :=
  if q ≤ e then m * 2 ^ (e - q).toNat
  else
    let sh := (q - e).toNat
    let u := m / 2 ^ sh
    let rem := m % 2 ^ sh
    let half := 2 ^ (sh - 1)
    let up : Bool := match mode with
      | .rne => half < rem || (rem == half && (sticky || u % 2 == 1))
      | .rz => false
      | .dn => neg && (rem != 0 || sticky)
    if up then u + 1 else u

/-- The overflow rules of R25. -/
inductive Overflow where
  | ieee | sat
  deriving DecidableEq, Repr

/-- Sign bit of the format, set when `neg`. -/
def signBits (f : Fmt) (neg : Bool) : Nat := if neg then 2 ^ (f.ebits + f.frac) else 0

/-- Round a finite magnitude to the format and apply its overflow rule (R21, R25). -/
def roundFin (f : Fmt) (ov : Overflow) (neg : Bool) (m : Nat) (e : Int) (sticky : Bool) : Nat :=
  if m = 0 then signBits f neg
  else
    let lowest : Int := 1 - (f.bias : Int) - f.frac
    let top : Int := (bitLen m : Int) - 1 + e
    let q : Int := max (top - f.frac) lowest
    let u := roundUnits .rne neg m e sticky q
    let mag := (q - lowest).toNat * 2 ^ f.frac + u
    if f.maxFinite < mag then
      signBits f neg + (match ov with | .ieee => f.infBits | .sat => f.maxFinite)
    else signBits f neg + mag

/-- round_rne(x, fmt) with the overflow rule named (R25, R47). -/
def round (f : Fmt) (ov : Overflow) : Val → Nat
  | .nan s => f.nanBits s
  | .inf s => signBits f s + (match ov with | .ieee => f.infBits | .sat => f.maxFinite)
  | .fin s m e => roundFin f ov s m e false

/-- Read an f32 (R20). -/
def ofF32 (x : Half) : Val := decode .f32 x.toNat

/-- Write an f32: RNE, IEEE overflow (R22). A NaN is canonical (R23). -/
def toF32 (v : Val) : Half := BitVec.ofNat 32 (round .f32 .ieee v)

/-- The canonical f32 NaN (R23). -/
def nan32 : Half := 0x7FC00000#32

def Val.isNan : Val → Bool
  | .nan _ => true
  | _ => false

def Val.neg? : Val → Bool
  | .nan s => s | .inf s => s | .fin s _ _ => s

def Val.flip : Val → Val
  | .nan s => .nan s
  | .inf s => .inf (!s)
  | .fin s m e => .fin (!s) m e

/-- The signed integer `±m * 2^(e-q)` for `q ≤ e`. -/
def signedUnits (s : Bool) (m : Nat) (e q : Int) : Int :=
  let a : Int := m * 2 ^ (e - q).toNat
  if s then -a else a

/-- Exact sum (R22): x + (-x) is +0, and a sum of zeros is -0 only when both are. -/
def addV : Val → Val → Val
  | .nan _, _ => .nan false
  | _, .nan _ => .nan false
  | .inf s, .inf t => if s = t then .inf s else .nan false
  | .inf s, .fin _ _ _ => .inf s
  | .fin _ _ _, .inf t => .inf t
  | .fin s m e, .fin t n k =>
    if m = 0 ∧ n = 0 then .fin (s && t) 0 e
    else
      let q := min e k
      let z := signedUnits s m e q + signedUnits t n k q
      if z = 0 then .fin false 0 q else .fin (z < 0) z.natAbs q

/-- Exact product (R22). -/
def mulV : Val → Val → Val
  | .nan _, _ => .nan false
  | _, .nan _ => .nan false
  | .inf s, .inf t => .inf (s ^^ t)
  | .inf s, .fin t n _ => if n = 0 then .nan false else .inf (s ^^ t)
  | .fin s m _, .inf t => if m = 0 then .nan false else .inf (s ^^ t)
  | .fin s m e, .fin t n k => .fin (s ^^ t) (m * n) (e + k)

def fadd (a b : Half) : Half := toF32 (addV (ofF32 a) (ofF32 b))
def fsub (a b : Half) : Half := toF32 (addV (ofF32 a) (ofF32 b).flip)
def fmul (a b : Half) : Half := toF32 (mulV (ofF32 a) (ofF32 b))

/-- a * b + d, one rounding (R22). -/
def fma (a b d : Half) : Half := toF32 (addV (mulV (ofF32 a) (ofF32 b)) (ofF32 d))

/-- Quotient of magnitudes with 64 more bits than the divisor and a sticky bit. -/
def divMag (m : Nat) (e : Int) (n : Nat) (k : Int) : Nat × Int × Bool :=
  let sh := 64 + bitLen n
  (m * 2 ^ sh / n, e - k - sh, m * 2 ^ sh % n != 0)

/-- a ÷ b (R22). -/
def fdivV : Val → Val → Half
  | .nan _, _ => nan32
  | _, .nan _ => nan32
  | .inf _, .inf _ => nan32
  | .inf s, .fin t _ _ => toF32 (.inf (s ^^ t))
  | .fin s _ _, .inf t => toF32 (.fin (s ^^ t) 0 0)
  | .fin s m e, .fin t n k =>
    if n = 0 then (if m = 0 then nan32 else toF32 (.inf (s ^^ t)))
    else
      let r := divMag m e n k
      BitVec.ofNat 32 (roundFin .f32 .ieee (s ^^ t) r.1 r.2.1 r.2.2)

def fdiv (a b : Half) : Half := fdivV (ofF32 a) (ofF32 b)

/-- The total order of non-NaN f32 patterns with -0 below +0 (R24), as an integer key. -/
def orderKey (x : Half) : Int :=
  let m : Int := (x.toNat % 2 ^ 31 : Nat)
  if x.getLsbD 31 then -m - 1 else m

def fmax (a b : Half) : Half :=
  if (ofF32 a).isNan || (ofF32 b).isNan then nan32 else if orderKey a < orderKey b then b else a

def fmin (a b : Half) : Half :=
  if (ofF32 a).isNan || (ofF32 b).isNan then nan32 else if orderKey b < orderKey a then b else a

/-- A value as a result: a NaN is canonical, any other value is unchanged (R23). -/
def quiet (a : Half) : Half := if (ofF32 a).isNan then nan32 else a

/-- NaN: canonical; else bit 31 cleared (R23). -/
def fabs (a : Half) : Half := if (ofF32 a).isNan then nan32 else a &&& 0x7FFFFFFF#32

/-- NaN: canonical; else bit 31 inverted (R23). -/
def fneg (a : Half) : Half := if (ofF32 a).isNan then nan32 else a ^^^ 0x80000000#32

/-- An f32 compared as a number: zeros of both signs are equal (R100). -/
def cmpKey (x : Half) : Int :=
  let m : Int := (x.toNat % 2 ^ 31 : Nat)
  if x.getLsbD 31 then -m else m

def unordered (a b : Half) : Bool := (ofF32 a).isNan || (ofF32 b).isNan
def feq (a b : Half) : Bool := !unordered a b && cmpKey a == cmpKey b
def flt (a b : Half) : Bool := !unordered a b && decide (cmpKey a < cmpKey b)
def fle (a b : Half) : Bool := !unordered a b && decide (cmpKey a ≤ cmpKey b)

/-- Newton's descent to the integer square root from a start at or above it. -/
def isqrtFrom (n : Nat) : Nat → Nat → Nat
  | 0, g => g
  | fuel + 1, g =>
    let h := (g + n / g) / 2
    if h < g then isqrtFrom n fuel h else g

/-- floor(sqrt n). -/
def isqrt (n : Nat) : Nat := if n = 0 then 0 else isqrtFrom n (n.log2 + 2) (2 ^ (n.log2 / 2 + 1))

/-- Square root (R31). -/
def fsqrtV : Val → Half
  | .nan _ => nan32
  | .inf s => if s then nan32 else toF32 (.inf false)
  | .fin s m e =>
    if m = 0 then toF32 (.fin s 0 0)
    else if s then nan32
    else
      let sh : Nat := if e % 2 = 0 then 64 else 65
      let n := m * 2 ^ sh
      let r := isqrt n
      BitVec.ofNat 32 (roundFin .f32 .ieee false r ((e - sh) / 2) (r * r != n))

def fsqrt (a : Half) : Half := fsqrtV (ofF32 a)

/-- Reciprocal (R31). -/
def frcp (a : Half) : Half := fdivV (.fin false 1 0) (ofF32 a)

/-- Reciprocal square root (R31). -/
def frsqrtV : Val → Half
  | .nan _ => nan32
  | .inf s => if s then nan32 else toF32 (.fin false 0 0)
  | .fin s m e =>
    if m = 0 then toF32 (.inf s)
    else if s then nan32
    else
      let m' := if e % 2 = 0 then m else 2 * m
      let e' := if e % 2 = 0 then e else e - 1
      let k := 64 + bitLen m'
      let r := isqrt (2 ^ (2 * k) / m')
      BitVec.ofNat 32 (roundFin .f32 .ieee false r (-(e' / 2) - k) (m' * r * r != 2 ^ (2 * k)))

def frsqrt (a : Half) : Half := frsqrtV (ofF32 a)

/-- Bounds of 2^(0.b1 b2 ...) in units of 2^-P: `lo`, `hi` hold the product so far, `rl`, `rh` the root 2^(2^-i). -/
def exp2Bits (P : Nat) : List Bool → Nat → Nat → Nat → Nat → Nat × Nat
  | [], _, _, lo, hi => (lo, hi)
  | b :: bs, rl, rh, lo, hi =>
    let rl := isqrt (rl * 2 ^ P)
    let rh := isqrt (rh * 2 ^ P) + 1
    if b then exp2Bits P bs rl rh (lo * rl / 2 ^ P) (hi * rh / 2 ^ P + 1)
    else exp2Bits P bs rl rh lo hi

/-- The `t` fraction bits of `fr / 2^t`, highest first. -/
def fracBits (fr : Nat) : Nat → List Bool
  | 0 => []
  | t + 1 => fr.testBit t :: fracBits fr t

/-- Round both ends of an interval `[lo, hi] * 2^e` (signed); `some` when they agree, so that every value
between rounds to the same pattern. -/
def agree (lo hi : Int) (e : Int) : Option Half :=
  let r (z : Int) : Half := BitVec.ofNat 32 (roundFin .f32 .ieee (decide (z < 0)) z.natAbs e false)
  if r lo = r hi then some (r lo) else none

/-- Try working precisions in turn until the interval decides the rounding (R31: one rounding of the exact value). -/
def refine (lo : Nat → Half) (f : Nat → Option Half) : List Nat → Half
  | [] => nan32
  | [p] => (f p).getD (lo p)
  | p :: ps => match f p with
    | some r => r
    | none => refine lo f ps

/-- 2^(n + fr/2^t) between bounds of P bits. -/
def exp2At (n : Int) (fr t P : Nat) : Int × Int × Int :=
  let b := exp2Bits P (fracBits fr t) (2 * 2 ^ P) (2 * 2 ^ P) (2 ^ P) (2 ^ P)
  (b.1, b.2, n - P)

/-- 2^x, correctly rounded (R31). An integer x is exact; any other dyadic x gives an irrational value, which is
never a tie, so the interval decides it. -/
def fexp2V : Val → Half
  | .nan _ => nan32
  | .inf s => if s then 0#32 else toF32 (.inf false)
  | .fin s m e =>
    if m = 0 then toF32 (.fin false 1 0)
    else if (bitLen m : Int) + e > 9 then (if s then 0#32 else toF32 (.inf false))
    else
      let t := (-e).toNat
      let z : Int := let a : Int := m * 2 ^ e.toNat; if s then -a else a
      let n := z / 2 ^ t
      let fr := (z % 2 ^ t).toNat
      if fr = 0 then toF32 (.fin false 1 n)
      else
        let at' := exp2At n fr t
        refine (fun P => let b := at' P; BitVec.ofNat 32 (roundFin .f32 .ieee false b.1.natAbs b.2.2 true))
          (fun P => let b := at' P; agree b.1 b.2.1 b.2.2) [128, 256, 512, 1024]

def fexp2 (a : Half) : Half := fexp2V (ofF32 a)

/-- The bits of log2 of a number in [1,2) held between `lo` and `hi` (units of 2^-P), by squaring; stops where the
two ends differ. Answers the bits found and how many. -/
def log2Bits (P : Nat) : Nat → Nat → Nat → Nat → Nat → Nat × Nat
  | 0, _, _, acc, i => (acc, i)
  | fuel + 1, lo, hi, acc, i =>
    let lo := lo * lo / 2 ^ P
    let hi := hi * hi / 2 ^ P + 1
    if 2 * 2 ^ P ≤ lo then log2Bits P fuel (lo / 2) (hi / 2 + 1) (2 * acc + 1) (i + 1)
    else if hi < 2 * 2 ^ P then log2Bits P fuel lo hi (2 * acc) (i + 1)
    else (acc, i)

/-- E + log2(m / 2^k) between two multiples of 2^-i. -/
def log2At (E : Int) (m k P : Nat) : Int × Int × Int :=
  let y := m * 2 ^ P / 2 ^ k
  let b := log2Bits P (P / 2) y (y + 1) 0 0
  let lo := E * 2 ^ b.2 + b.1
  (lo, lo + 1, -(b.2 : Int))

/-- log2 x, correctly rounded (R31). A power of two is exact; any other value is irrational. -/
def flog2V : Val → Half
  | .nan _ => nan32
  | .inf s => if s then nan32 else toF32 (.inf false)
  | .fin s m e =>
    if m = 0 then toF32 (.inf true)
    else if s then nan32
    else
      let k := bitLen m - 1
      let E := e + k
      if m = 2 ^ k then toF32 (.fin (E < 0) E.natAbs 0)
      else
        let at' := log2At E m k
        refine (fun P => let b := at' P; BitVec.ofNat 32 (roundFin .f32 .ieee (decide (b.1 < 0)) b.1.natAbs b.2.2 true))
          (fun P => let b := at' P; agree b.1 b.2.1 b.2.2) [256, 512, 1024, 2048]

def flog2 (a : Half) : Half := flog2V (ofF32 a)

/-- f32 to an integer of `N` bits: rounded by the mode, saturated; NaN gives 0 (R26). -/
def toInt (mode : Mode) (N : Nat) : Val → BitVec N
  | .nan _ => 0
  | .inf s => if s then BitVec.intMin N else BitVec.intMax N
  | .fin s m e =>
    let u := roundUnits mode s m e false 0
    if s then (if u ≤ 2 ^ (N - 1) then BitVec.ofInt N (-(u : Int)) else BitVec.intMin N)
    else (if u < 2 ^ (N - 1) then BitVec.ofNat N u else BitVec.intMax N)

/-- A signed integer to f32 with RNE (R26). -/
def ofInt (z : Int) : Half := toF32 (.fin (z < 0) z.natAbs 0)

/-- Widen a pattern of a narrow format to f32: exact, NaN canonical, infinity keeps its sign (R20). -/
def widen (f : Fmt) (bits : Nat) : Half := toF32 (decode f bits)

/-- Narrow an f32 pattern (R25). -/
def narrow (f : Fmt) (ov : Overflow) (x : Half) : Nat := round f ov (ofF32 x)

/-- The overflow rule that R25 gives a destination of stores and matrix output. -/
def Fmt.ov : Fmt → Overflow
  | .e4m3 => .sat
  | .e5m2 => .sat
  | _ => .ieee

/-- floor(log2 |t|) of a nonzero finite term. -/
def Val.exponent : Val → Int
  | .fin _ m e => (bitLen m : Int) - 1 + e
  | _ => 0

def Val.nonzero : Val → Bool
  | .fin _ m _ => m != 0
  | _ => true

/-- sign(t) * floor(|t| / 2^q). -/
def Val.granules (q : Int) : Val → Int
  | .fin s m e =>
    let a : Nat := if q ≤ e then m * 2 ^ (e - q).toNat else m / 2 ^ (q - e).toNat
    if s then -(a : Int) else a
  | _ => 0

def maxExp : List Val → Int → Int
  | [], e => e
  | t :: ts, e => maxExp ts (max e t.exponent)

/-- The windowed group sum (R28). -/
def windowSum (terms : List Val) : Half :=
  if terms.any Val.isNan then nan32
  else
    let infs := terms.filter (fun t => match t with | .inf _ => true | _ => false)
    match infs with
    | .inf s :: rest => if rest.all (fun t => t.neg? == s) then toF32 (.inf s) else nan32
    | _ =>
      match terms.filter Val.nonzero with
      | [] => if terms.all Val.neg? then toF32 (.fin true 0 0) else 0#32
      | t :: ts =>
        let q : Int := maxExp ts t.exponent - 60
        let s : Int := (t :: ts).foldl (fun a x => a + x.granules q) 0
        if s = 0 then 0#32 else toF32 (.fin (s < 0) s.natAbs q)

end Sys2Proof.Num
end

