-- ==== Sys2Proof/Machine/Admission.lean ====
section
/-! DEFINITION. Slots, kennels, lent slots and hold lists: how a context enters and leaves a tile (R69 to R78, R145,
R146). -/

namespace Sys2Proof.Machine
open Sys2Proof

/-! ## Claims and pins -/

/-- The core of a tile whose vector unit a strand holds (R155). -/
def State.vclaimCore (s : State) (t u : Nat) : Option Nat :=
  (List.range 4).find? (fun c => (s.vunit t c).holder == some u)
/-- The strand holds the tile's matrix claim (R204). -/
def State.mclaims (s : State) (t u : Nat) : Bool := (s.matrix t).holder == some u
/-- The strand holds a vector or matrix claim. -/
def State.claims (s : State) (t u : Nat) : Bool := (s.vclaimCore t u).isSome || s.mclaims t u
/-- A pinned strand (R83, R273). -/
def State.pinned (s : State) (u : Nat) (x : Strand) : Bool :=
  x.ctx.xpin || x.ctx.rpin || x.ctx.sup || s.claims x.tile u

/-! ## Entering a slot -/

def State.kennelFree (s : State) (t c : Nat) : Bool :=
  let k := s.core t c
  k.kennel.length + k.kres < (s.regs t).kdepth
def State.lentFree (s : State) (t c : Nat) : Bool :=
  let k := s.core t c
  k.lent.length + k.lres < (s.regs t).klend

/-- The slot that a request for admission gets: the core, and whether it is a lent slot (R69, R74, R155). A supervisor
context that travels to park on another tile's word takes a kennel slot of that tile's supervisor core; where there is
none it is refused (DESIGN CHOICE, log entry 64). -/
def State.findSlot (s : State) (t u : Nat) (x : Strand) : Option (Nat × Bool) :=
  if x.ctx.sup then
    if Config.hasSupervisor t && s.kennelFree t 0 then some (0, false) else none
  else
    let cores := match s.vclaimCore t u with
      | some c => [c]
      | none => Config.userCores t
    match cores.find? (fun c => s.kennelFree t c) with
    | some c => some (c, false)
    | none => (cores.find? (fun c => s.lentFree t c)).map (fun c => (c, true))

/-- Ask whether a free barrel slot takes an entry of the tile, at a cycle (R75). -/
def State.offer (s : State) (t due : Nat) : State := s.schedule due 0 (.kennelToBarrel t)

/-- The lowest number from `n` on that is not in use. -/
def lowestFree (used : List Nat) : Nat → Nat → Nat
  | 0, n => n
  | fuel + 1, n => if used.contains n then lowestFree used fuel (n + 1) else n

/-- The areas of the tile's pool that its cores' lent entries use, by strand. -/
def State.lentAreas (s : State) (t : Nat) : SMap Nat :=
  (List.range (Config.coresOf t)).flatMap (fun c => (s.core t c).lslot)

/-- The first byte of an area of a tile's pool: 256 bytes in the top 4 MiB of its memory (R77). -/
def lentCell (t i : Nat) : Nat := cellNo t false (Config.memSize t - Config.poolSize + 256 * i)

/-- The 256 bytes of a context (R66). -/
def Ctx.bytes (c : Ctx) : List Byte := (c.words c.hleft).flatMap (bytesOf 8)

/-- A context is written into the lowest free area of the tile's pool, through the tile's cache (R77). -/
def State.writeLent (s : State) (t c u : Nat) : State :=
  let used := (s.lentAreas t).map (·.2)
  let i := lowestFree used used.length 0
  let bs := ((s.strand u).map (·.ctx.bytes)).getD []
  (List.range 4).foldl (fun s j => (s.performWrite (lentCell t i + 64 * j) (placed ((bs.drop (64 * j)).take 64))).2.2)
    (s.onCore t c (fun k => { k with lslot := SMap.put k.lslot u i }))

/-- A context takes an entry of a core, complete at a cycle (R75, R76). -/
def State.enter (s : State) (t c : Nat) (lent : Bool) (u complete : Nat) : State :=
  let s := s.onCore t c (fun k =>
    if lent then { k with lent := k.lent ++ [u] } else { k with kennel := k.kennel ++ [u] })
  let due := s.now + (s.regs t).agestep
  let s := s.onStrand u (fun x =>
    { x with tile := t, place := if lent then .lent t c else .kennel t c, complete := complete, since := s.now,
             ecls := x.ctx.cls.toNat, tick := due })
  let s := s.schedule due 0 (.classAgeTick u due)
  if lent then s.writeLent t c u else s.offer t (complete + 4)

/-- A strand that single-steps under its tile's `dbgctl` (R271). -/
def State.steps (s : State) (x : Strand) : Bool :=
  let d := (s.regs x.tile).dbgctl
  d.getLsbD 63 && !x.ctx.sup &&
    ((x.ctx.lin ^^^ d.extractLsb' 0 16) &&& d.extractLsb' 16 16 == 0)

/-- A landing slot of a tile frees: a read that waits for one may issue (R181, R183). -/
def State.freeLanding (s : State) (t : Nat) : State :=
  (s.onFetch t (fun e => { e with landing := e.landing - 1 })).schedule s.now 1 (.fetchReadIssue t)

/-- The parent, channel or queue of the birth `u` keeps it no longer (R78, R127, R181). -/
def State.settleBirth (s : State) (u : Nat) : Birth → State
  | .spawn p => s.onStrand p (fun y => if y.child == some u then { y with child := none } else y)
  | .handler t _ _ => s.freeLanding t
  | .stepped t => s.freeLanding t
  | .launch p q d => (s.onPart p (fun y =>
      { y with queues := y.queues.setIfInBounds q ((y.queues[q]?.getD []).eraseP (fun l => Config.dieOf l.t0 == d)) })).schedule
      (s.now + 1) 1 (.launchDispatch p)
  | _ => s

/-- A birth is admitted and its source learns of it. A handler that single-steps keeps its landing slot until it retires
(R181, R272). -/
def State.born (s : State) (u : Nat) : State :=
  match s.strand u with
  | none => s
  | some x =>
    let stays : Option Nat := match x.birth with
      | .handler t _ _ => if s.steps x then some t else none
      | _ => none
    let s := s.onStrand u (fun x =>
      { x with birth := match stays with | some t => .stepped t | none => .none,
               run := .ready, packet := none, asked := false })
    if stays.isSome then s else s.settleBirth u x.birth

/-! ## The hold list (R78) -/

/-- The list's order: higher age, then lower origin tile, then lower sid. -/
def HoldEntry.before (a b : HoldEntry) : Bool :=
  if a.age = b.age then
    if a.origin = b.origin then a.sid.toNat < b.sid.toNat else a.origin < b.origin
  else b.age < a.age

def insertHold (e : HoldEntry) : List HoldEntry → List HoldEntry
  | [] => [e]
  | x :: xs => if e.before x then e :: x :: xs else x :: insertHold e xs

def sortHold : List HoldEntry → List HoldEntry
  | [] => []
  | x :: xs => insertHold x (sortHold xs)

/-- A request that a slot of core `c` can serve (R11, R69, R155). -/
def State.fits (s : State) (t c : Nat) (lent : Bool) (e : HoldEntry) : Bool :=
  match s.strand e.uid with
  | none => false
  | some x =>
    if x.ctx.sup then Config.hasSupervisor t && c == 0 && !lent
    else (Config.userCores t).contains c &&
      (match s.vclaimCore t e.uid with | some k => k == c | none => true)

/-- A slot that frees and that nothing else takes is reserved for the head of the hold list: a local birth takes it at
once, another origin is called (R78). -/
def State.reserve (s : State) (t c : Nat) (lent : Bool) : State :=
  match ((sortHold (s.tile t).hold).filter (fun e => s.fits t c lent e)).head? with
  | none => s
  | some e =>
    let s := s.onTile t (fun x => { x with hold := x.hold.filter (fun y => y.uid != e.uid) })
    if e.local_ then (s.enter t c lent e.uid s.now).born e.uid
    else
      let s := s.onCore t c (fun k => if lent then { k with lres := k.lres + 1 } else { k with kres := k.kres + 1 })
      let s := s.onTile t (fun x => { x with calls := x.calls ++ [(e.uid, c, lent)] })
      s.send t e.origin (.call e.uid e.origin)

/-- A refused request is listed, or evicts the last entry, or is told that it is not listed (R78). A local birth that is
told so asks again with the age it had on the list raised by 1; a packet is sent again with the age it carried raised by 1
(DESIGN CHOICE, log entry 58). -/
def State.list (s : State) (t : Nat) (e : HoldEntry) : State :=
  let tellOut (s : State) (o : HoldEntry) : State :=
    if o.local_ then
      (s.onStrand o.uid (fun x => { x with age := min (o.age + 1) 255 })).schedule (s.now + 1024) 1
        (.refusalResendTimeout o.uid t)
    else s.send t o.origin (.refused o.uid o.origin false false)
  let accept (s : State) : State :=
    let s := s.onTile t (fun x => { x with hold := x.hold ++ [e] })
    let s := s.schedule (s.now + 256) 0 (.holdAgeTick t e.uid s.now)
    if e.local_ then s else s.send t e.origin (.refused e.uid e.origin true false)
  let h := (s.tile t).hold
  if h.length < 64 then accept s
  else match (sortHold h).getLast? with
    | none => accept s
    | some y =>
      if e.before y then
        let s := s.onTile t (fun x => { x with hold := x.hold.filter (fun z => z.uid != y.uid) })
        accept (tellOut s y)
      else tellOut s e

/-! ## Leaving a slot -/

/-- A barrel slot is free from cycle `at_` on; a context moves into one in 4 cycles (R73, R75). -/
def State.slotFreesAt (s : State) (t c n at_ : Nat) : State :=
  let s := s.onCore t c (fun k =>
    { k with slots := SMap.erase k.slots n, freeAt := SMap.put k.freeAt n at_ })
  s.offer t (at_ + 4)

/-- A barrel slot frees in the cycle after the strand's last issue there (R73). -/
def State.slotFrees (s : State) (t c n : Nat) : State := s.slotFreesAt t c n (s.now + 1)

/-- A move from a lent slot into the kennel reads the context through the tile's cache: its cycles when every sector
hits, and when one does not (R77). -/
def State.lendTime (s : State) (t u : Nat) : Nat × State :=
  let k := lentCell t (SMap.getD (s.lentAreas t) u 0)
  let r := (List.range 4).foldl (fun (a : Bool × State) j =>
    let x := a.2.touch (k + 64 * j) false
    (a.1 && x.1 == Config.hitTime, x.2)) (true, s)
  (if r.1 then 20 else if Config.isM t then 96 else 166, r.2)

/-- Higher effective class, then earlier admission (R75, R77). -/
def State.better (s : State) (a b : Nat) : Bool :=
  match s.strand a, s.strand b with
  | some x, some y => if x.ecls = y.ecls then x.since < y.since else y.ecls < x.ecls
  | _, _ => false

/-- The best of a list of strands, the first among equals. -/
def State.best (s : State) : List Nat → Option Nat
  | [] => none
  | u :: us => match s.best us with
    | none => some u
    | some v => if s.better v u then some v else some u

/-- A context that waited in its barrel slot takes an entry; its barrel slot frees in the same cycle (R145). -/
def State.enterFromSlot (s : State) (t c : Nat) (lent : Bool) (u : Nat) : State :=
  match s.strand u with
  | some x => match x.place with
    | .slot _ k n => (s.slotFreesAt t k n s.now).enter t c lent u s.now
    | _ => s
  | none => s

/-- A context that has begun to wait in this cycle takes its slot in the next (R145). -/
def State.seatDue (s : State) (t c u : Nat) : Bool := s.agenda.any (fun e => e.ev == .seat t c u)

/-- A kennel slot of a core has freed: lent entries first, then contexts that wait in a barrel slot, then the hold
list (R77, R78, R145, R146). It stays free for one that has begun to wait in this cycle. -/
def State.kennelFreed (s : State) (t c : Nat) : State :=
  let k := s.core t c
  let movable := k.lent.filter (fun u => !(k.moving.contains u) &&
    (match s.strand u with | some x => x.place == .lent t c | none => false))
  if !(s.kennelFree t c) then s
  else match s.best movable with
    | some u =>
      let d := s.lendTime t u
      let s := d.2.onCore t c (fun k => { k with kres := k.kres + 1, moving := k.moving ++ [u] })
      s.schedule (s.now + d.1) 0 (.lentMoveDone t c u)
    | none => match k.inSlot with
      | u :: rest =>
        if s.seatDue t c u then s else (s.onCore t c (fun k => { k with inSlot := rest })).enterFromSlot t c false u
      | [] => s.reserve t c false

/-- A lent slot of a core has freed (R78, R145). -/
def State.lentFreed (s : State) (t c : Nat) : State :=
  if !(s.lentFree t c) then s
  else match (s.core t c).inSlot with
    | u :: rest =>
      if s.seatDue t c u then s else (s.onCore t c (fun k => { k with inSlot := rest })).enterFromSlot t c true u
    | [] => s.reserve t c true

def State.leaveKennel (s : State) (t c u : Nat) : State :=
  (s.onCore t c (fun k => { k with kennel := k.kennel.filter (· != u) })).kennelFreed t c
def State.leaveLent (s : State) (t c u : Nat) : State :=
  (s.onCore t c (fun k => { k with lent := k.lent.filter (· != u), lslot := SMap.erase k.lslot u, moving := k.moving.filter (· != u) })).lentFreed t c

/-- A context leaves whatever slot it stands in. -/
def State.leave (s : State) (u : Nat) : State :=
  match s.strand u with
  | none => s
  | some x => match x.place with
    | .slot t c n =>
      (s.onCore t c (fun k => { k with inSlot := k.inSlot.filter (· != u) })).slotFrees t c n
    | .kennel t c => s.leaveKennel t c u
    | .lent t c => s.leaveLent t c u
    | _ => s

/-- The destination has answered: what the context still occupied at the tile it came from frees in this cycle (R70,
R73). -/
def State.freeGhost (s : State) (t u : Nat) : State :=
  let place := (s.strand u).map (·.place)
  (List.range (Config.coresOf t)).foldl (fun s c =>
    let k := s.core t c
    let s := match List.find? (fun e => e.2 == u) k.slots with
      | some e => if place == some (.slot t c e.1) then s else s.slotFreesAt t c e.1 s.now
      | none => s
    let s := if k.kennel.contains u && place != some (.kennel t c) then s.leaveKennel t c u else s
    if k.lent.contains u && place != some (.lent t c) then s.leaveLent t c u else s) s

/-! ## Waiting and waking -/

/-- A strand becomes ready where it stands, from a cycle on (R70, R71, R75). -/
def State.makeReadyAt (s : State) (u c : Nat) : State :=
  match s.strand u with
  | none => s
  | some x =>
    let s := s.onStrand u (fun x => { x with run := .ready, complete := max x.complete c, nextAt := max x.nextAt c })
    match x.place with
    | .slot t c _ => s.onCore t c (fun k => { k with inSlot := k.inSlot.filter (· != u) })
    | .kennel t _ => s.offer t (max x.complete c + 4)
    | _ => s

/-- A strand becomes ready in this cycle. -/
def State.makeReady (s : State) (u : Nat) : State := s.makeReadyAt u s.now

/-- A strand that waits, or that waited and is ready again, takes the entry that it has given its barrel slot up for: a
kennel slot of its core, else a lent slot; a waiting strand that finds neither stays and moves later (R145). What was kept
free for it and it does not take serves others. -/
def State.takeSeat (s : State) (t c u : Nat) : State :=
  match s.strand u with
  | none => s
  | some x => match x.place with
    | .slot t' c' n =>
      let s1 := s.onCore t c (fun k => { k with inSlot := k.inSlot.filter (· != u) })
      if t' ≠ t ∨ c' ≠ c then s
      else if s.kennelFree t c then (((s1.slotFreesAt t c n s.now).enter t c false u s.now).kennelFreed t c).lentFreed t c
      else if !x.ctx.sup && s.lentFree t c then ((s1.slotFreesAt t c n s.now).enter t c true u s.now).lentFreed t c
      else s
    | _ => s

/-- A resident strand gives up its barrel slot to wait: from the next cycle, before anything else of it, its context occupies
an entry of its core, and its barrel slot is free; a slot that frees until then is kept for it (R145). -/
def State.giveUpSlot (s : State) (u : Nat) : State :=
  match s.strand u with
  | none => s
  | some x => match x.place with
    | .slot t c _ =>
      let s := s.onCore t c (fun k => { k with inSlot := k.inSlot ++ [u] })
      { s with agenda := insertEntry ⟨s.now + 1, 0, 0, s.seq, .seat t c u⟩ s.agenda, seq := s.seq + 1 }
    | _ => s

/-- A strand begins to wait, not ready (R70). -/
def State.waitFor (s : State) (u : Nat) (w : Wait) : State :=
  (s.onStrand u (fun x => { x with run := .waiting w })).giveUpSlot u

/-- A handler strand is gone: its command may reach its completion point (R182). -/
def State.handlerEnds (s : State) (x : Strand) : State :=
  let s := match x.birth with
    | .stepped t => s.freeLanding t
    | _ => s
  match x.handler with
  | none => s
  | some (t, ch, id) =>
    (s.onChan t ch (fun c => { c with cmds := c.cmds.map (fun k =>
      if k.id == id then { k with handlers := k.handlers - 1 } else k) })).schedule s.now 1 (.fetchCompletionPoint t ch)

/-- A birth asks its own tile for a slot; refused, it is listed, with age 0 at first, and its source keeps it (R74, R78). -/
def State.askBirth (s : State) (t u : Nat) : State :=
  match s.strand u with
  | none => s
  | some x =>
    if (s.tile t).filters.any (fun f => f.hits x.ctx.lin x.ctx.sup) then
      State.handlerEnds { s.settleBirth u x.birth with strands := SMap.erase (s.settleBirth u x.birth).strands u } x
    else if (s.tile t).halted then s.onStrand u (fun x => { x with asked := true })
    else match s.findSlot t u x with
      | some (c, lent) => (s.enter t c lent u s.now).born u
      | none => (s.onStrand u (fun x => { x with asked := true })).list t ⟨u, t, x.ctx.sid, x.age, true, s.now⟩

/-- The free barrel slot of lowest number of a core that has been free for the four cycles of a move (R75, R146): which slot
is the lowest free one is judged at the entry, four cycles after the move began, among those that were free all that time
(DESIGN CHOICE, log entry 87). -/
def State.freeSlot (s : State) (t c : Nat) : Option Nat :=
  let k := s.core t c
  (List.range 16).find? (fun n => (SMap.find? k.slots n).isNone && SMap.getD k.freeAt n 0 ≤ s.now - 4 &&
    (SMap.getD k.freeAt n 0 == 0 || SMap.getD k.freeAt n 0 + 4 ≤ s.now))

/-- Ready entries of a kennel whose context has been complete for four cycles. -/
def State.candidates (s : State) (t c : Nat) (away : Bool) : List Nat :=
  (s.core t c).kennel.filter (fun u => match s.strand u with
    | none => false
    | some x => x.place == .kennel t c && x.run == .ready && decide (x.complete + 4 ≤ s.now) && x.marked.isNone &&
        (!away || !(s.claims t u)) &&
        (x.ctx.sup || !((s.tile t).halted)))

/-- The entry that core `c` takes: the best of its own kennel, else of the other user kennels (R75). -/
def State.chooseEntry (s : State) (t c : Nat) : Option Nat :=
  match s.best (s.candidates t c false) with
  | some u => some u
  | none =>
    if (Config.userCores t).contains c then
      s.best (((Config.userCores t).filter (· != c)).flatMap (fun k => s.candidates t k true))
    else none

/-- A kennel entry enters a barrel slot; its kennel slot frees (R75, R146). -/
def State.intoSlot (s : State) (t c n u : Nat) : State :=
  match s.strand u with
  | none => s
  | some x =>
    let s := s.onCore t c (fun k => { k with slots := SMap.put k.slots n u })
    let s := s.onStrand u (fun x => { x with place := .slot t c n, nextAt := s.now, ecls := x.ctx.cls.toNat })
    match x.place with
    | .kennel _ k => s.leaveKennel t k u
    | _ => s

/-- Fill free barrel slots of a core while entries are ready. -/
def State.fillCore (s : State) (t c : Nat) : Nat → State
  | 0 => s
  | fuel + 1 => match s.freeSlot t c, s.chooseEntry t c with
    | some n, some u => (s.intoSlot t c n u).fillCore t c fuel
    | _, _ => s

/-- Every free barrel slot of the tile takes the best ready kennel entry (R75). Where slots of two cores are free and one
entry is ready, the lower core takes it, be it of another core: DESIGN CHOICE (log entry 57). -/
def State.fillSlots (s : State) (t : Nat) : State :=
  (List.range (Config.coresOf t)).foldl (fun s c => s.fillCore t c 16) s

/-- A strand is gone, and its slot frees. A claim that it still holds stays held in its name, whatever has ended it: `done` and
`join` ask that it holds none, a cancellation and a restart release its claims themselves, and for a holder whose context is
lost the manual says nothing (R89, R155; DESIGN CHOICE, log entry 88). -/
def State.remove (s : State) (u : Nat) : State :=
  let s := s.leave u
  { s with strands := SMap.erase s.strands u }

/-- Some strands' entries of a tile's watch table and hold list go, and slots that calls reserved for them are free again. -/
def State.forget (s : State) (t : Nat) (mine : Nat → Bool) : State :=
  let s := s.onTile t (fun x =>
    { x with watch := x.watch.filter (fun w => !(mine w.uid)), hold := x.hold.filter (fun h => !(mine h.uid)) })
  ((s.tile t).calls.filter (fun c => mine c.1)).foldl (fun s c =>
    let s := s.onTile t (fun x => { x with calls := x.calls.filter (fun y => y.1 != c.1) })
    if c.2.2 then (s.onCore t c.2.1 (fun k => { k with lres := k.lres - 1 })).lentFreed t c.2.1
    else (s.onCore t c.2.1 (fun k => { k with kres := k.kres - 1 })).kennelFreed t c.2.1) s

end Sys2Proof.Machine
end

