-- ==== Sys2Proof/Machine/Operands.lean ====
section
/-! DEFINITION. Operand forms: general registers and predicates through their fields, the guard, immediates,
addresses, and the scoreboard's and poison's view of a register (R34 to R37, R72, R116). -/

namespace Sys2Proof.Machine
open Sys2Proof

/-- reg(f): the value read through a register field (R37, R47). -/
def Strand.reg (x : Strand) (r : Reg) : Word :=
  if r.toNat < 24 then x.ctx.g[r.toNat]?.getD 0
  else if r = 25 then toWord x.ctx.sid
  else if r = 26 then BitVec.ofNat 64 x.tile
  else if r = 27 then toWord x.ctx.lin
  else 0

/-- setreg(f, v): a write to zr is discarded; a write takes the register's poison away (R37, R47, R116). -/
def Strand.setReg (x : Strand) (r : Reg) (v : Word) : Strand :=
  if r.toNat < 24 then
    { x with ctx := { x.ctx with g := x.ctx.g.setIfInBounds r.toNat v }, poison := SMap.erase x.poison r.toNat }
  else x

/-- pred(i): p0 reads 1 (R37). -/
def Ctx.getPred (c : Ctx) (p : Pred) : Bool := p == 0 || c.pred.getLsbD p.toNat

/-- setpred(i, b): a write to p0 is discarded (R37). -/
def Ctx.setPred (c : Ctx) (p : Pred) (b : Bool) : Ctx :=
  if p = 0 then c
  else
    let m : BitVec 16 := 1#16 <<< p.toNat
    { c with pred := if b then c.pred ||| m else c.pred &&& ~~~m }

def Strand.setPred (x : Strand) (p : Pred) (b : Bool) : Strand := { x with ctx := x.ctx.setPred p b }

/-- The guard holds: p[pg] xor gn = 1 (R34). -/
def guardHolds (g : Guard) (c : Ctx) : Bool := c.getPred g.pg ^^ g.gn

/-- sext(x, n) (R47). -/
def sext {n : Nat} (x : BitVec n) : Word := x.signExtend 64

/-- A byte offset of the M format: sext(imm11) × size (R39). -/
def offsetOf (i : BitVec 11) (size : Nat) : Word := sext i * BitVec.ofNat 64 size

/-- The target of a branch: pc + 4·sext(off21) in 64 bits (R36, R103). -/
def branchTarget (pc : BitVec 48) (o : BitVec 21) : Word := toWord pc + 4 * sext o

/-- The operand b of a compare with k = 1 (R100). -/
def cmpImm (i : BitVec 7) : Word := sext i

/-- The size of an atomic or posted operation: 8 for `.d`, 4 for `.w` (R118). -/
def amoSize (w : Bool) : Nat := if w then 4 else 8

/-- A field names a register that a load has yet to write (R72). -/
def Strand.isPending (x : Strand) (r : Reg) : Bool := r.toNat < 24 && x.pending.any (fun p => p.2 == r.toNat)

/-- Some register of the lists is pending (R72). -/
def Strand.blocked (x : Strand) (rd wr : List Reg) : Bool := rd.any x.isPending || wr.any x.isPending

/-- The lowest-numbered poisoned register among those read (R116). -/
def Strand.poisonIn (x : Strand) (rd : List Reg) : Option (Nat × Word) :=
  ((x.poison.filter (fun e => rd.any (fun r => r.toNat == e.1))).head?).map (·.2)

/-- The lowest-numbered poisoned register of all (R116). -/
def Strand.anyPoison (x : Strand) : Option (Nat × Word) := (x.poison.head?).map (·.2)

/-- Eight consecutive registers from rs (R189, R224, R292). -/
def eightFrom (r : Reg) : List Reg := (List.range 8).map (fun i => r + BitVec.ofNat 5 i)

/-- The words of eight consecutive registers. -/
def Strand.eight (x : Strand) (r : Reg) : Vector Word 8 := Vector.ofFn (fun i : Fin 8 => x.reg (r + BitVec.ofNat 5 i.val))

end Sys2Proof.Machine
end

