-- ==== Sys2Proof/Machine/Flags.lean ====
section
/-! DEFINITION. Conditions. The KW2 has no flags register: a compare writes a predicate (R100). -/

namespace Sys2Proof.Machine
open Sys2Proof

/-- The conditions of `cmp` (R100). -/
inductive Cond where
  | eq | ne | lt | ge | ltu | geu | gt | le | gtu | leu | tst | ntst | feq | flt | fle | funord
  deriving DecidableEq, Repr, Inhabited

/-- cond(cc, a, b) (R100). -/
def condHolds (c : Cond) (a b : Word) : Bool :=
  let fa : Half := a.setWidth 32
  let fb : Half := b.setWidth 32
  match c with
  | .eq => a == b
  | .ne => a != b
  | .lt => a.slt b
  | .ge => b.sle a
  | .ltu => a.ult b
  | .geu => b.ule a
  | .gt => b.slt a
  | .le => a.sle b
  | .gtu => b.ult a
  | .leu => a.ule b
  | .tst => a &&& b != 0
  | .ntst => a &&& b == 0
  | .feq => Num.feq fa fb
  | .flt => Num.flt fa fb
  | .fle => Num.fle fa fb
  | .funord => Num.unordered fa fb

end Sys2Proof.Machine
end

