-- ==== Sys2Proof/Machine/Ops.lean ====
section
/-! DEFINITION. The shared operations of instructions: taking a trap and returning from one (R257, R258, R274), messages
to the supervisor (R262, R263), retiring (R35, R36, R271), and how an instruction issues (R71, R72, R116). -/

namespace Sys2Proof.Machine
open Sys2Proof

/-! ## Messages (R262, R263) -/

/-- Send a message to the die's message engine on die-local tile 0. -/
def State.message (s : State) (t : Nat) (m : Msg) : State :=
  let d := Config.dieOf t
  s.send t (Config.tile0 d) (.message d m false)

/-- Word m3: the source tile and the type (R263). -/
def m3 (t type : Nat) : Word := BitVec.ofNat 64 (t + type * 2 ^ 56)

/-- The core number of a place. -/
def Place.core : Place → Nat
  | .slot _ c _ => c
  | .kennel _ c => c
  | .lent _ c => c
  | _ => 0

/-- The message of a strand that waits for the supervisor, type 1 (R263). -/
def waitMessage (x : Strand) : Msg :=
  { m0 := BitVec.ofNat 64 (x.ctx.sid.toNat + x.ctx.tcause.toNat * 2 ^ 40 + x.place.core * 2 ^ 48),
    m1 := BitVec.ofNat 64 (x.ctx.tpc.toNat + x.ctx.lin.toNat * 2 ^ 48),
    m2 := x.ctx.tval, m3 := m3 x.tile 1 }

/-- The message of a lost context, type 3 (R89, R263). -/
def lostMessage (sid : BitVec 32) (core state : Nat) (lin : BitVec 16) (t : Nat) : Msg :=
  { m0 := BitVec.ofNat 64 (sid.toNat + core * 2 ^ 32 + state * 2 ^ 36), m1 := toWord lin, m2 := 0, m3 := m3 t 3 }

/-! ## Taking a trap (R257) -/

/-- The strand waits for the supervisor, neither resident nor issuing, and its die's supervisor learns of it. -/
def State.waitSupervisor (s : State) (u : Nat) : State :=
  match s.strand u with
  | none => s
  | some x => (s.message x.tile (waitMessage x)).waitFor u .supervisor

/-- The stop record of a supervisor core (R258). -/
def stopRecord (x : Strand) : List Word :=
  [BitVec.ofNat 64 (Config.dieOf x.tile), BitVec.ofNat 64 (x.ctx.sid.toNat + x.ctx.tcause.toNat * 2 ^ 32),
   toWord x.ctx.tpc, x.ctx.tval, 0, 0, 0, 0]

/-- A supervisor core stops: nothing of it issues until the host restarts it, and the host is told (R258). -/
def State.stopCore (s : State) (x : Strand) : State :=
  let s := s.onCore x.tile 0 (fun k => { k with stopped := true })
  { s with mailbox := SMap.put s.mailbox (Config.dieOf x.tile) (stopRecord x), msix := s.msix ++ [1] }

/-- The causes that always go to the supervisor from user mode (R257). `fetchOrWalk` marks a data error met by an
instruction fetch or a page-table walk. -/
def toSupervisor (c : Nat) (v : Word) (fetchOrWalk : Bool) : Bool :=
  c == 4 || c == 5 || c == 0x10 || (c == 0xB && v == 1) || (c == 7 && fetchOrWalk)

/-- The trap CSRs (R257, R259). -/
def Ctx.setTrap (c : Ctx) (cause : Nat) (v : Word) (tpc : BitVec 48) : Ctx :=
  { c with tcause := BitVec.ofNat 8 cause, tval := v, tpc := tpc }

/-- Take a trap: set the trap CSRs, then deliver by mode and cause (R257). The trap pc is the strand's pc; a group that
the strand was changing is unlocked. The handler's first instruction issues four cycles later, as after an issue. -/
def State.takeTrap (s : State) (u cause : Nat) (v : Word) (fetchOrWalk : Bool) : State :=
  match s.strand u with
  | none => s
  | some x =>
    let x := { x with ctx := x.ctx.setTrap cause v x.ctx.pc, prog := Prog.none, fault := none, run := .ready, tried := false,
                      nextAt := s.now + 4 }
    let s := State.onStrand { s with locks := s.locks.filter (fun l => l.2 != u) } u (fun _ => x)
    let vector := s.onStrand u (fun x => { x with ctx := { x.ctx with pc := x.ctx.tvec } })
    if !x.ctx.sup then
      if toSupervisor cause v fetchOrWalk || x.ctx.tvec == 0 then s.waitSupervisor u else vector
    else if cause = 0x10 then s.waitSupervisor u
    else if x.ctx.tvec = 0 then s.stopCore x
    else vector

/-- A deferred refusal: cause 0x06 with the operation's address, and its number in `tseq` (R120, R257). -/
def State.takeRefusal (s : State) (u num : Nat) (addr : Word) : State :=
  (s.onStrand u (fun x => { x with ctx := { x.ctx with tseq := BitVec.ofNat 16 num } })).takeTrap u 6 addr false

/-! ## Retiring -/

/-- nstop rises by one, saturating (R66, R84). -/
def satInc16 (x : BitVec 16) : BitVec 16 := if x = 0xFFFF then x else x + 1

/-- The strand of `x` after an instruction that leaves the pc at `pc` has retired. -/
def Strand.retired (x : Strand) (pc : BitVec 48) : Strand :=
  { x with ctx := { x.ctx with pc := pc, nstop := satInc16 x.ctx.nstop }, prog := Prog.none, run := .ready,
           fault := none, tried := false }

/-- An instruction retires with the pc at `pc`; under `dbgctl` a step trap follows (R36, R84, R271). -/
def State.retireTo (s : State) (u : Nat) (pc : BitVec 48) : State :=
  match s.strand u with
  | none => s
  | some x =>
    let s := s.onStrand u (fun x => x.retired pc)
    if s.steps x then s.schedule s.now 0 (.singleStepTrap u) else s

/-- An instruction that does not write the pc retires (R36). -/
def State.retire (s : State) (u : Nat) : State :=
  match s.strand u with
  | none => s
  | some x => s.retireTo u (x.ctx.pc + 4)

/-- A waiting instruction retires without a new issue, and the strand becomes ready in place. -/
def State.retireWaiting (s : State) (u : Nat) : State := (s.retire u).makeReady u

/-! ## Issuing -/

/-- Why an instruction does not retire: it stalls before it issues, it has issued and waits in its slot, or it traps. -/
inductive Stop where
  | stall (s : State)
  | wait (s : State)
  | trap (s : State) (cause : Nat) (val : Word) (fetchOrWalk : Bool)

/-- The meaning of an instruction once its registers are in: the next state, or a stop. -/
abbrev Act := Except Stop State

def trapAct (s : State) (c : Nat) (v : Word) : Act := .error (.trap s c v false)
def stallAct (s : State) : Act := .error (.stall s)
/-- `wait_until` of an instruction that has issued (R47). -/
def waitAct (s : State) : Act := .error (.wait s)

/-- The strand tries again when something has happened. -/
def State.stall (s : State) (u : Nat) : State :=
  s.onStrand u (fun x => { x with run := if x.run == .ready then .stalled else x.run })

/-- The strand waits in its slot; its instruction has been issued (R47, R127). -/
def State.waitInSlot (s : State) (u : Nat) : State :=
  s.onStrand u (fun x => { x with run := if x.run == .ready then .stalled else x.run, tried := true })

/-- The core has issued in this cycle from this slot; the slot issues again four cycles later (R71). -/
def State.took (s : State) (u t c n : Nat) : State :=
  (s.onCore t c (fun k => { k with rot := n, issued := s.now + 1 })).onStrand u
    (fun x => { x with nextAt := s.now + 4 })

/-- A trap taken at a boundary uses the issue slot of the strand, as the instruction before which it stands would. -/
def State.usedSlot (s : State) (u : Nat) (x : Strand) : State :=
  match x.place with
  | .slot t c n => s.took u t c n
  | _ => s

/-- Finish an attempt. An instruction already in progress took its issue before. -/
def finish (u t c n : Nat) (going : Bool) : Act → State
  | .ok s => if going then s else s.took u t c n
  | .error (.stall s) => s.stall u
  | .error (.wait s) => s.waitInSlot u
  | .error (.trap s cause v w) =>
    let s := s.takeTrap u cause v w
    if going then s else s.took u t c n

/-- Issue an instruction of the strand in focus. Pending registers that it reads or writes stall it (R72); a poisoned
register among `ps` traps (R116); then its own meaning applies. -/
def issueWith (rd wr ps : List Reg) (body : Nat → Strand → State → Act) (s : State) :
    Host.Outcome State Fault Refusal :=
  match s.strand s.focus with
  | none => .refused .noStrand
  | some x => match x.place with
    | .slot t c n =>
      let act : Act :=
        if x.blocked rd wr then stallAct s
        else match x.poisonIn ps with
          | some (cause, v) => trapAct s cause v
          | none => body s.focus x s
      .next (finish s.focus t c n (x.prog.phase != 0) act)
    | _ => .refused .noStrand

/-- As `issueWith`, for an instruction that first makes a check which reads no register: it comes before the wait for
pending registers, and its trap before their poison (R48, R72). -/
def issueAfter (check : Nat → Strand → State → Option (Nat × Word)) (rd wr ps : List Reg)
    (body : Nat → Strand → State → Act) (s : State) : Host.Outcome State Fault Refusal :=
  match s.strand s.focus with
  | none => .refused .noStrand
  | some x => match check s.focus x s with
    | some (cause, v) => issueWith [] [] [] (fun _ _ s => trapAct s cause v) s
    | none => issueWith rd wr ps body s

/-- As `issueWith`, with poison checked in the registers read. -/
def issue (rd wr : List Reg) (body : Nat → Strand → State → Act) (s : State) : Host.Outcome State Fault Refusal :=
  issueWith rd wr rd body s

/-- Write a register and retire. -/
def writeBack (u : Nat) (d : Reg) (v : Word) (s : State) : Act := .ok ((s.onStrand u (fun x => x.setReg d v)).retire u)

/-- An instruction that writes rd from the strand alone. -/
def compute (rd : List Reg) (d : Reg) (f : Strand → Word) (s : State) : Host.Outcome State Fault Refusal :=
  issue rd [d] (fun u x s => writeBack u d (f x) s) s

/-- As `issue`, for an instruction of supervisor mode alone: in user mode it is illegal, cause 0x01 with the word (R35,
R41). -/
def issueSup (rd wr : List Reg) (body : Nat → Strand → State → Act) (s : State) : Host.Outcome State Fault Refusal :=
  match s.strand s.focus with
  | none => .refused .noStrand
  | some x =>
    if x.ctx.sup then issue rd wr body s
    else issue [] [] (fun _ _ s => trapAct s 1 (toWord s.word)) s

/-- The meaning of a step of the machine: what it does with the event under way. -/
def onEvent (f : Event → Option State) (s : State) : Host.Outcome State Fault Refusal :=
  match f s.event with
  | some s' => .next s'
  | none => .refused .noEvent

/-- Return from a supervisor trap: the pc becomes `tpc` (R274). -/
def State.returnFromTrap (s : State) (u : Nat) (x : Strand) : Act :=
  if x.ctx.tpc.extractLsb' 0 2 != 0 then trapAct s 2 (toWord x.ctx.tpc)
  else .ok (s.retireTo u x.ctx.tpc)

end Sys2Proof.Machine
end

