-- ==== Sys2Proof/Machine/Translate.lean ====
section
/-! DEFINITION. Regions, translation, page-table walks, and fetching an instruction's word (R49 to R55, R61, R63). -/

namespace Sys2Proof.Machine
open Sys2Proof

/-! ## Regions (R49) -/

/-- The region of an address whose checks pass. -/
inductive Region where
  | md (va : Nat)
  | peer (mod off : Nat)
  | ls (tile off : Nat)
  deriving DecidableEq, Repr

/-- Decode an address for an access issued on tile `t`; none is cause 0x03. A supervisor strand passes the partition
check (R49, R273). -/
def State.region (s : State) (t : Nat) (sup : Bool) (a : Word) : Option Region :=
  if field' a 56 8 = 0 then some (.md a.toNat)
  else if field' a 60 4 = 8 then
    let m := field' a 48 12
    if m = s.modnum.toNat then none else some (.peer m (field' a 0 48))
  else if field' a 56 8 = 0xFE then
    let d := field' a 32 12
    let off := field' a 0 22
    if field' a 44 12 = 0 ∧ field' a 22 10 = 0 ∧ d < Config.tiles ∧ off < Config.lsSize d ∧
        (sup || s.partOfTile d == s.partOfTile t) = true then some (.ls d off) else none
  else none
where
  /-- Bits [lo+n-1 : lo] as a number. -/
  field' (a : Word) (lo n : Nat) : Nat := a.toNat / 2 ^ lo % 2 ^ n

/-! ## The TLB (R55) -/

def TlbEntry.holds (e : TlbEntry) (va : Nat) : Bool :=
  e.page == (if e.giant then va / 2 ^ 30 else va / 2 ^ 21)

/-- The domain offset that an entry gives an address (R54). -/
def TlbEntry.offset (e : TlbEntry) (va : Nat) : Nat :=
  e.doff * 2 ^ 21 + (if e.giant then va % 2 ^ 30 else va % 2 ^ 21)

/-- Put an entry first; the least recently used of 512 leaves. -/
def tlbUse (e : TlbEntry) (l : List TlbEntry) : List TlbEntry := (e :: l.filter (· != e)).take 512

/-- An access needs no more than the page gives (R54). -/
def Perm.within (p : Perm) (e : TlbEntry) : Bool := (!p.r || e.r) && (!p.w || e.w) && (!p.x || e.x)

def permR : Perm := ⟨true, false, false⟩
def permW : Perm := ⟨false, true, false⟩
def permRW : Perm := ⟨true, true, false⟩
def permX : Perm := ⟨false, false, true⟩

/-- What translation gives: a target, a miss, or a fault with its cause (R54). -/
inductive Trans where
  | ok (tgt : Target) (s : State)
  | miss
  | fault (cause : Nat)

/-- Translate a module-memory address by the TLB of tile `t` (R51, R54, R57). -/
def State.tlb (s : State) (t va : Nat) (p : Perm) : Trans :=
  let x := s.tile t
  if !(x.regs.ptbase.getLsbD 0) then .fault 4
  else match x.tlb.find? (fun e => e.holds va) with
    | none => .miss
    | some e =>
      if !(p.within e) then .fault 5
      else
        let tgt := Target.md (s.partOfTile t) e.dom (e.offset va)
        match s.locate t tgt with
        | none => .fault 4
        | some _ => .ok tgt (s.setTile t { x with tlb := tlbUse e x.tlb })

/-! ## Walks (R51, R53) -/

/-- The table index of a level. -/
def levelIndex (va level : Nat) : Nat :=
  match level with
  | 0 => va / 2 ^ 48 % 256
  | 1 => va / 2 ^ 39 % 512
  | 2 => va / 2 ^ 30 % 512
  | _ => va / 2 ^ 21 % 512

/-- What a page-table entry means at a level (R53). -/
inductive Pte where
  | invalid
  | pointer (dom next : Nat)
  | leaf (e : TlbEntry)
  deriving DecidableEq, Repr

def pteOf (w : Word) (level va : Nat) : Pte :=
  let b (i : Nat) : Bool := w.getLsbD i
  let f (lo n : Nat) : Nat := w.toNat / 2 ^ lo % 2 ^ n
  if !(b 0) || f 48 16 != 0 then .invalid
  else if b 1 || b 2 || b 3 then
    let giant := b 4
    if level < 2 || (level == 2) != giant || f 11 10 != 0 || (b 3 && b 2) || (giant && f 21 9 != 0) then .invalid
    else .leaf ⟨if giant then va / 2 ^ 30 else va / 2 ^ 21, giant, f 5 6, f 21 27, b 1, b 2, b 3⟩
  else if 3 ≤ level || b 4 || b 11 then .invalid
  else .pointer (f 5 6) (f 12 36)

/-- A command at which a channel stands stopped. -/
def Chan.stopped (c : Chan) : Option FCmd := c.cmds.find? (fun k => k.stop.isSome)

/-- The command that a channel is reading for (R174). -/
def FCmd.bursts (c : FCmd) : Nat :=
  let n (i : Nat) : Nat := (c.w[1]?.getD 0).toNat / 2 ^ (16 * i) % 2 ^ 16
  n 0 * n 1 * n 2 * n 3
def FCmd.reading (c : FCmd) : Bool := !c.aborted && (!c.redo.isEmpty || decide (c.k < c.bursts))

/-- The iteration vector of a linear index, as g1 holds it (R177, R181). -/
def FCmd.vector (c : FCmd) (k : Nat) : Word :=
  let n (i : Nat) : Nat := (c.w[1]?.getD 0).toNat / 2 ^ (16 * i) % 2 ^ 16
  BitVec.ofNat 64 (k % n 0 + k / n 0 % n 1 * 2 ^ 16 + k / (n 0 * n 1) % n 2 * 2 ^ 32
    + k / (n 0 * n 1 * n 2) % 2 ^ 16 * 2 ^ 48)

def State.onCmd (s : State) (t ch : Nat) (id : BitVec 32) (f : FCmd → FCmd) : State :=
  s.onChan t ch (fun c => { c with cmds := c.cmds.map (fun k => if k.id == id then f k else k) })

/-- The message of a fetch engine, type 0 (R184). -/
def fetchMessage (t ch : Nat) (c : FCmd) (f : FStop) : Msg :=
  { m0 := BitVec.ofNat 64 (c.id.toNat + ch * 2 ^ 32 + f.cause * 2 ^ 40 + f.kind * 2 ^ 48),
    m1 := c.vector f.k, m2 := f.addr, m3 := m3 t 0 }

/-- A command stops its channel, and the supervisor learns of it in this cycle (R184, R196). -/
def State.stopCmd (s : State) (t ch : Nat) (id : BitVec 32) (f : FStop) : State :=
  match (s.chan t ch).cmds.find? (fun k => k.id == id) with
  | none => s
  | some c =>
    if c.stop.isSome || (c.aborted && f.kind != 3) then s
    else (s.onCmd t ch id (fun k => { k with stop := some f })).message t (fetchMessage t ch c f)

/-- The next burst of a command: one to be read again first. -/
def FCmd.next (c : FCmd) : Nat := (c.redo.map (·.1)).headD c.k

/-- The linear index at which a failed walk of a command stops it: of its arrival, of its table, of a copy to be written
again, or of its next burst (R184). -/
def FCmd.stopAt (c : FCmd) (kind : Nat) (va : Word) : Nat :=
  if kind = 3 then c.bursts
  else if kind = 2 then c.k
  else match c.again.find? (fun e => kind == 1 && e.2.2.1 == va) with
    | some e => e.1
    | none => c.next

/-- The strand, channel, fetch or unit that waited for a walk goes on, or meets its fault. -/
def State.walkDone (s : State) (w : Walk) (r : Except Nat Target) : State :=
  let fault : Option Nat := match r with | .ok _ => none | .error c => some c
  let note (u : Nat) : State :=
    s.onStrand u (fun x => { x with walking := false, fault := fault.map (fun c => ⟨w.va, c⟩) })
  match w.who with
  | .strand u => note u
  | .fetch u => note u
  | .channel ch id kind =>
    let s := s.onCmd w.tile ch id (fun c => if c.aborted && kind != 3 then c else { c with walks := c.walks - 1 })
    let s := match fault, (s.chan w.tile ch).cmds.find? (fun k => k.id == id) with
      | some cause, some c =>
        s.stopCmd w.tile ch id ⟨kind, cause, w.va, c.stopAt kind w.va⟩
      | _, _ => s
    s.schedule s.now 1 (if kind = 3 then .fetchCompletionPoint w.tile ch
      else if kind = 2 then .fetchTableRead w.tile ch else .fetchReadIssue w.tile)
  | .job id =>
    (s.onJob id (fun j => match r with
      | .ok tgt => { j with tgt := some tgt }
      | .error c => { j with todo := j.todo.drop 1, got := j.got ++ [.fail c] })).schedule s.now 1 (.job id)

/-- The function whose turn it is in a partition (R269). -/
def Part.turn (p : Part) : Nat := p.fns.getD p.cur 0

/-- A function is bound to a partition (R269, R293). -/
def State.boundTo (s : State) (part fn : Nat) : Bool := (SMap.find? s.fns fn).any (fun f => f.part == part)

/-- A partition is bound to two functions or more: it is time-sliced (R269). -/
def State.timeSliced (s : State) (part : Nat) : Bool :=
  decide (2 ≤ (List.filter (fun e => e.2.part == part) s.fns).length)

/-- A function whose partition is time-sliced and another function's turn it is: its page table and its descriptors are
kept with it (R269, R293). -/
def State.fnOut (s : State) (fn : Nat) : Option VFn :=
  match SMap.find? s.fns fn with
  | none => none
  | some f =>
    if s.timeSliced f.part ∧ (s.part f.part).turn ≠ fn then some f else none

/-- What a domain and offset of a tile's partition name, by its own descriptors or by those kept for a function: the
target, its owner and its byte (R57, R293). -/
def State.placeIn (s : State) (t : Nat) (fn : Option Nat) (dom off : Nat) : Option (Target × Nat × Nat) :=
  match fn.bind s.fnOut with
  | some f => match (SMap.find? f.descs (descNo f.part dom)).bind (fun x => locateIn x off) with
    | some (o, k) => some (.tm f.part o (cellOff k), o, k)
    | none => none
  | none =>
    let tgt := Target.md (s.partOfTile t) dom off
    (s.locate t tgt).map (fun e => (tgt, e.1, e.2))

/-- The `ptbase` that a walk starts from (R52): the tile's, or the function's (R293). -/
def State.walkBase (s : State) (t : Nat) : Option Nat → Word
  | none => (s.regs t).ptbase
  | some fn => match s.fnOut fn, SMap.find? s.fns fn with
    | some f, _ => f.ptbase
    | none, some f => if s.timeSliced f.part then (s.regs t).ptbase else f.ptbase
    | none, none => 0

/-- Read the entry of a walk's level from a table: a read at its owner (R51). No table there ends the walk. -/
def State.walkRead (s : State) (id : Nat) (w : Walk) (dom table : Nat) : State :=
  let s := { s with walks := SMap.put s.walks id w }
  match s.placeIn w.tile w.fn dom (table * 4096 + 8 * levelIndex w.va.toNat w.level) with
  | none => s.schedule s.now 0 (.walkEntryResponse id (.fail 4))
  | some (tgt, owner, k) =>
    if s.real owner = w.tile then
      let r := s.performRead k 8
      r.2.2.schedule (s.now + r.2.1) 0 (.walkEntryResponse id r.1)
    else
      s.send w.tile owner (.req ⟨w.tile, owner, tgt, w.va, .load 8, .walker id, 0, false, false⟩)

/-- A walk reads its level-0 entry (R51, R52). -/
def State.walkFrom (s : State) (id : Nat) (w : Walk) : State :=
  let b := (s.walkBase w.tile w.fn).toNat
  s.walkRead id { w with level := 0, stale := false } (b / 32 % 64) (b / 2 ^ 12 % 2 ^ 36)

/-- The slots of a tile's walker that are in use. -/
def State.walkSlots (s : State) (t : Nat) : List Nat :=
  (s.walks.filter (fun e => e.2.tile == t && decide (e.2.slot < 256))).map (·.2.slot)

/-- Start a walk from `ptbase` (R51, R52), in the lowest free slot of the walker's 256; with none free it waits for one
(R248). -/
def State.startWalkIn (s : State) (t : Nat) (fn : Option Nat) (va : Word) (p : Perm) (who : WalkFor) : State :=
  let i := s.newId
  let n := lowestFree (s.walkSlots t) 256 0
  let w : Walk := ⟨t, n, va, p, 0, who, false, fn⟩
  if n < 256 then i.2.walkFrom i.1 w else { i.2 with walks := SMap.put i.2.walks i.1 w }

/-- A walk by a tile's own table. -/
def State.startWalk (s : State) (t : Nat) (va : Word) (p : Perm) (who : WalkFor) : State :=
  s.startWalkIn t none va p who

/-- A walk has ended: its slot goes to the walk that has waited longest (R248). -/
def State.walkEnd (s : State) (id : Nat) (w : Walk) : State :=
  let s := { s with walks := SMap.erase s.walks id }
  match List.find? (fun e => e.2.tile == w.tile && decide (256 ≤ e.2.slot)) s.walks with
  | some e => if w.slot < 256 then s.walkFrom e.1 { e.2 with slot := w.slot } else s
  | none => s

/-- An entry is in: go on, end, or fault (R51, R54). A walk whose table was invalidated meanwhile starts again, so that it
installs nothing older than the invalidation (R55). -/
def State.walkEntry (s : State) (id : Nat) (ans : Answer) : State :=
  match SMap.find? s.walks id with
  | none => s
  | some w =>
    let ended (r : Except Nat Target) : State := (s.walkEnd id w).walkDone w r
    if w.stale then s.walkFrom id w
    else match ans with
    | .fail 7 => ended (.error 7)
    | .fail _ => ended (.error 4)
    | .data bs =>
      match pteOf (wordOf bs) w.level w.va.toNat with
      | .invalid => ended (.error 4)
      | .pointer d n => s.walkRead id { w with level := w.level + 1 } d n
      | .leaf e =>
        if !(w.perm.within e) then ended (.error 5)
        else match s.placeIn w.tile w.fn e.dom (e.offset w.va.toNat) with
          | none => ended (.error 4)
          | some r =>
            let s' := if w.fn.isSome then s.walkEnd id w
              else (s.walkEnd id w).onTile w.tile (fun x => { x with tlb := tlbUse e x.tlb })
            s'.walkDone w (.ok r.1)

/-- The tables that a tile's walks read have been invalidated or replaced: each starts again (R55). -/
def State.staleWalks (s : State) (t : Nat) : State :=
  { s with walks := s.walks.map (fun e => (e.1, if e.2.tile == t then { e.2 with stale := true } else e.2)) }

/-! ## An access's address -/

/-- What an address names, for an instruction (R47: translate). -/
inductive Named where
  | here (tgt : Target) (owner k : Nat)
  | peer (mod off : Nat)

/-- Decode and translate an address for an access kind: region faults, then translation faults; a miss walks and the
strand waits in its slot (R49, R51, R54). -/
def State.translate (s : State) (u : Nat) (x : Strand) (a : Word) (p : Perm) : Except Stop (Named × State) :=
  match s.region x.tile x.ctx.sup a with
  | none => .error (.trap s 3 a false)
  | some (.peer m o) => .ok (.peer m o, s)
  | some (.ls d o) => .ok (.here (.ls d o) d (cellNo d true o), s)
  | some (.md va) =>
    match s.tlb x.tile va p with
    | .fault c => .error (.trap s c a false)
    | .ok tgt s => match s.locate x.tile tgt with
      | none => .error (.trap s 4 a false)
      | some (owner, k) => .ok (.here tgt owner k, s)
    | .miss =>
      match x.fault with
      | some f =>
        if f.va = a then .error (.trap s f.cause a true)
        else .error (.stall ((s.onStrand u (fun x => { x with walking := true, fault := none })).startWalk x.tile a p (.strand u)))
      | none =>
        if x.walking then .error (.stall s)
        else .error (.stall ((s.onStrand u (fun x => { x with walking := true })).startWalk x.tile a p (.strand u)))

/-! ## Instruction fetch (R36, R61, R63) -/

/-- Install a line; a full cache of 1024 lines gives one up (log entry 10). -/
def State.fillLine (s : State) (t line : Nat) (l : ILine) : State :=
  let x := s.tile t
  if x.icache.length < 1024 then s.setTile t { x with icache := SMap.put x.icache line l }
  else
    let v := s.free .ivictim
    let out := (List.getD x.icache (v.1 % 1024) (0, l)).1
    v.2.setTile t { x with icache := SMap.put (SMap.erase x.icache out) line l }

/-- The word at a pc of the image that the die's boot ROM has verified: a supervisor strand of die-local tile 0 fetches from it
while translation is off, its pc a byte of the image (R294; DESIGN CHOICE, log entry 3). -/
def State.bootWord (s : State) (x : Strand) : Option Half :=
  let d := Config.dieOf x.tile
  let bs := ((s.die d).image.drop x.ctx.pc.toNat).take 4
  if x.ctx.sup && x.tile == Config.tile0 d && bs.length == 4 then some (BitVec.ofNat 32 (leValue bs)) else none

/-- The word at the strand's pc that its tile has at hand: in its instruction cache, or in the boot image while translation is
off. -/
def State.wordAtHand (s : State) (x : Strand) : Option Half :=
  let pc := x.ctx.pc.toNat
  if !((s.regs x.tile).ptbase.getLsbD 0) then s.bootWord x
  else (SMap.find? (s.tile x.tile).icache (pc / 64)).map (fun l => BitVec.ofNat 32 (leValue ((l.bytes.drop (pc % 64)).take 4)))

/-- The word at the strand's pc, from what its tile has at hand; a miss translates and fills (R61). With translation off
every fetch faults that the boot image does not answer (R52). -/
def State.fetchWord (s : State) (u : Nat) (x : Strand) : Except Stop (Half × State) :=
  let pc := x.ctx.pc.toNat
  let a := toWord x.ctx.pc
  match s.wordAtHand x with
  | some w => .ok (w, s)
  | none =>
    if !((s.regs x.tile).ptbase.getLsbD 0) then
      .error (.trap (s.onStrand u (fun x => { x with walking := false })) 4 a true)
    else match x.fault with
    | some f =>
      if f.va = a then .error (.trap s f.cause a true)
      else .error (.stall (s.onStrand u (fun x => { x with fault := none })))
    | none =>
      if x.walking then .error (.stall s)
      else
        let s := s.onStrand u (fun x => { x with walking := true })
        match s.tlb x.tile pc permX with
        | .fault c => .error (.trap (s.onStrand u (fun x => { x with walking := false })) c a true)
        | .miss => .error (.stall (s.startWalk x.tile a permX (.fetch u)))
        | .ok tgt s =>
          let line := match tgt with
            | .md p d o => Target.md p d (o / 64 * 64)
            | t => t
          match s.locate x.tile line, ((s.tile x.tile).tlb.find? (fun e => e.holds pc)) with
          | some (owner, k), some e =>
            let i := s.newId
            let s := i.2.onTile x.tile (fun y => { y with fills := SMap.put y.fills i.1 ⟨pc / 64, e.dom, e.giant, u⟩ })
            if s.real owner = x.tile then
              let r := s.performRead k 64
              .error (.stall (r.2.2.schedule (s.now + r.2.1) 0 (.icacheFill x.tile i.1 r.1)))
            else
              .error (.stall (s.send x.tile owner
                (.req ⟨x.tile, owner, line, a, .load 64, .icache x.tile i.1, x.ctx.lin, x.ctx.sup, false⟩)))
          | _, _ => .error (.trap (s.onStrand u (fun x => { x with walking := false })) 4 a true)

/-- A fill arrives: the line is in for every strand that waits for it, or they meet a data error (R61, R63). A fill that an
invalidation has overtaken brings nothing in. -/
def State.icacheFilled (s : State) (t fill : Nat) (ans : Answer) : State :=
  match SMap.find? (s.tile t).fills fill with
  | none => s
  | some i =>
    let waits (x : Strand) : Bool := x.tile == t && x.walking && x.ctx.pc.toNat / 64 == i.line
    let s := s.onTile t (fun x => { x with fills := SMap.erase x.fills fill })
    match ans with
    | .data bs =>
      let s := s.fillLine t i.line ⟨i.dom, i.giant, bs⟩
      { s with strands := s.strands.map (fun e => if waits e.2 then (e.1, { e.2 with walking := false }) else e) }
    | .fail c =>
      { s with strands := s.strands.map (fun e =>
          if waits e.2 then (e.1, { e.2 with walking := false, fault := some ⟨toWord e.2.ctx.pc, c⟩ }) else e) }

/-- An invalidation reaches the fills of a tile that it covers: they bring nothing in, and the strands that wait for them
fetch again (R55, R61). -/
def State.dropFills (s : State) (t : Nat) (p : IFill → Bool) : State :=
  let out := (s.tile t).fills.filter (fun e => p e.2)
  out.foldl (fun s e => s.onStrand e.2.uid (fun x => if x.tile = t then { x with walking := false } else x))
    (s.onTile t (fun x => { x with fills := x.fills.filter (fun e => !(p e.2)) }))

end Sys2Proof.Machine
end

