-- ==== Sys2Proof/Machine/Peer.lean ====
section
/-! DEFINITION. Gorrex links: sending frames and messages to peer modules, the walk that serves a peer's access, and
what a message from a peer does (R59, R250 to R253). -/

namespace Sys2Proof.Machine
open Sys2Proof

/-! ## Links (R250 to R252) -/

/-- A link in its set: a link that is down in a direction, or down for a retraining, has left it (R251, R253). -/
def Link.up (k : Link) : Bool := k.mode != .down && k.rmode != .down && !k.out

/-- A link of a set that can take a new frame: up, not training, not resynchronising, its window not full. -/
def Link.open_ (k : Link) : Bool :=
  k.up && !k.training && !k.resync && decide ((k.next - k.ack).toNat < 64)

/-- A frame leaves over a link; it is in at the peer after one traversal (R250). -/
def State.transmitFrame (s : State) (l : Nat) (f : Frame) : State :=
  s.onLink l (fun k => { k with sent := k.sent ++ [(s.now + Config.linkTime, { f with ack := k.expected })], owed := 0 })

/-- Put a frame on a link and into its replay store; the timeout runs from the last progress (R252). -/
def State.sendFrame (s : State) (l : Nat) (msgs : List (Nat × BitVec 8 × PeerMsg)) : State :=
  let k := s.link l
  let f : Frame := ⟨s.modnum.toNat, k.next, k.expected, true, false, .none, msgs⟩
  let fresh := k.store.isEmpty
  let s := (s.onLink l (fun k =>
    { k with next := k.next + 1, store := k.store ++ [f], timer := if fresh then s.now else k.timer })).transmitFrame l f
  if fresh then s.schedule (s.now + 2048) 0 (.gorrexReplayTimeout l s.now) else s

/-- An idle frame: an acknowledgement alone, or a resynchronisation's request or answer (R252, R253). -/
def State.sendIdle (s : State) (l : Nat) (c : FrameCtl) : State :=
  s.transmitFrame l ⟨s.modnum.toNat, (s.link l).next, 0, true, true, c, []⟩

/-- The number of the pair of a tile of one module and the other module (R250). -/
def peerPairNo (m src : Nat) : Nat := 4096 * m + src

/-- The link set of a module (R250, R251). -/
def State.upLinks (s : State) (m : Nat) : List Nat := (SMap.getD s.linkSets m []).filter (fun l => (s.link l).up)

/-- The links of the set to a module that can take a frame. -/
def State.openLinks (s : State) (m : Nat) : List Nat := (s.upLinks m).filter (fun l => (s.link l).open_)

/-- The numbers of a pair that are not yet acknowledged: in the replay stores, and waiting to be sent again (R252). -/
def State.unacked (s : State) (m src : Nat) : List (BitVec 8) :=
  ((SMap.getD s.linkSets m []).flatMap (fun l => ((s.link l).store.flatMap (·.msgs)).filterMap (fun x =>
      if x.1 = src then some x.2.1 else none)))
    ++ s.peerOut.filterMap (fun x => if x.1 = src ∧ x.2.1 = m then x.2.2.1 else none)

/-- What a frame to a module takes, up to a number of messages, and what waits on: a message takes the next number of its
pair, while the oldest that is not acknowledged is less than 128 behind (R249, R250). -/
def State.pickMsgs (s : State) (m : Nat) : Nat → List (Nat × Nat × Option (BitVec 8) × PeerMsg) →
    List (Nat × BitVec 8 × PeerMsg) × List (Nat × Nat × Option (BitVec 8) × PeerMsg) × State
  | _, [] => ([], [], s)
  | n, x :: xs =>
    let keep := s.pickMsgs m n xs
    if n = 0 ∨ x.2.1 ≠ m then (keep.1, x :: keep.2.1, keep.2.2)
    else
      let q := SMap.getD s.peerPairs (peerPairNo m x.1) (0, 0)
      match x.2.2.1 with
      | some k =>
        let r := s.pickMsgs m (n - 1) xs
        ((x.1, k, x.2.2.2) :: r.1, r.2)
      | none =>
        if (s.unacked m x.1).all (fun k => decide ((q.1 - k).toNat < 128)) then
          let r := State.pickMsgs { s with peerPairs := SMap.put s.peerPairs (peerPairNo m x.1) (q.1 + 1, q.2) } m (n - 1) xs
          ((x.1, q.1, x.2.2.2) :: r.1, r.2)
        else (keep.1, x :: keep.2.1, keep.2.2)

/-- Send up to eight waiting messages for a module in one frame over a free link of its set (R250, R252). -/
def State.peerFlushOne (s : State) (m : Nat) : Option State :=
  match s.openLinks m with
  | [] => none
  | l :: ls =>
    let r := s.pickMsgs m 8 s.peerOut
    if r.1.isEmpty then none
    else
      let s := { r.2.2 with peerOut := r.2.1 }
      let pick := if ls.isEmpty then (l, s) else
        let f := s.free .link
        ((l :: ls).getD (f.1 % (ls.length + 1)) l, f.2)
      some (pick.2.sendFrame pick.1 r.1)

/-- Send what waits for a module while its links take frames. -/
def State.peerFlush (s : State) (m : Nat) : Nat → State
  | 0 => s
  | fuel + 1 => match s.peerFlushOne m with
    | some s' => s'.peerFlush m fuel
    | none => s

/-- Send what waits for every module. -/
def State.peerFlushAll (s : State) : State :=
  (s.peerOut.map (·.2.1)).eraseDups.foldl (fun s m => s.peerFlush m s.peerOut.length) s

/-- The kind of a flit for a peer module (R247). -/
def peerKind : PeerMsg → BitVec 4
  | .load _ _ _ => 2
  | .rmw _ _ _ _ _ _ => 2
  | .post _ _ _ _ _ => 4
  | .data _ _ => 3
  | .fail _ _ => 5
  | .ack _ => 5

/-- The number of an access that a message for a peer module makes or answers. -/
def peerTag : PeerMsg → Nat
  | .load _ _ g => g
  | .rmw _ _ _ g _ _ => g
  | .post _ _ _ g _ => g
  | .data g _ => g
  | .fail g _ => g
  | .ack g => g

/-- The header of a flit for a peer module, which goes to an endpoint of the module's link set (R246, R250). -/
def State.peerHeader (s : State) (t m : Nat) (x : PeerMsg) : FlitHeader :=
  let agent := (SMap.find? s.peerTags (peerTag x)).map (·.1)
  let h : FlitHeader :=
    { age := 0, seq := (SMap.getD s.peerPairs (peerPairNo m t) (0, 0)).1, fi := 0, nf := 0, kind := peerKind x,
      dst := BitVec.ofNat 12 (0xF00 + (SMap.getD s.linkSets m []).headD 0 % 32), src := BitVec.ofNat 12 t,
      lin := (agent.map s.agentLin).getD 0, ctx := (agent.map (s.agentTag t)).getD 0, ap := parityOf 0,
      pecc := Config.secded (Config.peerPayload x), crc := 0 }
  { h with crc := Config.crc16 (headerCovered h) }

/-- A message from a tile to a module passes its die's crossbar and reaches the egress 30 cycles later (R246, R250). -/
def State.peerSend (s : State) (t m : Nat) (x : PeerMsg) : State :=
  s.checkFlit t (s.peerHeader t m x) (s.schedule (s.now + Config.portTime) 1 (.egress t m x))

/-- The set of a module is empty: its accesses are refused (R251). -/
def State.peerGone (s : State) (m : Nat) : Bool := (s.upLinks m).isEmpty

/-! ## This module's accesses to a peer (R59) -/

/-- Send a load or an atomic to a peer, to be answered to an agent. -/
def State.peerAsk (s : State) (t m off : Nat) (agent : Agent) (va : Word) (op : ReqOp) : State :=
  if s.peerGone m then s.schedule (s.now + Config.portTime) 0 (.responseArrival ⟨agent, va, .fail 3⟩)
  else
    let i := s.newId
    let n := match op with | .load n => n | .rmw _ n _ _ => n | .write bs => bs.length
    let s := { i.2 with peerTags := SMap.put i.2.peerTags i.1 (agent, va, 0, n) }
    s.peerSend t m (match op with
      | .load n => .load n off i.1
      | .rmw f n b e => .rmw f n off i.1 b e
      | .write bs => .post .st bs.length off i.1 (wordOf bs))

/-- Post an operation to a peer. -/
def State.peerPost (s : State) (t m off uid num : Nat) (va : Word) (f : Rmw) (n : Nat) (b : Word) : State :=
  if s.peerGone m then s.schedule (s.now + Config.portTime) 0 (.postedRefusalArrival uid num va)
  else
    let i := s.newId
    let s := { i.2 with peerTags := SMap.put i.2.peerTags i.1 (.op uid, va, num, n) }
    s.peerSend t m (.post f n off i.1 b)

/-! ## A peer's accesses to this module (R59) -/

/-- The lowest tile of a partition. -/
def State.leadTile (s : State) (p : Nat) : Option Nat :=
  (List.range Config.tiles).find? (fun t => s.partOfTile t == p)

/-- A peer's access goes by the page table of the exported partition, with the walk and the checks of an access of that
partition, and is performed at its owner, 30 cycles after its frame when the translation is at hand; a refused one is
answered at once (R59, R250). Every tile of a partition has its own `ptbase`: the exported partition's table is that of
its lowest tile, whose TLB and walker serve (DESIGN CHOICE, log entry 16). -/
def State.serve (s : State) (m src off tag : Nat) (posted : Bool) (p : Perm) (op : ReqOp) : State :=
  match s.exportPart.bind s.leadTile with
  | none => s.peerSend 0 m (.fail tag 3)
  | some lead =>
    s.startJob s.now ⟨.peer m src lead tag posted none, lead, none, false, Config.portTime,
      [⟨BitVec.ofNat 64 off, none, p, some op⟩], none, [], []⟩

/-- The permissions of a posted function. -/
def postPerm (f : Rmw) : Perm := if f = .st then permW else permRW

/-- What an in-order message of a peer does. -/
def State.peerMessage (s : State) (m src : Nat) : PeerMsg → State
  | .load n off tag => s.serve m src off tag false permR (.load n)
  | .rmw f n off tag b e => s.serve m src off tag false permRW (.rmw f n b e)
  | .post f n off tag b => s.serve m src off tag true (postPerm f) (.rmw f n b 0)
  | .data tag v => match SMap.find? s.peerTags tag with
    | none => s
    | some (agent, va, _, n) =>
      State.schedule { s with peerTags := SMap.erase s.peerTags tag } (s.now + Config.portTime + 4) 0
        (.responseArrival ⟨agent, va, .data (bytesOf n v)⟩)
  | .ack tag => match SMap.find? s.peerTags tag with
    | some (.op u, _, num, _) =>
      State.schedule { s with peerTags := SMap.erase s.peerTags tag } (s.now + Config.portTime + 4) 0 (.acknowledgementArrival u num)
    | _ => s
  | .fail tag c => match SMap.find? s.peerTags tag with
    | some (.op u, va, num, _) =>
      State.schedule { s with peerTags := SMap.erase s.peerTags tag } (s.now + Config.portTime + 4) 0 (.postedRefusalArrival u num va)
    | some (agent, va, _, _) =>
      State.schedule { s with peerTags := SMap.erase s.peerTags tag } (s.now + Config.portTime + 4) 0
        (.responseArrival ⟨agent, va, .fail (if c = 7 then 7 else 3)⟩)
    | none => s

/-- The answer of a peer's access leaves its owner (R59). -/
def State.peerAnswer (s : State) (m t tag : Nat) (posted : Bool) : Answer → State
  | .fail c => s.peerSend t m (.fail tag c)
  | .data bs => s.peerSend t m (if posted then .ack tag else .data tag (wordOf bs))

/-- Restore per-pair order: take every held message whose number is expected (R250). -/
def State.peerDrain (s : State) (m src : Nat) : Nat → State
  | 0 => s
  | fuel + 1 =>
    let q := SMap.getD s.peerPairs (peerPairNo m src) (0, 0)
    match s.peerHeld.find? (fun x => x.1 == m && x.2.1 == src && x.2.2.1 == q.2) with
    | none => s
    | some x =>
      let s := { s with peerHeld := s.peerHeld.erase x,
                        peerPairs := SMap.put s.peerPairs (peerPairNo m src) (q.1, q.2 + 1) }
      (s.peerMessage m src x.2.2.2).peerDrain m src fuel

/-- The messages of an accepted frame, each in its pair's order; one that its pair has had before is discarded. -/
def State.peerAccept (s : State) (m : Nat) (msgs : List (Nat × BitVec 8 × PeerMsg)) : State :=
  let fresh := msgs.filter (fun x =>
    decide ((x.2.1 - (SMap.getD s.peerPairs (peerPairNo m x.1) (0, 0)).2).toNat < 128))
  let s := { s with peerHeld := s.peerHeld ++ fresh.map (fun x => (m, x.1, x.2.1, x.2.2)) }
  ((msgs.map (·.1)).eraseDups).foldl (fun s src => s.peerDrain m src s.peerHeld.length) s

/-- The access of a message to a module whose set is empty is refused (R59, R251). -/
def State.refuseMsg (s : State) (m : Nat) (x : PeerMsg) : State :=
  match x with
  | .load _ _ tag => s.peerMessage m 0 (.fail tag 3)
  | .rmw _ _ _ tag _ _ => s.peerMessage m 0 (.fail tag 3)
  | .post _ _ _ tag _ => s.peerMessage m 0 (.fail tag 3)
  | _ => s

/-- A message is at the egress: it is refused when the module's set is empty, else it waits for a frame (R250, R251). -/
def State.atEgress (s : State) (t m : Nat) (x : PeerMsg) : State :=
  if s.peerGone m then s.refuseMsg m x
  else State.peerFlush { s with peerOut := s.peerOut ++ [(t, m, none, x)] } m 1

end Sys2Proof.Machine
end

