-- ==== Sys2Proof/Machine/Access.lean ====
section
/-! DEFINITION. How an instruction reaches memory: at issue, by migration, by request, or by a posted operation (R79 to
R84, R111 to R120), births' contexts (R68), and what an access does when it arrives at its owner. -/

namespace Sys2Proof.Machine
open Sys2Proof

/-! ## Births (R67, R68) -/

/-- The next sid of a tile (R67). -/
def State.newSid (s : State) (t : Nat) : BitVec 32 × State :=
  let n := (s.tile t).serial
  (BitVec.ofNat 12 t ++ n, s.onTile t (fun x => { x with serial := x.serial + 1 }))

/-- A context at birth on tile `t`, its inherited fields from `p` (R68). -/
def Ctx.birth (p : Ctx) (t : Nat) (sid : BitVec 32) (pc : BitVec 48) (g : Vector Word 24) (pred : BitVec 16) : Ctx :=
  { g := g, pred := pred, pc := pc, pseq := 0, lin := p.lin, sid := sid, rpin := false, xpin := false, sup := p.sup,
    cls := p.cls, tcause := 0, tvec := p.tvec, tseq := 0, tpc := 0, tval := 0, nstop := 0, alt := 0,
    prev := BitVec.ofNat 12 t, cur := BitVec.ofNat 12 t, pmin := p.pmin, plim := p.plim, hleft := 0,
    phold := p.phold }

/-- A strand that is not yet admitted anywhere. -/
def Strand.fresh (c : Ctx) (t : Nat) (b : Birth) : Strand :=
  { ctx := c, tile := t, place := .source t, run := .held, nextAt := 0, complete := 0, since := 0, ecls := 0, tick := 0, ids := 0,
    pending := [], poison := [], posted := [], refusals := [], engTrap := none, prog := Prog.none, child := none,
    marked := none, handler := none, fault := none, walking := false, packet := none, pinEnd := 0, home := t,
    forGood := false, age := 0, asked := false, tried := false, struck := false, watch := none, birth := b }

/-- A new strand enters the machine's list under a new number. -/
def State.addStrand (s : State) (x : Strand) : Nat × State :=
  let i := s.newId
  (i.1, { i.2 with strands := SMap.put i.2.strands i.1 x })

/-- The die supervisor learns of a lost context or continuation, type 3 (R89, R137). -/
def State.reportLost (s : State) (t : Nat) (sid : BitVec 32) (core state : Nat) (lin : BitVec 16) : State :=
  s.message t (lostMessage sid core state lin t)

/-! ## Accesses at the owner -/

/-- Perform what a request asks (R111, R115, R118). -/
def State.performOp (s : State) (k : Nat) : ReqOp → Answer × Nat × State
  | .load n => s.performRead k n
  | .write bs =>
    let r := s.performWrite k (placed bs)
    (if r.1 then .data [] else .fail 7, r.2)
  | .rmw f n b e => s.performRmw k n f b e

/-- What a request takes after its answer is in: four cycles to write a register (R87). -/
def answerExtra : Agent → Nat
  | .reg _ _ _ _ => 4
  | _ => 0

/-- Send a request for an agent on tile `t`, or perform it at once when the tile owns the target. -/
def State.request (s : State) (t : Nat) (tgt : Target) (owner k : Nat) (va : Word) (op : ReqOp) (agent : Agent)
    (lin : BitVec 16) (sup : Bool) : State :=
  if s.real owner = t then
    let r := s.performOp k op
    r.2.2.respond (s.now + r.2.1) ⟨agent, va, r.1⟩
  else s.send t owner (.req ⟨t, owner, tgt, va, op, agent, lin, sup, false⟩)

/-- A word of a join record is in, for the continuation `u` on tile `t`; both in, the birth follows 8 cycles later
(R137, R146). A failure births nothing. -/
def State.joinWord (s : State) (u idx : Nat) (ans : Answer) : State :=
  match s.strand u with
  | none => s
  | some x => match ans with
    | .fail _ => { s.reportLost x.tile 0 0 0 x.ctx.lin with strands := SMap.erase s.strands u }
    | .data bs =>
      let words := SMap.put x.prog.words idx (wordOf bs)
      let s := s.onStrand u (fun x => { x with prog := { x.prog with words := words } })
      if words.length = 2 then s.schedule (s.now + 8) 0 (.joinContinuation x.tile u) else s

/-- What the joining strand leaves its continuation (R68). -/
def heirCtx (p : Post) (h : Heir) : Ctx :=
  { (default : Ctx) with lin := p.lin, sup := p.sup, cls := p.cls, tvec := h.tvec, plim := h.plim, pmin := h.pmin, phold := h.phold }

/-- The count of a join record has reached zero at tile `t`: read cpc and carg, whatever has become of the joining strand
(R137). -/
def State.continuation (s : State) (t : Nat) (p : Post) (cpc carg : Target) (h : Heir) : State :=
  let a := s.addStrand (Strand.fresh ((heirCtx p h).birth t 0 0 (Vector.replicate 24 0) 1) t .continuation)
  let read (s : State) (idx : Nat) (tgt : Target) : State :=
    match s.locate t tgt with
    | none => s.joinWord a.1 idx (.fail 3)
    | some (owner, k) =>
      if s.real owner = t then
        let r := s.performRead k 8
        r.2.2.joinWord a.1 idx r.1
      else s.send t owner (.req ⟨t, owner, tgt, 0, .load 8, .join a.1 idx, p.lin, p.sup, false⟩)
  read (read a.2 0 cpc) 1 carg

/-- Perform a posted operation at the owner `t`: whether it was performed, and the access time (R119, R120). -/
def State.performPost (s : State) (t k : Nat) (p : Post) : Bool × Nat × State :=
  match p.op with
  | .rmw f n b =>
    let r := s.performRmw k n f b 0
    (match r.1 with | .data _ => true | .fail _ => false, r.2)
  | .piece bs => s.performWrite k bs
  | .join c a h =>
    let r := s.performRmw k 8 .dec 0 0
    match r.1 with
    | .fail _ => (false, r.2)
    | .data old => (true, r.2.1, if leValue old = 1 then r.2.2.continuation t p c a h else r.2.2)

/-- The partition of a target still holds the tile that performs it (R16, R50); what supervisor mode asks for passes (R273). -/
def State.accepts (s : State) (t src : Nat) (sup : Bool) : Target → Bool
  | .ls _ _ => sup || s.together t src
  | .tm p _ _ => sup || (decide (p < Config.partitions) && s.partOfTile t == p)
  | .md p _ _ => sup || (decide (p < Config.partitions) && s.partOfTile t == p)

/-- Where an access that has arrived at a tile is performed. -/
inductive Reach where
  | refuse
  | forward (owner : Nat)
  | hold
  | perform (k : Nat)
  deriving DecidableEq, Repr

/-- A tile is in hold for a domain: it has had the hold flit of a `domset` and not yet its descriptor (R277). -/
def State.domHolds (s : State) (t : Nat) : Target → Bool
  | .ls _ _ => false
  | .tm _ _ _ => false
  | .md p d _ => s.protos.any (fun e =>
      let x := e.2
      x.kind == 3 && x.part == p && x.dom == d && (x.phase == 1) == x.tiles.contains t && s.partOfTile t == p)

/-- The tile that a packet at its destination has come from. -/
def arrivalSrc : Event → Option Nat
  | .requestArrival r => some r.src
  | .postedArrival p => some p.src
  | .engineWriteArrival w => some w.src
  | .migrationArrival m => some m.src
  | .spawnatArrival m => some m.src
  | .parkContextArrival m => some m.src
  | .contextReturnArrival m => some m.src
  | .xchDataFlitArrival f => some f.src
  | .xchBindArrival b => some b.src
  | .xchBindReply r => some r.src
  | _ => none

/-- A packet of the pair waits at the destination's port, so that what comes after it waits behind it (R112, R297). -/
def State.behindHeld (s : State) (dst src : Nat) : Bool :=
  (s.tile (s.real dst)).domHeld.any (fun h => (arrivalSrc h.2.2).map s.real == some (s.real src))

/-- The packet under way waits at the tile's port (R267, R277). -/
def State.holdPacket (s : State) (t : Nat) : State :=
  s.onTile t (fun x => { x with domHeld := x.domHeld ++ [(s.arr, s.tie, s.event)] })

/-- The packets that wait at a tile's port come in, in this cycle, each before what arrives after it (R112, R277). -/
def State.releaseHeld (s : State) (t : Nat) : State :=
  (s.tile t).domHeld.foldl (fun s e => { s with agenda := insertEntry ⟨s.now, 2, e.1, e.2.1, e.2.2⟩ s.agenda })
    (s.onTile t (fun x => { x with domHeld := [] }))

/-- The tile's records are not yet read back: contexts and exchange flits that reach it wait at its port (R239, R267;
DESIGN CHOICE, log entry 67). -/
def State.unready (s : State) (t : Nat) : Bool := (s.tile t).halted && (s.part (s.partOfTile t)).mode == .restoring

/-- Decide an arriving access: refused by a retired tile or another partition, held by a `domset` or behind what waits there
of its pair, forwarded to the current owner, or performed here (R50, R58, R82, R112, R277). An access whose offset the new
descriptor does not map is refused, with cause 0x03 where it has an answer (R120 says so of posted operations alone: DESIGN
CHOICE, log entry 79). -/
def State.reach (s : State) (dst src : Nat) (sup : Bool) (tgt : Target) : Reach :=
  if s.gone dst then .refuse
  else if s.domHolds (s.real dst) tgt || s.behindHeld dst src then .hold
  else match s.locate (s.real dst) tgt with
    | none => .refuse
    | some (owner, k) =>
      if s.real owner ≠ s.real dst then .forward owner
      else if s.accepts (s.real dst) src sup tgt then .perform k else .refuse

/-- The request comes over a port of the module and not from a tile (R60). -/
def State.fromPort (s : State) (r : Req) : Bool :=
  match r.agent with
  | .job id => (SMap.find? s.jobs id).any (fun j => !j.fromTile)
  | _ => false

/-- Answer a request from the tile that performed or refused it, after the access time. -/
def State.answer (s : State) (t : Nat) (r : Req) (a : Nat) (ans : Answer) : State :=
  if s.fromPort r then s.schedule (s.now + a) 0 (.responseArrival ⟨r.agent, r.va, ans⟩)
  else s.schedule (s.now + a + answerExtra r.agent) 1 (.inject t r.src (.resp ⟨r.agent, r.va, ans⟩))

/-- The request comes from the owner's own tile and not over a port. -/
def State.fromHere (s : State) (r : Req) : Bool := r.src == r.dst && !(s.fromPort r)

/-- A request arrives (R111, R112, R254). One that the owner's own tile makes some cycles after its instruction is
performed in its cycle. -/
def State.requestArrives (s : State) (r : Req) : State :=
  let t := s.real r.dst
  if s.filtered t (.req r) then s
  else if r.bad then s.answer t r 0 (.fail 7)
  else match s.reach r.dst r.src r.sup r.tgt with
    | .refuse => s.answer t r 0 (.fail 3)
    | .forward o => s.send t o (.req { r with dst := o })
    | .hold => s.holdPacket t
    | .perform k =>
      if s.fromHere r then
        let p := s.performOp k r.op
        p.2.2.respond (s.now + p.2.1) ⟨r.agent, r.va, p.1⟩
      else match s.takeTurn t with
        | none => s.defer
        | some s =>
          let p := s.performOp k r.op
          p.2.2.answer t r p.2.1 p.1

/-- Acknowledge a posted operation, or refuse it, after the access time. -/
def State.acknowledge (s : State) (t : Nat) (p : Post) (a : Nat) (ok : Bool) : State :=
  s.schedule (s.now + a + 4) 1 (.inject t p.src (if ok then .ack p.uid p.num else .refusal p.uid p.num p.va))

/-- A posted operation arrives (R119, R120, R254). -/
def State.postedArrives (s : State) (p : Post) : State :=
  let t := s.real p.dst
  if s.filtered t (.post p) then s
  else if p.bad then s.acknowledge t p 0 false
  else match s.reach p.dst p.src p.sup p.tgt with
    | .refuse => s.acknowledge t p 0 false
    | .forward o => s.send t o (.post { p with dst := o })
    | .hold => s.holdPacket t
    | .perform k => match s.takeTurn t with
      | none => s.defer
      | some s =>
        let r := s.performPost t k p
        r.2.2.acknowledge t p r.2.1 r.1

/-! ## Migration (R79 to R84) -/

/-- Pinned by the pinning rule from this cycle on (R84). -/
def State.pinHere (s : State) (u : Nat) (hold : Nat) : State :=
  (s.onStrand u (fun x =>
    { x with pinEnd := s.now + hold, ctx := { x.ctx with rpin := true, hleft := BitVec.ofNat 32 hold, alt := 0 } })).schedule
    (s.now + hold) 0 (.pinHoldExpiry u (s.now + hold))

/-- The alternation count of a stop that would end at tile `d` (R84). -/
def Ctx.nextAlt (c : Ctx) (d : Nat) : BitVec 8 :=
  if c.prev.toNat = d ∧ c.nstop.toNat < c.pmin.toNat then (if c.alt = 255 then 255 else c.alt + 1) else 0

/-- The context leaves for tile `d`: it keeps its slot until the answer (R73, R81). What its stop fields were is kept for
a migration that restarts (R90). `tgt` is what the access names (R58). -/
def State.depart (s : State) (u : Nat) (x : Strand) (d : Nat) (alt : BitVec 8) (go : Bool) (va : Word) (tgt : Option Target) :
    State :=
  let p := Packet.mig ⟨u, x.tile, d, 0, false, go, false, tgt⟩
  let s := s.onStrand u (fun x =>
    { x with run := .held, packet := some p, asked := false,
             prog := { Prog.none with val := va, words := [(0, toWord x.ctx.prev), (1, toWord x.ctx.nstop), (2, toWord x.ctx.alt)] },
             ctx := { x.ctx with prev := x.ctx.cur, cur := BitVec.ofNat 12 d, nstop := 0, alt := alt } })
  s.send x.tile d p

/-- A context that has not left after all: its stop fields are what `depart` found (R90). -/
def Strand.undepart (x : Strand) : Ctx :=
  let w (i : Nat) : Word := SMap.getD x.prog.words i 0
  { x.ctx with cur := x.ctx.prev, prev := (w 0).setWidth 12, nstop := (w 1).setWidth 16, alt := (w 2).setWidth 8 }

/-- A roaming strand's access to an address of tile `d`: poison, the wait of R80, the pinning rule (R84), then the
migration; a strand that the rule pins goes on as `pinned` says. -/
def State.roam (s : State) (u : Nat) (x : Strand) (d : Nat) (tgt : Target) (va : Word) (pinned : State → Act) : Act :=
  match x.anyPoison with
  | some (c, v) => trapAct s c v
  | none =>
    if x.pending ≠ [] ∨ x.posted ≠ [] then waitAct s
    else
      let alt := x.ctx.nextAlt d
      if x.ctx.plim ≠ 0 ∧ x.ctx.plim.toNat ≤ alt.toNat then pinned (s.pinHere u x.ctx.phold.toNat)
      else .ok (s.depart u x d alt false va (some tgt))

/-- An access whose address is named: `here` performs it at the strand's own tile, `remote` sends it. A roaming strand
migrates to another owner (R79, R83). -/
def State.access (s : State) (u : Nat) (x : Strand) (n : Named) (va : Word) (here remote : State → Act) : Act :=
  match n with
  | .peer _ _ => remote s
  | .here tgt owner _ =>
    if s.real owner = x.tile then here s
    else if s.pinned u x then remote s
    else s.roam u x owner tgt va remote

/-! ## Loads and returning atomics -/

/-- The unit of the core is busy with the holder's vector memory instruction (R165). -/
def State.vectorMemBusy (s : State) (u : Nat) (x : Strand) : Bool :=
  match s.vclaimCore x.tile u with
  | some c => s.now < (s.vunit x.tile c).memBusy
  | none => false

/-- Send or perform a load or atomic; the register is pending until its answer (R72, R115). -/
def State.ask (s : State) (u : Nat) (x : Strand) (n : Named) (va : Word) (op : ReqOp) (d : Reg) (signed : Bool) : Act :=
  if 8 ≤ x.pending.length then stallAct s
  else
    let agent := Agent.reg u x.ids d.toNat signed
    let s := s.onStrand u (fun x => { x with pending := x.pending ++ [(x.ids, d.toNat)], ids := x.ids + 1 })
    let s := match n with
      | .here tgt owner k => s.request x.tile tgt owner k va op agent x.ctx.lin x.ctx.sup
      | .peer m o => s.peerAsk x.tile m o agent va op
    .ok (s.retire u)

/-- A register's answer is in: it is written, or poisoned with the cause of its first read (R115, R116). -/
def Strand.answered (x : Strand) (id reg : Nat) (signed : Bool) (va : Word) (ans : Answer) : Strand :=
  if !(x.pending.contains (id, reg)) then x
  else
    let x := { x with pending := x.pending.erase (id, reg) }
    match ans with
    | .fail c => if reg < 24 then { x with poison := SMap.put x.poison reg (if c = 7 then 7 else 3, va) } else x
    | .data bs =>
      let v := wordOf bs
      let n := 8 * bs.length
      x.setReg (BitVec.ofNat 5 reg) (if signed ∧ n < 64 then BitVec.ofInt 64 (Int.bmod v.toNat (2 ^ n)) else v)

/-! ## Posted operations (R119) -/

/-- outcnt of the strands of a core (R119). -/
def State.coreOut (s : State) (t c : Nat) : Nat :=
  (s.strands.map (fun e =>
    if e.2.tile = t ∧ e.2.place.core = c ∧ (match e.2.place with
      | .slot _ _ _ => true | .kennel _ _ => true | .lent _ _ => true | _ => false) = true
    then e.2.posted.length else 0)).sum

/-- One more posted operation may leave the strand's core (R119). -/
def State.mayPost (s : State) (x : Strand) : Bool :=
  s.coreOut x.tile x.place.core < (s.regs x.tile).ocap

/-- The class of a target: 0 local store, 1 module memory (R121). -/
def targetClass : Target → Nat
  | .ls _ _ => 0
  | .tm _ _ _ => 1
  | .md _ _ _ => 1

/-- Post an operation: it takes the next number, and outcnt rises (R119). An operation on this tile is performed at
once and acknowledged 4 cycles later. -/
def State.post (s : State) (u : Nat) (x : Strand) (n : Named) (va : Word) (op : PostOp) : State :=
  let num := x.ctx.pseq.toNat
  let note (cls owner : Nat) (s : State) : State := s.onStrand u (fun x =>
    { x with ctx := { x.ctx with pseq := x.ctx.pseq + 1 }, posted := x.posted ++ [⟨num, cls, owner⟩] })
  match n with
  | .here tgt owner k =>
    let p : Post := ⟨x.tile, owner, tgt, va, op, u, num, x.ctx.lin, x.ctx.sup, x.ctx.cls, false⟩
    let s := note (targetClass tgt) (s.real owner) s
    if s.real owner = x.tile then
      let r := s.performPost x.tile k p
      r.2.2.schedule (s.now + 4) 0
        (if r.1 then .acknowledgementArrival u num else .postedRefusalArrival u num va)
    else s.send x.tile owner (.post p)
  | .peer m o =>
    let s := note 2 0 s
    match op with
    | .rmw f k b => s.peerPost x.tile m o u num va f k b
    | _ => s

/-- An operation whose target no descriptor maps any more is numbered and refused, as at an owner on this tile (R58, R120;
DESIGN CHOICE, log entry 12). -/
def State.postUnmapped (s : State) (u : Nat) (x : Strand) (tgt : Target) (va : Word) : State :=
  (s.onStrand u (fun x => { x with
    ctx := { x.ctx with pseq := x.ctx.pseq + 1 }, posted := x.posted ++ [⟨x.ctx.pseq.toNat, targetClass tgt, x.tile⟩] })).schedule
      (s.now + 4) 0 (.postedRefusalArrival u x.ctx.pseq.toNat va)

/-- A posted operation is acknowledged: outcnt falls (R119). -/
def Strand.acked (x : Strand) (num : Nat) : Strand := { x with posted := x.posted.filter (fun p => p.num != num) }

/-- Waits of a strand that end with no effect when a trap event is due (R260): the strand becomes ready in place and
takes the event at the instruction, which has not retired. A claim leaves its place in the wait order. -/
def State.leaveWait (s : State) (u : Nat) : State :=
  match s.strand u with
  | none => s
  | some x => match x.run with
    | .waiting .supervisor => s
    | .waiting .vclaim =>
      State.makeReady { s with vunits := s.vunits.map (fun e =>
        (e.1, { e.2 with waiters := e.2.waiters.filter (· != u) })) } u
    | .waiting .mclaim =>
      (s.onMatrix x.tile (fun m => { m with waiters := m.waiters.filter (· != u) })).makeReady u
    | .waiting (.xclose ch) =>
      (s.onXchan x.tile ch (fun c => { c with closers := c.closers.filter (· != u) })).makeReady u
    | .waiting _ => s.makeReady u
    | _ => s

/-- Everything that a system release waits for has come back (R121). -/
def Strand.quiet (x : Strand) : Bool := x.pending.isEmpty && x.posted.isEmpty

end Sys2Proof.Machine
end

