-- ==== Sys2Proof/Machine/Memory.lean ====
section
/-! DEFINITION. Loads, stores, atomics, posted operations, fences (R115 to R121), `park`, `await`, `arrive` (R122, R139,
R140), and the watch table (R141 to R143). -/

namespace Sys2Proof.Machine
open Sys2Proof

/-! ## Loads (R115) -/

/-- Load `n` bytes at `va` into `d`, here, by request, or after a migration. -/
def loadAt (n : Nat) (signed : Bool) (d : Reg) (va : Word) (u : Nat) (x : Strand) (s : State) : Act :=
  if va.toNat % n ≠ 0 then trapAct s 2 va
  else if s.vectorMemBusy u x then stallAct s
  else do
    let r ← s.translate u x va permR
    r.2.access u x r.1 va (fun s => s.ask u x r.1 va (.load n) d signed) (fun s => s.ask u x r.1 va (.load n) d signed)

/-- A load of the M format. -/
def load (n : Nat) (signed : Bool) (d a : Reg) (i : BitVec 11) (s : State) : Host.Outcome State Fault Refusal :=
  issue [a] [d] (fun u x s => loadAt n signed d (x.reg a + offsetOf i n) u x s) s

/-- `ldb` (R115). -/
def execLdb (d a : BitVec 5) (i : BitVec 11) (s : State) : Host.Outcome State Fault Refusal := load 1 false d a i s
/-- `ldh` (R115). -/
def execLdh (d a : BitVec 5) (i : BitVec 11) (s : State) : Host.Outcome State Fault Refusal := load 2 false d a i s
/-- `ldw` (R115). -/
def execLdw (d a : BitVec 5) (i : BitVec 11) (s : State) : Host.Outcome State Fault Refusal := load 4 false d a i s
/-- `ldd` (R115). -/
def execLdd (d a : BitVec 5) (i : BitVec 11) (s : State) : Host.Outcome State Fault Refusal := load 8 false d a i s
/-- `ldbs` (R115). -/
def execLdbs (d a : BitVec 5) (i : BitVec 11) (s : State) : Host.Outcome State Fault Refusal := load 1 true d a i s
/-- `ldhs` (R115). -/
def execLdhs (d a : BitVec 5) (i : BitVec 11) (s : State) : Host.Outcome State Fault Refusal := load 2 true d a i s
/-- `ldws` (R115). -/
def execLdws (d a : BitVec 5) (i : BitVec 11) (s : State) : Host.Outcome State Fault Refusal := load 4 true d a i s

/-! ## Stores (R117) -/

/-- A store on the strand's own tile: performed at issue, or cause 0x07 for part of a poisoned granule (R117). -/
def storeHere (n : Nat) (v va : Word) (u k : Nat) (s : State) : Act :=
  let r := s.performWrite k (placed (bytesOf n v))
  if r.1 then .ok (r.2.2.retire u) else trapAct s 7 va

/-- A posted operation leaves once its core has room for it (R119). -/
def postAct (u : Nat) (x : Strand) (n : Named) (va : Word) (op : PostOp) (s : State) : Act :=
  if s.mayPost x then .ok ((s.post u x n va op).retire u) else waitAct s

/-- The number of the first byte that a name stands for on its owner's tile. -/
def Named.cell : Named → Nat
  | .here _ _ k => k
  | .peer _ o => o

/-- Store the low `n` bytes of `v` at `va`. -/
def storeAt (n : Nat) (v va : Word) (u : Nat) (x : Strand) (s : State) : Act :=
  if va.toNat % n ≠ 0 then trapAct s 2 va
  else if s.vectorMemBusy u x then stallAct s
  else do
    let r ← s.translate u x va permW
    r.2.access u x r.1 va (storeHere n v va u r.1.cell) (postAct u x r.1 va (.rmw .st n v))

/-- A store of the M format: rd holds the data. -/
def store (n : Nat) (d a : Reg) (i : BitVec 11) (s : State) : Host.Outcome State Fault Refusal :=
  issue [d, a] [] (fun u x s => storeAt n (x.reg d) (x.reg a + offsetOf i n) u x s) s

/-- `stb` (R117). -/
def execStb (d a : BitVec 5) (i : BitVec 11) (s : State) : Host.Outcome State Fault Refusal := store 1 d a i s
/-- `sth` (R117). -/
def execSth (d a : BitVec 5) (i : BitVec 11) (s : State) : Host.Outcome State Fault Refusal := store 2 d a i s
/-- `stw` (R117). -/
def execStw (d a : BitVec 5) (i : BitVec 11) (s : State) : Host.Outcome State Fault Refusal := store 4 d a i s
/-- `std` (R117). -/
def execStd (d a : BitVec 5) (i : BitVec 11) (s : State) : Host.Outcome State Fault Refusal := store 8 d a i s

/-! ## Returning atomics (R118) -/

/-- Read-modify-write `n` bytes at `va` and receive the old value in `d`. -/
def amoAt (f : Rmw) (n : Nat) (d : Reg) (va b e : Word) (u : Nat) (x : Strand) (s : State) : Act :=
  if va.toNat % n ≠ 0 then trapAct s 2 va
  else if s.vectorMemBusy u x then stallAct s
  else do
    let r ← s.translate u x va permRW
    let op := ReqOp.rmw f n b e
    r.2.access u x r.1 va (fun s => s.ask u x r.1 va op d false) (fun s => s.ask u x r.1 va op d false)

/-- A returning atomic other than `acas`. -/
def amo (f : Rmw) (d a b : Reg) (z : Bool) (s : State) : Host.Outcome State Fault Refusal :=
  issue [a, b] [d] (fun u x s => amoAt f (amoSize z) d (x.reg a) (x.reg b) 0 u x s) s

/-- `aadd` (R118). -/
def execAadd (d a b : BitVec 5) (z : Bool) (s : State) : Host.Outcome State Fault Refusal := amo .add d a b z s
/-- `aand` (R118). -/
def execAand (d a b : BitVec 5) (z : Bool) (s : State) : Host.Outcome State Fault Refusal := amo .and d a b z s
/-- `aor` (R118). -/
def execAor (d a b : BitVec 5) (z : Bool) (s : State) : Host.Outcome State Fault Refusal := amo .or d a b z s
/-- `axor` (R118). -/
def execAxor (d a b : BitVec 5) (z : Bool) (s : State) : Host.Outcome State Fault Refusal := amo .xor d a b z s
/-- `amin` (R118). -/
def execAmin (d a b : BitVec 5) (z : Bool) (s : State) : Host.Outcome State Fault Refusal := amo .min d a b z s
/-- `amins` (R118). -/
def execAmins (d a b : BitVec 5) (z : Bool) (s : State) : Host.Outcome State Fault Refusal := amo .mins d a b z s
/-- `amax` (R118). -/
def execAmax (d a b : BitVec 5) (z : Bool) (s : State) : Host.Outcome State Fault Refusal := amo .max d a b z s
/-- `amaxs` (R118). -/
def execAmaxs (d a b : BitVec 5) (z : Bool) (s : State) : Host.Outcome State Fault Refusal := amo .maxs d a b z s
/-- `aswap` (R118). -/
def execAswap (d a b : BitVec 5) (z : Bool) (s : State) : Host.Outcome State Fault Refusal := amo .swap d a b z s
/-- `acas`: reads rd as the expected value (R118). -/
def execAcas (d a b : BitVec 5) (z : Bool) (s : State) : Host.Outcome State Fault Refusal :=
  issue [d, a, b] [d] (fun u x s => amoAt .cas (amoSize z) d (x.reg a) (x.reg b) (x.reg d) u x s) s

/-! ## Posted operations (R119) -/

/-- Post `f` on `n` bytes at `va`. -/
def postAt (f : Rmw) (n : Nat) (va b : Word) (u : Nat) (x : Strand) (s : State) : Act :=
  if va.toNat % n ≠ 0 then trapAct s 2 va
  else if s.vectorMemBusy u x then stallAct s
  else do
    let r ← s.translate u x va (postPerm f)
    postAct u x r.1 va (.rmw f n b) r.2

/-- A posted operation of the instruction set. -/
def posted (f : Rmw) (a b : Reg) (z : Bool) (s : State) : Host.Outcome State Fault Refusal :=
  issue [a, b] [] (fun u x s => postAt f (amoSize z) (x.reg a) (x.reg b) u x s) s

/-- `post.add` (R119). -/
def execPostAdd (a b : BitVec 5) (z : Bool) (s : State) : Host.Outcome State Fault Refusal := posted .add a b z s
/-- `post.and` (R119). -/
def execPostAnd (a b : BitVec 5) (z : Bool) (s : State) : Host.Outcome State Fault Refusal := posted .and a b z s
/-- `post.or` (R119). -/
def execPostOr (a b : BitVec 5) (z : Bool) (s : State) : Host.Outcome State Fault Refusal := posted .or a b z s
/-- `post.xor` (R119). -/
def execPostXor (a b : BitVec 5) (z : Bool) (s : State) : Host.Outcome State Fault Refusal := posted .xor a b z s
/-- `post.min` (R119). -/
def execPostMin (a b : BitVec 5) (z : Bool) (s : State) : Host.Outcome State Fault Refusal := posted .min a b z s
/-- `post.mins` (R119). -/
def execPostMins (a b : BitVec 5) (z : Bool) (s : State) : Host.Outcome State Fault Refusal := posted .mins a b z s
/-- `post.max` (R119). -/
def execPostMax (a b : BitVec 5) (z : Bool) (s : State) : Host.Outcome State Fault Refusal := posted .max a b z s
/-- `post.maxs` (R119). -/
def execPostMaxs (a b : BitVec 5) (z : Bool) (s : State) : Host.Outcome State Fault Refusal := posted .maxs a b z s
/-- `post.st` (R119). -/
def execPostSt (a b : BitVec 5) (z : Bool) (s : State) : Host.Outcome State Fault Refusal := posted .st a b z s

/-! ## Fences (R121) -/

/-- Every load of the strand has completed, the pieces of its vector loads included (R121, R165). -/
def State.loadsDone (s : State) (u : Nat) (x : Strand) : Bool :=
  x.pending.isEmpty && (match s.vclaimCore x.tile u with
    | some c => (s.vunit x.tile c).loads == 0
    | none => true)

/-- A release of this scope waits for a posted operation (R121). -/
def inScope (t : BitVec 3) (px pm pl : Bool) (tile : Nat) (p : Posted) : Bool :=
  if p.cls = 2 then px && t == 3
  else (if p.cls = 0 then pl else pm) && (t != 1 || p.owner == tile)

/-- Everything a system release waits for has come back: loads and posted operations (R121). -/
def State.released (s : State) (u : Nat) (x : Strand) : Bool := s.loadsDone u x && x.posted.isEmpty

/-- A fence retires when its condition holds; it keeps its slot until then. R121 has it take a pending poison trap by R116,
whose list names no fence, and a fence reads no register: it takes none (DESIGN CHOICE, log entry 61). -/
def fenceUntil (ok : Nat → Strand → State → Bool) (s : State) : Host.Outcome State Fault Refusal :=
  issue [] [] (fun u x s =>
    if s.vectorMemBusy u x then stallAct s else if !(ok u x s) then waitAct s else .ok (s.retire u)) s

/-- The condition of a release. -/
def releaseDone (t : BitVec 3) (px pm pl : Bool) (u : Nat) (x : Strand) (s : State) : Bool :=
  s.loadsDone u x && x.posted.all (fun p => !(inScope t px pm pl x.tile p))

/-- `fence.rel` (R121). -/
def execFenceRel (t : BitVec 3) (x m l : Bool) (s : State) : Host.Outcome State Fault Refusal :=
  fenceUntil (releaseDone t x m l) s

/-- `fence.acq`: waits for loads; agent and set change nothing further (R121). -/
def execFenceAcq (_t : BitVec 3) (_x _m _l : Bool) (s : State) : Host.Outcome State Fault Refusal :=
  fenceUntil (fun u x s => s.loadsDone u x) s

/-- `fence.full`: both conditions (R121). -/
def execFenceFull (t : BitVec 3) (x m l : Bool) (s : State) : Host.Outcome State Fault Refusal :=
  fenceUntil (fun u y s => s.loadsDone u y && releaseDone t x m l u y s) s

/-! ## The watch table (R122, R141) -/

/-- The word is one that the strand goes on waiting for: equal to v, or of the phase last seen (R122, R140). -/
def sameWord (isAwait : Bool) (w v : Word) : Bool := if isAwait then w.getLsbD 63 == v.getLsbD 0 else w == v

/-- Enter the watch table; a full table displaces its oldest entry (R141). -/
def State.enterWatch (s : State) (t u cell : Nat) : State :=
  let s := if (s.regs t).wdepth ≤ (s.tile t).watch.length then
      match (s.tile t).watch with
      | w :: _ => s.wake t w
      | [] => s
    else s
  let i := s.newId
  i.2.onTile t (fun x => { x with watch := x.watch ++ [⟨cell, u, i.1⟩] })

/-- What the comparison at the owner finds. -/
inductive Compared where
  | poisoned
  | differs
  | parks
  deriving DecidableEq, Repr

/-- Compare at the owner (R122). -/
def State.compareAt (s : State) (k : Nat) (isAwait : Bool) (v : Word) : Compared × State :=
  let r := s.performRead k 8
  (match r.1 with
    | .fail _ => .poisoned
    | .data bs => if sameWord isAwait (wordOf bs) v then .parks else .differs, r.2.2)

/-- Park at the strand's own tile, or go on, or meet poison (R122). -/
def parkHere (isAwait : Bool) (va v : Word) (u t owner k : Nat) (s : State) : Act :=
  let r := s.compareAt k isAwait v
  match r.1 with
  | .poisoned => trapAct s 7 va
  | .differs => .ok (r.2.retire u)
  | .parks => .ok ((r.2.enterWatch t u k).waitFor u (.park owner isAwait))

/-- A pinned strand's context leaves for the owner to compare and park there (R83, R142). -/
def travelToPark (isAwait : Bool) (va v : Word) (tgt : Target) (u : Nat) (x : Strand) (owner : Nat) (s : State) : Act :=
  let p := Packet.parkCtx ⟨u, x.tile, owner, 0, false, false, false, some tgt⟩
  let s := s.onStrand u (fun x =>
    { x with run := .held, packet := some p, asked := false, home := x.tile, watch := some (tgt, v, isAwait),
             prog := { Prog.none with val := va } })
  .ok (s.send x.tile owner p)

/-- `park` and `await` (R122, R140). A context that met poison at the owner is home again and traps here (R142). -/
def parkAt (isAwait : Bool) (va v : Word) (u : Nat) (x : Strand) (s : State) : Act :=
  if x.prog.phase = 4 then trapAct s 7 x.prog.val
  else if va.toNat % 8 ≠ 0 then trapAct s 2 va
  else if s.vectorMemBusy u x then stallAct s
  else do
    let r ← s.translate u x va permR
    match r.1 with
    | .peer _ _ => trapAct s 3 va
    | .here tgt owner k =>
      match x.anyPoison with
      | some (c, w) => trapAct r.2 c w
      | none =>
        if !(r.2.released u x) then waitAct r.2
        else
          let away := travelToPark isAwait va v tgt u x owner
          r.2.access u x r.1 va (parkHere isAwait va v u x.tile owner k) away

/-- `park` (R122). -/
def execPark (a b : BitVec 5) (s : State) : Host.Outcome State Fault Refusal :=
  issue [a, b] [] (fun u x s => parkAt false (x.reg a) (x.reg b) u x s) s

/-- `await`: the phase bit is compared with bit 0 of rb (R140). -/
def execAwait (a b : BitVec 5) (s : State) : Host.Outcome State Fault Refusal :=
  issue [a, b] [] (fun u x s => parkAt true (x.reg a) (x.reg b) u x s) s

/-- A woken or returning `park` continues at pc + 4; `await` executes again (R122, R140). -/
def State.resumePark (s : State) (u : Nat) (isAwait : Bool) : State :=
  let s := s.onStrand u (fun x => { x with watch := none, prog := Prog.none })
  if isAwait then s.makeReady u else s.retireWaiting u

/-- The context of a pinned strand leaves tile `t` for its own tile (R142). What it does there is in its phase:
2 continue, 3 execute again, 4 meet poison. -/
def State.returnHome (s : State) (u t : Nat) (phase : Nat) : State :=
  match s.strand u with
  | none => s
  | some x =>
    let p := Packet.ctxReturn ⟨u, t, x.home, 0, false, false, false, none⟩
    let s := s.onStrand u (fun x => { x with run := .held, packet := some p, asked := false, prog := { x.prog with phase := phase } })
    s.send t x.home p

/-- A context whose packet has been refused gives its journey up: nothing is kept for it at the tile that it was to reach
(R78, R260). -/
def State.callOff (s : State) (u t : Nat) : State :=
  (s.forget t (· == u)).onStrand u (fun x =>
    { x with run := .ready, packet := none, asked := false, watch := none, prog := Prog.none })

/-- A strand meets a deferred trap: it leaves its wait at once and takes the trap at that instruction. A watcher leaves
the table, from another tile by its own; a context that was refused, and stalls in its slot, gives its journey up; one that
travels takes the trap later (R70, R260). -/
def State.interrupt (s : State) (u : Nat) : State :=
  match s.strand u with
  | none => s
  | some x => match x.run with
    | .waiting (.park _ _) =>
      let s := s.onTile x.tile (fun t => { t with watch := t.watch.filter (fun w => w.uid != u) })
      if x.home ≠ x.tile ∧ x.watch.isSome then s.returnHome u x.tile 3
      else (s.onStrand u (fun x => { x with watch := none, prog := Prog.none })).leaveWait u
    | .held =>
      match x.packet, x.asked with
      | some (.parkCtx m), true => s.callOff u (s.real m.dst)
      | some _, _ => s
      | none, _ => if x.watch.isNone && x.prog.phase != 0 then s.onStrand u (fun x => { x with run := .ready }) else s
    | _ => s.leaveWait u

/-- A watcher whose turn in the wake sequence has come (R141, R142, R143). One that is cancelled or that has left its wait
by a trap before its turn uses up its cycle of the sequence (DESIGN CHOICE, log entry 65). -/
def State.watcherReady (s : State) (t : Nat) : State :=
  match (s.tile t).waking with
  | [] => s
  | (_, _, u) :: rest =>
    let s := s.onTile t (fun x => { x with waking := rest })
    match s.strand u with
    | none => s
    | some x => match x.run with
      | .waiting (.park _ isAwait) =>
        if x.marked.isSome then s
        else if x.home ≠ t ∧ x.watch.isSome then s.returnHome u t (if isAwait then 3 else 2)
        else s.resumePark u isAwait
      | _ => s

/-- `watcherReady`: the next watcher of a wake sequence becomes ready (R143). -/
def execWatcherReady (s : State) : Host.Outcome State Fault Refusal :=
  onEvent (fun e => match e with | .watcherReady t => some (s.watcherReady t) | _ => none) s

/-! ## Arrivals at a rendezvous (R139) -/

/-- `arrive`: a released arrival (R139). -/
def arriveAt (va : Word) (u : Nat) (x : Strand) (s : State) : Act :=
  if va.toNat % 8 ≠ 0 then trapAct s 2 va
  else if s.vectorMemBusy u x then stallAct s
  else do
    let r ← s.translate u x va permRW
    match r.1 with
    | .peer _ _ => trapAct s 3 va
    | .here _ _ _ => if !(r.2.released u x) then waitAct r.2 else postAct u x r.1 va (.rmw .arrive 8 0) r.2

/-- `arrive` (R139). -/
def execArrive (a : BitVec 5) (s : State) : Host.Outcome State Fault Refusal :=
  issue [a] [] (fun u x s => arriveAt (x.reg a) u x s) s

/-! ## Arrivals at an owner and at a source -/

/-- `requestArrival`: a request is performed at its owner and answered (R111, R112). -/
def execRequestArrival (s : State) : Host.Outcome State Fault Refusal :=
  onEvent (fun e => match e with | .requestArrival r => some (s.requestArrives r) | _ => none) s

/-- `postedArrival`: a posted operation is performed at its owner, or refused (R119, R120). -/
def execPostedArrival (s : State) : Host.Outcome State Fault Refusal :=
  onEvent (fun e => match e with | .postedArrival p => some (s.postedArrives p) | _ => none) s

/-- `acknowledgementArrival`: outcnt falls (R119). -/
def execAcknowledgementArrival (s : State) : Host.Outcome State Fault Refusal :=
  onEvent (fun e => match e with
    | .acknowledgementArrival u n => some (s.onStrand u (fun x => x.acked n))
    | _ => none) s

/-- A refusal comes back: outcnt falls and a deferred refusal is pending; a strand that waits in an instruction leaves
the wait (R120, R260). -/
def State.postedRefused (s : State) (u n : Nat) (va : Word) : State :=
  (s.onStrand u (fun x => { x.acked n with refusals := x.refusals ++ [(n, va)] })).interrupt u

/-- `postedRefusalArrival` (R120). -/
def execPostedRefusalArrival (s : State) : Host.Outcome State Fault Refusal :=
  onEvent (fun e => match e with | .postedRefusalArrival u n va => some (s.postedRefused u n va) | _ => none) s

/-- `deferredRefusalTrap`: the oldest pending refusal is taken at the boundary (R120, R257). -/
def execDeferredRefusalTrap (s : State) : Host.Outcome State Fault Refusal :=
  onEvent (fun e => match e with
    | .deferredRefusalTrap u => some (match s.strand u with
      | none => s
      | some x => match x.refusals with
        | [] => s
        | (n, va) :: rest =>
          ((s.onStrand u (fun x => { x with refusals := rest })).takeRefusal u n va).usedSlot u x)
    | _ => none) s

/-! ## Translation, instruction cache and refresh -/

/-- `walkEntryResponse` (R51). -/
def execWalkEntryResponse (s : State) : Host.Outcome State Fault Refusal :=
  onEvent (fun e => match e with | .walkEntryResponse w a => some (s.walkEntry w a) | _ => none) s

/-- `icacheFill` (R61, R63). -/
def execIcacheFill (s : State) : Host.Outcome State Fault Refusal :=
  onEvent (fun e => match e with | .icacheFill t l a => some (s.icacheFilled t l a) | _ => none) s

/-- `icacheParityRefill`: the line is discarded; the next fetch fills it again, with no trap (R63). -/
def execIcacheParityRefill (s : State) : Host.Outcome State Fault Refusal :=
  onEvent (fun e => match e with
    | .icacheParityRefill t l => some (s.onTile t (fun x => { x with icache := SMap.erase x.icache l }))
    | _ => none) s

/-- `dramRefresh`: a refresh takes a memory slot; its cycles are in the miss that meets it (R87, R255). -/
def execDramRefresh (s : State) : Host.Outcome State Fault Refusal :=
  onEvent (fun e => match e with | .dramRefresh _ => some s | _ => none) s

end Sys2Proof.Machine
end

