-- ==== Sys2Proof/Machine/Buffers.lean ====
section
/-! DEFINITION. Circular buffers: counters and slots (R198 to R200), sides (R201), counts and who they wake (R202,
R216), the CB instructions (R217 to R221), and records read as requests. -/

namespace Sys2Proof.Machine
open Sys2Proof

/-- Bits [lo+n-1 : lo] of a register as a number. -/
def bits (w : Word) (lo n : Nat) : Nat := w.toNat / 2 ^ lo % 2 ^ n

/-! ## Records read as requests (R193, R217, R277, R279) -/

/-- Translate the addresses of `n` words from `va` on. A record that is read as loads may lie in peer memory (`peers`; R115,
R193, R277, R279); a descriptor may not (R217). -/
def wordTargets (peers : Bool) (u : Nat) (x : Strand) (va : Word) : Nat → State → Except Stop (List (Word × Named) × State)
  | 0, s => .ok ([], s)
  | n + 1, s => do
    let front ← wordTargets peers u x va n s
    let a := va + BitVec.ofNat 64 (8 * n)
    let r ← front.2.translate u x a permR
    match r.1 with
    | .peer m o => if peers then .ok (front.1 ++ [(a, .peer m o)], r.2) else .error (.trap s 3 va false)
    | .here tgt o k => .ok (front.1 ++ [(a, .here tgt o k)], r.2)

/-- Ask for word `idx` of a strand's record. -/
def State.askWord (s : State) (u : Nat) (x : Strand) (idx : Nat) (va : Word) : Named → State
  | .here tgt o k => s.request x.tile tgt o k va (.load 8) (.word u idx) x.ctx.lin x.ctx.sup
  | .peer m o => s.peerAsk x.tile m o (.word u idx) va (.load 8)

/-- Ask for `n` words of a record at `va`; the strand keeps its barrel slot, in phase `phase`, until they are in. The pieces of
a vector store before it have been sent by then (R165, R297). A word is answered under a number that no earlier request of
the strand has used. -/
def askWords (peers : Bool) (va : Word) (n phase : Nat) (u : Nat) (x : Strand) (s : State) : Act :=
  if s.vectorMemBusy u x then stallAct s
  else do
  let r ← wordTargets peers u x va n s
  let s := r.2.onStrand u (fun y =>
    { y with ids := x.ids + n, run := .stalled, prog := { Prog.none with phase := phase, val := BitVec.ofNat 64 x.ids } })
  .ok (((List.range n).zip r.1).foldl (fun s e => s.askWord u x (x.ids + e.1) e.2.1 e.2.2) s)

/-- A word of a record is in, or has failed; the failure of lowest address is kept. -/
def Strand.wordAnswered (x : Strand) (idx : Nat) (va : Word) (ans : Answer) : Strand :=
  if x.prog.phase = 0 ∨ idx < x.prog.val.toNat then x
  else match ans with
    | .data bs => { x with prog := { x.prog with words := SMap.put x.prog.words idx (wordOf bs) } }
    | .fail c =>
      let bad := match x.prog.bad with
        | some (d, w) => if va.toNat < w.toNat then some (if c = 7 then 7 else 3, va) else some (d, w)
        | none => some (if c = 7 then 7 else 3, va)
      { x with prog := { x.prog with words := SMap.put x.prog.words idx 0, bad := bad } }

/-- Go on with the words once all `n` are in; a failed one traps with its address. -/
def gotWords (n : Nat) (x : Strand) (s : State) (k : List Word → State → Act) : Act :=
  if x.prog.words.length < n then stallAct s
  else match x.prog.bad with
    | some (c, va) => trapAct s c va
    | none => k (x.prog.words.map (·.2)) s

/-- The address of a record of doublewords (R217). -/
def recordAt (va : Word) (s : State) (k : State → Act) : Act :=
  if va.toNat % 8 ≠ 0 then trapAct s 2 va else k s

/-! ## Counters and slots (R199, R200) -/

def Cb.filled (c : Cb) : Nat := (c.produced - c.consumed).toNat
def Cb.space (c : Cb) : Nat := c.count - c.filled
/-- The position of the slot with an index, on the producing side. -/
def Cb.prodPos (c : Cb) (i : BitVec 32) : Nat := (BitVec.ofNat 32 c.ppos + (i - c.produced)).toNat % c.count
/-- The position of the slot with an index, on the consuming side. -/
def Cb.consPos (c : Cb) (i : BitVec 32) : Nat := (BitVec.ofNat 32 c.cpos + (i - c.consumed)).toNat % c.count
/-- The local-store offset of a position. -/
def Cb.offset (c : Cb) (pos : Nat) : Nat := c.base + 64 * c.size * pos
/-- The local-store address of a slot position (R216). -/
def slotVa (t : Nat) (c : Cb) (pos : Nat) : Word := BitVec.ofNat 64 (0xFE * 2 ^ 56 + t * 2 ^ 32 + c.offset pos)
/-- The first word of a slot's header (R200). -/
def headerWord (stamp : BitVec 32) (cols rows fmt ltag : Nat) : Word :=
  BitVec.ofNat 64 (stamp.toNat * 2 ^ 32 + cols * 2 ^ 16 + rows * 2 ^ 8 + fmt * 16 + ltag)

/-! ## Who learns of a change (R216, R218, R233) -/

/-- The exchange channels of a tile that are bound to a handle at this end. -/
def State.boundChans (s : State) (t h : Nat) (sender : Bool) : List Nat :=
  (List.range 4).filter (fun c =>
    let x := s.xchan t c
    x.h == h && x.sender == sender && (x.st == 1 || x.st == 2 || x.st == 3))

/-- The handle is the in-CB of a channel in error (R218, R236). -/
def State.inError (s : State) (t h : Nat) : Bool := (s.boundChans t h false).any (fun c => (s.xchan t c).err)

/-- The handle is bound to a channel in error, at either end (R218). -/
def State.boundInError (s : State) (t h : Nat) : Bool :=
  s.inError t h || (s.boundChans t h true).any (fun c => (s.xchan t c).err)

/-- A permit of a receive end is due in this cycle; several causes send one (R233). -/
def State.permitDue (s : State) (t c : Nat) : State :=
  if (s.xchan t c).stamp = s.now then s
  else (s.onXchan t c (fun x => { x with stamp := s.now })).schedule s.now 4 (.xchRefreshTimer t c s.now)

/-- Engines of a tile look again in a cycle. -/
def State.kickEngines (s : State) (t due : Nat) : State :=
  let s := if (s.matrix t).phase = 1 then s.schedule due 1 (.matrixStepFire t) else s
  let s := if (s.fetch t).chans.toList.any (fun c => !c.cmds.isEmpty) then s.schedule due 1 (.fetchReadIssue t) else s
  if (List.range 4).any (fun c => (s.xchan t c).sender && (s.xchan t c).st == 1) then s.schedule due 1 (.xchSlotStart t)
  else s

/-- Strands that wait on a handle become ready in place in the next cycle (R218). -/
def State.wakeCb (s : State) (t h : Nat) : State :=
  (s.strands.filter (fun e => e.2.tile == t &&
    (e.2.run == .waiting (.cbwait h) || e.2.run == .waiting (.cbspace h)))).foldl
    (fun s e => s.makeReadyAt e.1 (s.now + 1)) s

/-- A handle has changed: strands and engines that wait on it see it in the next cycle. -/
def State.cbChanged (s : State) (t h : Nat) : State := (s.wakeCb t h).kickEngines t (s.now + 1)

/-- produced advances by one (R199, R202). A receive end sends a permit. -/
def State.cbProduced (s : State) (t h : Nat) : State :=
  let s := (s.onCb t h (fun c =>
    { c with produced := c.produced + 1, ppos := (c.ppos + 1) % c.count })).cbChanged t h
  (s.boundChans t h false).foldl (fun s c => s.permitDue t c) s

/-- consumed advances by one (R199, R202). A receive end sends a permit (R220, R233). -/
def State.cbConsumed (s : State) (t h : Nat) : State :=
  let s := (s.onCb t h (fun c =>
    { c with consumed := c.consumed + 1, cpos := (c.cpos + 1) % c.count })).cbChanged t h
  (s.boundChans t h false).foldl (fun s c => s.permitDue t c) s

/-! ## Sides (R201) -/

def Cb.holder (c : Cb) (prod : Bool) : Option Eng := if prod then c.prodBy else c.consBy
def Cb.waiting (c : Cb) (prod : Bool) : List Eng := if prod then c.waitP else c.waitC
def Cb.setSide (c : Cb) (prod : Bool) (h : Option Eng) (w : List Eng) : Cb :=
  if prod then { c with prodBy := h, waitP := w } else { c with consBy := h, waitC := w }

/-- An engine takes a side, or waits for it in turn; whether it now holds it. -/
def State.wantSide (s : State) (t h : Nat) (prod : Bool) (e : Eng) : Bool × State :=
  match s.cb t h with
  | none => (false, s)
  | some c =>
    let w := c.waiting prod
    if c.holder prod = some e then (true, s)
    else if (c.holder prod).isNone && (w.isEmpty || w.head? == some e) then
      (true, s.onCb t h (fun c => c.setSide prod (some e) (w.filter (· != e))))
    else (false, s.onCb t h (fun c => c.setSide prod (c.holder prod) (if w.contains e then w else w ++ [e])))

/-- An engine gives up a side, or its place in the wait for it; a side that frees goes to the engine that has waited longest. -/
def State.dropSide (s : State) (t h : Nat) (prod : Bool) (e : Eng) : State :=
  match s.cb t h with
  | none => s
  | some c =>
    let w := (c.waiting prod).filter (· != e)
    let side := if c.holder prod = some e then (w.head?, w.drop 1) else (c.holder prod, w)
    (s.onCb t h (fun c => c.setSide prod side.1 side.2)).kickEngines t (s.now + 1)

/-! ## cbinit (R217) -/

/-- The first word of a descriptor that breaks R198, for a tile. -/
def cbBadWord (t : Nat) (w : List Word) : Option Nat :=
  let w0 := w.getD 0 0
  let w1 := w.getD 1 0
  let base := bits w0 0 22
  let size := bits w0 32 9
  let count := bits w0 48 9
  let ok1 (n : Nat) : Bool := decide (1 ≤ n) && decide (n ≤ 64)
  if base % 64 ≠ 0 ∨ bits w0 22 10 ≠ 0 ∨ size < 2 ∨ bits w0 41 7 ≠ 0 ∨ count < 1 ∨ 256 < count ∨ bits w0 57 7 ≠ 0
      ∨ Config.lsSize t < base + 64 * size * count then some 0
  else if 4 < bits w1 0 4 ∨ bits w1 4 4 ≠ 0 ∨ ok1 (bits w1 8 7) = false ∨ bits w1 15 1 ≠ 0
      ∨ ok1 (bits w1 16 7) = false ∨ bits w1 23 41 ≠ 0 then some 1
  else if bits (w.getD 2 0) 32 32 ≠ 0 then some 2
  else if w.getD 3 0 ≠ 0 then some 3
  else none

/-- The handle that a descriptor sets up. -/
def cbOf (w : List Word) : Cb :=
  let w0 := w.getD 0 0
  let w1 := w.getD 1 0
  let c0 : BitVec 32 := (w.getD 2 0).setWidth 32
  { base := bits w0 0 22, size := bits w0 32 9, count := bits w0 48 9, fmt := bits w1 0 4, rows := bits w1 8 7,
    cols := bits w1 16 7, c0 := c0, produced := c0, consumed := c0, ppos := 0, cpos := 0, prodBy := none, consBy := none,
    waitP := [], waitC := [] }

/-- The op of a matrix command and the handles it names (R206). -/
def MCmd.op (c : MCmd) : Nat := bits c.w0 0 4
def MCmd.handles (c : MCmd) : List Nat :=
  match c.op with
  | 0 => [bits c.w0 8 4, bits c.w0 12 4]
  | 1 => [bits c.w0 16 4]
  | 3 => [bits c.w0 8 4]
  | _ => []

/-- An accepted and incomplete fetch or matrix command names the handle (R201). -/
def State.cbNamed (s : State) (t h : Nat) : Bool :=
  (s.fetch t).chans.toList.any (fun c => c.cmds.any (fun k => k.mode == 2 && (k.w[5]?.getD 0).toNat % 16 == h))
    || (s.matrix t).queue.any (fun c => c.handles.contains h)

/-- An engine holds a side of the handle. -/
def State.cbHeld (s : State) (t h : Nat) : Bool :=
  match s.cb t h with
  | none => false
  | some c => c.prodBy.isSome || c.consBy.isSome

def trapValue (h n : Nat) : Word := BitVec.ofNat 64 (h ||| n * 256)

/-- Install a descriptor. -/
def cbInstall (h : Nat) (u : Nat) (x : Strand) (w : List Word) (s : State) : Act :=
  if s.cbHeld x.tile h || s.cbNamed x.tile h then trapAct s 0x0E (trapValue h 0xF)
  else match cbBadWord x.tile w with
    | some i => trapAct s 0x0E (trapValue h i)
    | none => .ok (((s.setCb x.tile h (cbOf w)).cbChanged x.tile h).retire u)

/-- `cbinit` (R217). -/
def execCbinit (a h : BitVec 5) (s : State) : Host.Outcome State Fault Refusal :=
  issue [a] [] (fun u x s =>
    if x.prog.phase = 1 then gotWords 4 x s (cbInstall h.toNat u x)
    else recordAt (x.reg a) s (askWords false (x.reg a) 4 1 u x)) s

/-! ## cbwait, cbspace (R218) -/

/-- An instruction that can give up its barrel slot traps on any poisoned register first (R116). -/
def mayLeave (u : Nat) (x : Strand) (s : State) (body : Nat → Strand → State → Act) : Act :=
  match x.anyPoison with
  | some (c, v) => trapAct s c v
  | none => body u x s

/-- A CB instruction on a handle that is set up (R216). -/
def onHandle (h : BitVec 5) (x : Strand) (s : State) (k : Cb → Act) : Act :=
  match s.cb x.tile h.toNat with
  | none => trapAct s 0x0E (toWord h)
  | some c => k c

/-- `cbwait` (R218). -/
def execCbwait (d h : BitVec 5) (s : State) : Host.Outcome State Fault Refusal :=
  issue [] [d] (fun u x s => mayLeave u x s (fun u x s => onHandle h x s (fun c =>
    if c.filled = 0 ∧ s.boundInError x.tile h.toNat = true then trapAct s 0x0F (toWord h)
    else if c.consBy.isSome then trapAct s 0x0E (toWord h)
    else if 0 < c.filled then writeBack u d (slotVa x.tile c c.cpos) s
    else .ok (s.waitFor u (.cbwait h.toNat))))) s

/-- `cbspace` (R218). -/
def execCbspace (d h : BitVec 5) (s : State) : Host.Outcome State Fault Refusal :=
  issue [] [d] (fun u x s => mayLeave u x s (fun u x s => onHandle h x s (fun c =>
    if c.prodBy.isSome then trapAct s 0x0E (toWord h)
    else if 0 < c.space then writeBack u d (slotVa x.tile c c.ppos) s
    else .ok (s.waitFor u (.cbspace h.toNat))))) s

/-! ## cbpush, cbpop, cbcnt (R219 to R221) -/

/-- Write header word 0 of the slot at ppos and publish it (R219). -/
def cbPush (h : BitVec 5) (ltag : Nat) (u : Nat) (x : Strand) (c : Cb) (s : State) : Act :=
  let t := x.tile
  let w := headerWord c.produced c.cols c.rows c.fmt ltag
  let r := s.performWrite (cellNo t true (c.offset c.ppos)) (placed (bytesOf 8 w))
  .ok ((r.2.2.cbProduced t h.toNat).retire u)

/-- The checks of `cbpush` that read no register: the handle is set up, and no engine holds its producer side (R219). -/
def pushCheck (h : BitVec 5) (_u : Nat) (x : Strand) (s : State) : Option (Nat × Word) :=
  match s.cb x.tile h.toNat with
  | none => some (0x0E, toWord h)
  | some c => if c.prodBy.isSome then some (0x0E, toWord h) else none

/-- `cbpush` (R219): its two checks come before the wait for ra and before ra's poison (R48, R72). A strand's stores to its
own tile are performed at issue, but for the pieces of a vector store that its unit has still to send; the wait is for those
and for loads. -/
def execCbpush (a h : BitVec 5) (s : State) : Host.Outcome State Fault Refusal :=
  issueAfter (pushCheck h) [a] [] [a] (fun u x s => onHandle h x s (fun c =>
    if s.vectorMemBusy u x then stallAct s
    else if !(s.loadsDone u x) then waitAct s
    else if c.space = 0 then trapAct s 0x0E (toWord h)
    else cbPush h (bits (x.reg a) 0 4) u x c s)) s

/-- `cbpop` (R220). -/
def execCbpop (h : BitVec 5) (s : State) : Host.Outcome State Fault Refusal :=
  issue [] [] (fun u x s => onHandle h x s (fun c =>
    if c.consBy.isSome then trapAct s 0x0E (toWord h)
    else if !(s.loadsDone u x) then waitAct s
    else if c.filled = 0 then trapAct s 0x0E (toWord h)
    else .ok ((s.cbConsumed x.tile h.toNat).retire u))) s

/-- `cbcnt` (R221). -/
def execCbcnt (d h : BitVec 5) (s : State) : Host.Outcome State Fault Refusal :=
  issue [] [d] (fun u x s => onHandle h x s (fun c =>
    writeBack u d (BitVec.ofNat 64 (c.consumed.toNat * 2 ^ 32 + c.produced.toNat)) s)) s

end Sys2Proof.Machine
end

