-- ==== Sys2Proof/Machine/Matrix.lean ====
section
/-! DEFINITION. The matrix engine: its claim (R204, R222), contexts (R223), commands (R206 to R209, R224), stops (R210
to R213), and the instructions that wait for it and read it (R225, R226). -/

namespace Sys2Proof.Machine
open Sys2Proof

/-! ## Commands (R206, R207) -/

def MCmd.acc (c : MCmd) : Nat := bits c.w0 4 2
def MCmd.ha (c : MCmd) : Nat := bits c.w0 8 4
def MCmd.hb (c : MCmd) : Nat := bits c.w0 12 4
def MCmd.ho (c : MCmd) : Nat := bits c.w0 16 4
def MCmd.nk (c : MCmd) : Nat := bits c.w0 20 16
def MCmd.la (c : MCmd) : Nat := bits c.w0 36 4
def MCmd.lb (c : MCmd) : Nat := bits c.w0 40 4
def MCmd.ofmt (c : MCmd) : Nat := bits c.w0 44 4

/-- The payload bytes of a 64 × 64 slot in a format (R205). -/
def payloadSize (fmt : Nat) : Nat := [16384, 8192, 4096, 4096, 2048].getD fmt 16384

/-- The bits of w0 that an op uses (R206). -/
def usedBits (op : Nat) : Word :=
  match op with
  | 0 => 0x0FFF_FFF0_FFFF
  | 1 => 0xF000_000F_003F
  | 2 => 0x3F
  | _ => 0x00F0_0000_0F3F

/-- A slot of a handle holds a header and a payload of a format. -/
def State.slotFits (s : State) (t h fmt : Nat) : Bool :=
  match s.cb t h with
  | none => false
  | some c => decide (64 + payloadSize fmt ≤ 64 * c.size)

/-- A scale address: 0, or a multiple of 64 whose 256 bytes lie in the tile's local store (R207). -/
def scaleOk (s : State) (t : Nat) (a : Word) : Bool :=
  a == 0 || (a.toNat % 64 == 0 && (match s.region t true a with
    | some (.ls d o) => d == t && decide (o + 256 ≤ Config.lsSize t)
    | _ => false))

/-- Word 0 of a command passes R206 and R207, with the contexts of the engine. -/
def State.word0Ok (s : State) (t : Nat) (w0 : Word) : Bool :=
  let c : MCmd := ⟨w0, 0, 0, MCtx.reset⟩
  let x := (s.matrix t).ctxs[bits w0 6 2]?.getD MCtx.reset
  decide (c.op < 4) && (w0 &&& ~~~(usedBits c.op) == 0) && c.handles.all (fun h => (s.cb t h).isSome) &&
    (match c.op with
    | 0 => c.ha != c.hb && decide (1 ≤ c.nk) && decide (c.la ≤ 1) && decide (c.lb ≤ 1) && s.slotFits t c.ha x.fa
        && s.slotFits t c.hb x.fb
    | 1 => decide (c.ofmt ≤ 3) && s.slotFits t c.ho c.ofmt
    | 2 => true
    | _ => decide (c.la ≤ 1) && s.slotFits t c.ha 0)

/-- The index of the first word of a command that is malformed (R207). -/
def State.malformed (s : State) (t : Nat) (w : Vector Word 8) : Option Nat :=
  let g (i : Nat) : Word := w[i]?.getD 0
  if !(s.word0Ok t (g 0)) then some 0
  else if bits (g 0) 0 4 = 1 then
    (if !(scaleOk s t (g 1)) then some 1 else if !(scaleOk s t (g 2)) then some 2
     else [3, 4, 5, 6, 7].find? (fun i => g i != 0))
  else [1, 2, 3, 4, 5, 6, 7].find? (fun i => g i != 0)

/-- The status word: step, acc and op are those of the running or stopped command (R213). -/
def Matrix.status (m : Matrix) : Word :=
  let cur := if m.phase = 0 ∧ m.stop = false then 0 else m.step % 2 ^ 16 * 2 ^ 48 + m.acc0 * 2 ^ 12 + m.op * 2 ^ 8
  BitVec.ofNat 64 (cur + m.cause * 2 ^ 40 + m.hdl * 2 ^ 36 + m.kind * 2 ^ 33
    + (if m.stop then 2 ^ 32 else 0) + (if m.phase = 0 then 0 else 32) + m.queue.length)

/-! ## Slots (R205, R210, R211) -/

/-- The number of the first byte of a slot position on a tile. -/
def slotCell (t : Nat) (c : Cb) (pos : Nat) : Nat := cellNo t true (c.offset pos)

/-- What is wrong with the slot at the head of an input handle: kind 1 or 2 (R210). A poisoned header is a data error,
which the action finds as it ends. -/
def State.headerWrong (s : State) (t h ltag fmt : Nat) : Option Nat :=
  match s.cb t h with
  | none => none
  | some c =>
    let k := slotCell t c c.cpos
    let w := s.wordAt k
    if s.poisoned k then none
    else if bits w 0 4 ≠ ltag ∨ bits w 4 4 ≠ fmt ∨ bits w 8 7 ≠ 64 ∨ bits w 16 7 ≠ 64 then some 1
    else if bits w 32 32 ≠ c.consumed.toNat then some 2
    else none

/-- A poisoned byte in the header word or the payload of the slot at the head of a handle (R211). -/
def State.slotPoisoned (s : State) (t h fmt : Nat) : Bool :=
  match s.cb t h with
  | none => false
  | some c =>
    let k := slotCell t c c.cpos
    s.poisoned k || (List.range (payloadSize fmt / 8)).any (fun i => s.poisoned (k + 64 + 8 * i))

/-- Element number `e` of a payload in a format, exactly (R17, R18, R205). -/
def payloadElem (bs : Array Byte) (fmt : Nat) (book : List (BitVec 16)) (e : Nat) : Num.Val :=
  let b (i : Nat) : Nat := (bs.getD i 0).toNat
  match fmt with
  | 0 => Num.decode .f32 (b (4 * e) + 256 * b (4 * e + 1) + 65536 * b (4 * e + 2) + 16777216 * b (4 * e + 3))
  | 1 => Num.decode .bf16 (b (2 * e) + 256 * b (2 * e + 1))
  | 2 => Num.decode .e4m3 (b e)
  | 3 => Num.decode .e5m2 (b e)
  | _ => Num.decode .bf16 (book.getD (if e % 2 = 0 then b (e / 2) % 16 else b (e / 2) / 16) 0).toNat

/-- The payload of the slot at the head of a handle. -/
def State.payload (s : State) (t h fmt : Nat) : Array Byte :=
  match s.cb t h with
  | none => #[]
  | some c => (s.readBytes (slotCell t c c.cpos + 64) (payloadSize fmt)).toArray

/-- The element number of (x, y) under a layout tag (R205). -/
def layout (ltag x y : Nat) : Nat := if ltag = 1 then 64 * y + x else 64 * x + y

/-- One element of a step: two window sums, over k = 0 to 31 and 32 to 63 (R29, R208). -/
def stepElem (acc : Half) (p : Nat → Num.Val) : Half :=
  let sum (a : Half) (lo : Nat) : Half := Num.windowSum (Num.ofF32 a :: (List.range 32).map (fun k => p (lo + k)))
  sum (sum acc 0) 32

/-- The elements of an operand in element order. -/
def elements (bs : Array Byte) (fmt : Nat) (book : List (BitVec 16)) : Array Num.Val :=
  ((List.range 4096).map (payloadElem bs fmt book)).toArray

/-- The accumulator after a step (R208). -/
def stepAcc (acc : Vector Half 4096) (a b : Array Num.Val) (la lb : Nat) : Vector Half 4096 :=
  Vector.ofFn (fun e : Fin 4096 =>
    let i := e.val / 64
    let j := e.val % 64
    stepElem acc[e] (fun k => Num.mulV (a.getD (layout la i k) default) (b.getD (layout lb k j) default)))

/-- An element of `mout` before it is narrowed (R32). -/
def scaled (x r c : Half) : Half := Num.fmul (Num.fmul x r) c

/-- The bytes of a `mout` payload in the output format, row-major (R32, R208). -/
def outBytes (acc : Vector Half 4096) (scale : List Half) (ofmt : Nat) : List Byte :=
  let sc := scale.toArray
  (List.range 4096).flatMap (fun e =>
    let u := scaled (acc[e]?.getD 0) (sc.getD (e / 64) 0) (sc.getD (64 + e % 64) 0)
    match ofmt with
    | 0 => leBytes 4 u.toNat
    | 1 => leBytes 2 (Num.narrow .bf16 .ieee u)
    | 2 => leBytes 1 (Num.narrow .e4m3 .sat u)
    | _ => leBytes 1 (Num.narrow .e5m2 .sat u))

/-! ## Running commands (R208, R209) -/

/-- Cycles of an action (R209). -/
def actionTime (t : Nat) (c : MCmd) : Nat :=
  match c.op with
  | 0 =>
    let base := if c.ctx.fa = 1 ∨ c.ctx.fb = 1 then 128 else 64
    if Config.isM t then 2 * base else base
  | 1 => 72
  | 2 => 16
  | _ => 64

/-- The step that starts a command. -/
def startEvent (t : Nat) (c : MCmd) : Event :=
  match c.op with
  | 0 => .matrixMstep t
  | 1 => .matrixMout t
  | 2 => .matrixMzero t
  | _ => .matrixMload t

/-- The next command starts in the next cycle (R208). -/
def State.startNext (s : State) (t : Nat) : State :=
  match (s.matrix t).queue with
  | [] => s
  | c :: _ => s.schedule (s.now + 1) 1 (startEvent t c)

/-- The sides of a command: handle and whether the producer's (R201). -/
def MCmd.sides (c : MCmd) : List (Nat × Bool) :=
  match c.op with
  | 0 => [(c.ha, false), (c.hb, false)]
  | 1 => [(c.ho, true)]
  | 3 => [(c.ha, false)]
  | _ => []

/-- Take every side of a list, or wait for them; whether all are held. -/
def State.wantSides (s : State) (t : Nat) (e : Eng) : List (Nat × Bool) → Bool × State
  | [] => (true, s)
  | (h, p) :: rest =>
    let r := s.wantSide t h p e
    let r' := r.2.wantSides t e rest
    (r.1 && r'.1, r'.2)

def State.dropSides (s : State) (t : Nat) (e : Eng) (l : List (Nat × Bool)) : State :=
  l.foldl (fun s x => s.dropSide t x.1 x.2 e) s

/-- The holder, waiting in `mwait` or `mrel`, is ready in the next cycle (R225). -/
def State.wakeHolder (s : State) (t : Nat) : State :=
  match (s.matrix t).holder with
  | none => s
  | some u => match s.strand u with
    | some x => if x.run == .waiting .mwait || x.run == .waiting .mrel then s.makeReadyAt u (s.now + 1) else s
    | none => s

/-- The engine stops (R212): the queue is discarded, its sides are released, the status word records the stop, and a
trap is left pending on the holder. -/
def State.matrixStop (s : State) (t cause kind hdl : Nat) : State :=
  let m := s.matrix t
  let s := s.onMatrix t (fun m =>
    { m with queue := [], phase := 0, cause := cause, kind := kind, hdl := hdl, stop := true })
  let s := match m.queue with
    | [] => s
    | c :: _ => s.dropSides t .matrix c.sides
  match m.holder with
  | none => s
  | some u => (s.onStrand u (fun x => { x with engTrap := some (cause, (s.matrix t).status) })).interrupt u

/-- The running command is complete: its sides are released and the next one starts in the next cycle. -/
def State.matrixComplete (s : State) (t : Nat) (c : MCmd) : State :=
  let s := (s.onMatrix t (fun m => { m with queue := m.queue.drop 1, phase := 0 })).dropSides t .matrix c.sides
  if (s.matrix t).queue.isEmpty then s.wakeHolder t else s.startNext t

/-- Read the two scale vectors of a `mout` (R224, R32). -/
def State.readScales (s : State) (t : Nat) (c : MCmd) : State :=
  let one : Half := 0x3F800000#32
  let at' (a : Word) : Nat := cellNo t true (bits a 0 22)
  let vec (a : Word) : List Half :=
    if a = 0 then List.replicate 64 one
    else (List.range 64).map (fun i => BitVec.ofNat 32 (leValue (s.readBytes (at' a + 4 * i) 4)))
  let bad (a : Word) : Bool := a != 0 && (List.range 32).any (fun i => s.poisoned (at' a + 8 * i))
  s.onMatrix t (fun m => { m with scale := vec c.rsc ++ vec c.csc, bad := bad c.rsc || bad c.csc })

/-- The action fires and occupies the engine to its last cycle (R209). -/
def State.fire (s : State) (t : Nat) (c : MCmd) : State :=
  (s.onMatrix t (fun m => { m with phase := 2 })).scheduleLast (s.now + actionTime t c - 1) (.matrixActionEnd t)

/-- The input handles of a command with the layout tag and format each must have. -/
def MCmd.inputs (c : MCmd) : List (Nat × Nat × Nat) :=
  match c.op with
  | 0 => [(c.ha, c.la, c.ctx.fa), (c.hb, c.lb, c.ctx.fb)]
  | 3 => [(c.ha, c.la, 0)]
  | _ => []

/-- Fire the command at the head of the queue if its sides are held and its counts allow; stop on a wrong header or on
an empty in-CB in error (R208, R210, R212, R236). -/
def State.matrixTry (s : State) (t : Nat) : State :=
  let m := s.matrix t
  match m.queue with
  | [] => s
  | c :: _ =>
    if m.phase ≠ 1 ∨ (s.tile t).halted ∨ ((m.holder.bind s.strand).any (·.marked.isSome)) = true then s
    else
      let r := s.wantSides t .matrix c.sides
      let s := r.2
      let filled (h : Nat) : Nat := ((s.cb t h).map Cb.filled).getD 0
      if !r.1 then s
      else if c.op = 1 then
        (if ((s.cb t c.ho).map Cb.space).getD 0 = 0 then s else (s.readScales t c).fire t c)
      else match c.inputs.find? (fun i => filled i.1 == 0) with
        | some _ => match c.inputs.find? (fun i => filled i.1 == 0 && s.inError t i.1) with
          | some j => s.matrixStop t 7 3 j.1
          | none => s
        | none =>
          if c.op = 0 ∧ s.now < (s.die (Config.dieOf t)).hot then
            s.schedule (s.die (Config.dieOf t)).hot 1 (.matrixStepFire t)
          else match c.inputs.findSome? (fun i => (s.headerWrong t i.1 i.2.1 i.2.2).map (fun k => (k, i.1))) with
            | some (k, h) => s.matrixStop t 9 k h
            | none => s.fire t c

/-- A command starts (R208). -/
def State.matrixStart (s : State) (t op : Nat) : State :=
  let m := s.matrix t
  match m.queue with
  | [] => s
  | c :: _ =>
    if m.phase ≠ 0 ∨ c.op ≠ op then s
    else (s.onMatrix t (fun m => { m with phase := 1, step := 0, op := op, acc0 := c.acc })).matrixTry t

/-- `matrixMzero` (R208). -/
def execMatrixMzero (s : State) : Host.Outcome State Fault Refusal :=
  onEvent (fun e => match e with | .matrixMzero t => some (s.matrixStart t 2) | _ => none) s
/-- `matrixMstep` (R208). -/
def execMatrixMstep (s : State) : Host.Outcome State Fault Refusal :=
  onEvent (fun e => match e with | .matrixMstep t => some (s.matrixStart t 0) | _ => none) s
/-- `matrixMload` (R208). -/
def execMatrixMload (s : State) : Host.Outcome State Fault Refusal :=
  onEvent (fun e => match e with | .matrixMload t => some (s.matrixStart t 3) | _ => none) s
/-- `matrixMout` (R208). -/
def execMatrixMout (s : State) : Host.Outcome State Fault Refusal :=
  onEvent (fun e => match e with | .matrixMout t => some (s.matrixStart t 1) | _ => none) s
/-- `matrixStepFire`: the engine looks again (R208). -/
def execMatrixStepFire (s : State) : Host.Outcome State Fault Refusal :=
  onEvent (fun e => match e with | .matrixStepFire t => some (s.matrixTry t) | _ => none) s

/-- Accumulator `a` of an engine. -/
def Matrix.accum (m : Matrix) (a : Nat) : Vector Half 4096 := m.acc[a]?.getD (Vector.replicate 4096 0)
/-- Write an accumulator whole: its elements are good again. -/
def Matrix.setAcc (m : Matrix) (a : Nat) (v : Vector Half 4096) : Matrix :=
  { m with acc := m.acc.setIfInBounds a v, poison := m.poison.filter (fun e => e / 4096 != a) }
/-- An uncorrectable element of an accumulator (R203, R211). -/
def Matrix.accBad (m : Matrix) (a : Nat) : Bool := m.poison.any (fun e => e / 4096 == a)

/-- The last cycle of a step. -/
def State.stepEnds (s : State) (t : Nat) (c : MCmd) : State :=
  let m := s.matrix t
  match c.inputs.find? (fun i => s.slotPoisoned t i.1 i.2.2) with
  | some i => s.matrixStop t 7 3 i.1
  | none =>
    if m.accBad c.acc then s.matrixStop t 7 4 0
    else
      let a := elements (s.payload t c.ha c.ctx.fa) c.ctx.fa c.ctx.ca
      let b := elements (s.payload t c.hb c.ctx.fb) c.ctx.fb c.ctx.cb
      let s := s.onMatrix t (fun m =>
        { m.setAcc c.acc (stepAcc (m.accum c.acc) a b c.la c.lb) with step := m.step + 1, phase := 1 })
      let s := (s.cbConsumed t c.ha).cbConsumed t c.hb
      if c.nk ≤ m.step + 1 then s.matrixComplete t c else s.schedule (s.now + 1) 1 (.matrixStepFire t)

/-- The last cycle of `mload`. -/
def State.loadEnds (s : State) (t : Nat) (c : MCmd) : State :=
  if s.slotPoisoned t c.ha 0 then s.matrixStop t 7 3 c.ha
  else
    let b := s.payload t c.ha 0
    let word (e : Nat) : Half :=
      BitVec.ofNat 32 (leValue ((List.range 4).map (fun i => b.getD (4 * e + i) 0)))
    let s := s.onMatrix t (fun m => m.setAcc c.acc (Vector.ofFn (fun e : Fin 4096 =>
      word (layout c.la (e.val / 64) (e.val % 64)))))
    (s.cbConsumed t c.ha).matrixComplete t c

/-- The last cycle of `mout`: payload, header, count (R202, R208). -/
def State.outEnds (s : State) (t : Nat) (c : MCmd) : State :=
  let m := s.matrix t
  if m.bad then s.matrixStop t 7 3 0
  else if m.accBad c.acc then s.matrixStop t 7 4 0
  else match s.cb t c.ho with
    | none => s
    | some b =>
      let k := slotCell t b b.ppos
      let header := bytesOf 8 (headerWord b.produced 64 64 c.ofmt 0) ++ List.replicate 56 0
      let s' := s.performWrite k (placed (header ++ outBytes (m.accum c.acc) m.scale c.ofmt))
      (s'.2.2.cbProduced t c.ho).matrixComplete t c

/-- `matrixActionEnd` (R209, R212). -/
def State.actionEnds (s : State) (t : Nat) : State :=
  let m := s.matrix t
  match m.queue with
  | [] => s
  | c :: _ =>
    if m.phase ≠ 2 then s
    else match c.op with
      | 0 => s.stepEnds t c
      | 1 => s.outEnds t c
      | 2 => (s.onMatrix t (fun m => m.setAcc c.acc (Vector.replicate 4096 0))).matrixComplete t c
      | _ => s.loadEnds t c

/-- `matrixActionEnd` (R209, R212). -/
def execMatrixActionEnd (s : State) : Host.Outcome State Fault Refusal :=
  onEvent (fun e => match e with | .matrixActionEnd t => some (s.actionEnds t) | _ => none) s

/-! ## The claim (R204, R222) -/

/-- A grant starts the engine from a fixed state (R204). -/
def State.grantMatrix (s : State) (t u : Nat) (rest : List Nat) : State :=
  s.onMatrix t (fun _ => { Matrix.reset with holder := some u, waiters := rest })

/-- The first waiting `mclaim` is granted in the next cycle (R222). -/
def State.grantNextMatrix (s : State) (t : Nat) : List Nat → State
  | [] => s.onMatrix t (fun _ => Matrix.reset)
  | u :: rest => match s.strand u with
    | some x =>
      if x.run = .waiting .mclaim ∧ x.marked = none then
        ((s.grantMatrix t u rest).retire u).makeReadyAt u (s.now + 1)
      else s.grantNextMatrix t rest
    | none => s.grantNextMatrix t rest

/-- The claim is released. -/
def State.releaseMatrix (s : State) (t : Nat) : State := s.grantNextMatrix t (s.matrix t).waiters

/-- `mclaim` (R222). -/
def execMclaim (s : State) : Host.Outcome State Fault Refusal :=
  issue [] [] (fun u x s => mayLeave u x s (fun u x s =>
    let m := s.matrix x.tile
    if m.holder = some u then .ok (s.retire u)
    else if Config.hasSupervisor x.tile && x.place.core == 0 && !x.ctx.sup then .ok (s.waitFor u .mclaim)
    else if m.holder = none ∧ m.waiters = [] then .ok ((s.grantMatrix x.tile u []).retire u)
    else .ok ((s.onMatrix x.tile (fun m => { m with waiters := m.waiters ++ [u] })).waitFor u .mclaim))) s

/-- An instruction that only the holder may issue (R204): cause 0x08 with 0. -/
def asHolder (u : Nat) (x : Strand) (s : State) (body : Nat → Strand → State → Act) : Act :=
  if s.mclaims x.tile u then body u x s else trapAct s 8 0

/-- `mrel` (R222). -/
def execMrel (s : State) : Host.Outcome State Fault Refusal :=
  issue [] [] (fun u x s => mayLeave u x s (fun u x s => asHolder u x s (fun u x s =>
    if (s.matrix x.tile).queue.isEmpty then .ok ((s.releaseMatrix x.tile).retire u)
    else .ok (s.waitFor u .mrel)))) s

/-- `mwait` (R225). -/
def execMwait (s : State) : Host.Outcome State Fault Refusal :=
  issue [] [] (fun u x s => mayLeave u x s (fun u x s => asHolder u x s (fun u x s =>
    if (s.matrix x.tile).queue.isEmpty then .ok (s.retire u) else .ok (s.waitFor u .mwait)))) s

/-- The check for the claim reads no register: it comes before the wait for pending ones and before their poison (R72,
R223, R224, R226). -/
def holderCheck (u : Nat) (x : Strand) (s : State) : Option (Nat × Word) :=
  if s.mclaims x.tile u then none else some (8, 0)

/-- `mstat` (R226). -/
def execMstat (d : BitVec 5) (s : State) : Host.Outcome State Fault Refusal :=
  issueAfter holderCheck [] [d] [] (fun u x s => writeBack u d (s.matrix x.tile).status s) s

/-! ## mfmt, mgo (R223, R224) -/

/-- The context of the nine words of a record. -/
def ctxOf (w : List Word) : MCtx :=
  let book (i : Nat) : List (BitVec 16) :=
    ((w.drop i).take 4).flatMap (fun v => (List.range 4).map (fun j => BitVec.ofNat 16 (bits v (16 * j) 16)))
  ⟨bits (w.headD 0) 0 4, bits (w.headD 0) 4 4, book 1, book 5⟩

/-- Read a context record: in phase 1 its words are in, and the context is written (R223). -/
def writeContext (c : Nat) (r : Word) (u : Nat) (x : Strand) (s : State) : Act :=
  if x.prog.phase = 1 then
    gotWords 9 x s (fun w s =>
      let m := ctxOf w
      if m.fa < 1 ∨ 4 < m.fa ∨ m.fb < 1 ∨ 4 < m.fb ∨ bits (w.headD 0) 8 56 ≠ 0 then trapAct s 0x0E r
      else .ok ((s.onMatrix x.tile (fun y => { y with ctxs := y.ctxs.setIfInBounds c m })).retire u))
  else if r.toNat % 8 ≠ 0 then trapAct s 2 r
  else match s.region x.tile x.ctx.sup r with
    | some (.ls d o) => if s.real d ≠ x.tile ∨ Config.lsSize d < o + 72 then trapAct s 3 r else askWords false r 9 1 u x s
    | _ => trapAct s 3 r

/-- `mfmt` (R223). -/
def execMfmt (a b : BitVec 5) (s : State) : Host.Outcome State Fault Refusal :=
  issueAfter holderCheck [a, b] [] [a, b] (fun u x s => writeContext (bits (x.reg a) 0 2) (x.reg b) u x s) s

/-- Queue a command with its copy of a context; the stop is cleared (R203, R224). -/
def State.queueMatrix (s : State) (t : Nat) (w : Vector Word 8) : State :=
  let g (i : Nat) : Word := w[i]?.getD 0
  let idle := (s.matrix t).queue.isEmpty
  let s := s.onMatrix t (fun m =>
    { m with queue := m.queue ++ [⟨g 0, g 1, g 2, m.ctxs[bits (g 0) 6 2]?.getD MCtx.reset⟩],
             stop := false, cause := 0, kind := 0, hdl := 0, step := if m.stop then 0 else m.step })
  if idle then s.startNext t else s

/-- `mgo` (R224). A vector store before it has sent its pieces to this tile when the command is queued, as a store is
performed at issue. -/
def execMgo (r : BitVec 5) (p : BitVec 4) (s : State) : Host.Outcome State Fault Refusal :=
  issueAfter holderCheck (eightFrom r) [] (eightFrom r) (fun u x s =>
    match s.malformed x.tile (x.eight r) with
    | some i => trapAct s 0x0E (BitVec.ofNat 64 i)
    | none =>
      if 16 ≤ (s.matrix x.tile).queue.length then .ok ((s.onStrand u (fun y => y.setPred p true)).retire u)
      else if s.vectorMemBusy u x then stallAct s
      else .ok (((s.queueMatrix x.tile (x.eight r)).onStrand u (fun y => y.setPred p false)).retire u)) s

end Sys2Proof.Machine
end

