-- ==== Sys2Proof/Machine/Strands.lean ====
section
/-! DEFINITION. Births, ends and moves of strands (R124 to R132, R137), how a context arrives at a tile (R73 to R78, R81,
R82, R142), and the strand engine's timers (R76, R77, R84, R89). -/

namespace Sys2Proof.Machine
open Sys2Proof

/-! ## Ends (R124, R137, R182) -/

/-- A strand ends: its slot frees, its poison is discarded, and nothing of it remains (R70, R124). -/
def State.endStrand (s : State) (u : Nat) : State :=
  match s.strand u with
  | none => s
  | some x => (s.remove u).handlerEnds x

/-- `done` (R124). -/
def execDone (s : State) : Host.Outcome State Fault Refusal :=
  issue [] [] (fun u x s =>
    if s.claims x.tile u then trapAct s 8 0
    else if !(s.released u x) then waitAct s
    else .ok (s.endStrand u)) s

/-- A user context takes a kennel slot of its core, else a lent slot, ready; with none it stays (R125). -/
def State.yieldSlot (s : State) (u : Nat) (x : Strand) : State :=
  match x.place with
  | .slot t c n =>
    if s.kennelFree t c then (s.slotFrees t c n).enter t c false u s.now
    else if !x.ctx.sup && s.lentFree t c then (s.slotFrees t c n).enter t c true u s.now
    else s
  | _ => s

/-- `yield` (R125). -/
def execYield (s : State) : Host.Outcome State Fault Refusal :=
  issue [] [] (fun u x s => match x.anyPoison with
    | some (c, v) => trapAct s c v
    | none => .ok ((s.retire u).yieldSlot u x)) s

/-! ## Births (R127, R128) -/

/-- The registers of a child: the parent's, with g0 the argument and g23 zero (R127). -/
def childRegs (x : Strand) (b : Word) : Vector Word 24 := (x.ctx.g.set 0 b).set 23 0

/-- An earlier `spawn` child of the strand is not yet admitted (R127). -/
def State.childWaits (s : State) (x : Strand) : Bool :=
  match x.child with
  | some c => (s.strand c).isSome
  | none => false

/-- Build the child of a `spawn` on this tile under the sid it has been given; it asks for a slot 8 cycles later (R127). -/
def spawnChild (d : Reg) (t b : Word) (sid : BitVec 32) (u : Nat) (x : Strand) (s : State) : Act :=
  let c := x.ctx.birth x.tile sid (t.setWidth 48) (childRegs x b) x.ctx.pred
  let a := s.addStrand (Strand.fresh c x.tile (.spawn u))
  let s := a.2.onStrand u (fun x => { x with child := some a.1 })
  writeBack u d (toWord sid) (s.schedule (s.now + 8) 1 (.ask x.tile a.1))

/-- The sid of the child of a `spawn`: the one that it took before it began to wait, else the next of the tile (R67,
R127). -/
def State.childSid (s : State) (x : Strand) : BitVec 32 × State :=
  match SMap.find? x.prog.words 0 with
  | some w => (w.setWidth 32, s)
  | none => s.newSid x.tile

/-- A `spawn` on this tile: it takes the child's sid, then waits for the admission of an earlier child, and builds the
child (R127). -/
def spawnHere (d : Reg) (t b : Word) (u : Nat) (x : Strand) (s : State) : Act :=
  match x.anyPoison with
  | some (c, v) => trapAct s c v
  | none =>
    if x.pending ≠ [] then waitAct s
    else
      let i := s.childSid x
      if s.childWaits x then
        waitAct (i.2.onStrand u (fun x => { x with prog := { Prog.none with words := [(0, toWord i.1)] } }))
      else spawnChild d t b i.1 u x i.2

/-- The checks that `spawn` and `spawnat` make on the start address (R127). -/
def startChecks (t : Word) (s : State) (k : State → Act) : Act :=
  if t.extractLsb' 0 2 ≠ 0 then trapAct s 2 t
  else if 2 ^ 48 ≤ t.toNat then trapAct s 3 t
  else k s

/-- A register that is needed for a check is poisoned: since all 24 registers are read, the trap reports the lowest of
all (R116, R127). -/
def readable (r : Reg) (x : Strand) (s : State) (k : State → Act) : Act :=
  match x.poisonIn [r], x.anyPoison with
  | some _, some (c, v) => trapAct s c v
  | _, _ => k s

/-- `spawn` (R127). -/
def execSpawn (d a b : BitVec 5) (s : State) : Host.Outcome State Fault Refusal :=
  issueWith [a, b] [d] [] (fun u x s =>
    readable a x s (fun s => startChecks (x.reg a) s (spawnHere d (x.reg a) (x.reg b) u x))) s

/-- Build the child at its argument's owner `o` and wait for its admission (R128). -/
def spawnAway (t b : Word) (tgt : Target) (o : Nat) (u : Nat) (x : Strand) (s : State) : Act :=
  match x.anyPoison with
  | some (c, v) => trapAct s c v
  | none =>
    if x.pending ≠ [] then waitAct s
    else
      let c := x.ctx.birth o 0 (t.setWidth 48) (childRegs x b) x.ctx.pred
      let a := s.addStrand (Strand.fresh c x.tile (.spawnat u))
      let p := Packet.spawnat ⟨a.1, x.tile, o, 0, false, false, false, some tgt⟩
      let s := a.2.onStrand a.1 (fun y => { y with packet := some p })
      let s := s.onStrand u (fun y =>
        { y with run := .held, prog := { Prog.none with phase := 9, words := [(0, BitVec.ofNat 64 a.1)], val := b } })
      .ok (s.send x.tile o p)

/-- `spawnat` (R69, R128). -/
def spawnatAt (d a c : Reg) (t b : Word) (u : Nat) (x : Strand) (s : State) : Act :=
  if x.prog.phase = 2 then writeBack u d x.prog.val s
  else readable a x s (fun s => startChecks t s (fun s => readable c x s (fun s => do
    let r ← s.translate u x b permR
    match r.1 with
    | .peer _ _ => trapAct s 3 b
    | .here tgt o _ =>
      if x.ctx.sup && !(Config.hasSupervisor o) then trapAct r.2 3 b
      else if r.2.real o = x.tile then spawnHere d t b u x r.2
      else spawnAway t b tgt o u x r.2)))

/-- `spawnat` (R128). -/
def execSpawnat (d a b : BitVec 5) (s : State) : Host.Outcome State Fault Refusal :=
  issueWith [a, b] [d] [] (fun u x s => spawnatAt d a b (x.reg a) (x.reg b) u x s) s

/-! ## Moving and staying (R129 to R132) -/

/-- `go` of a roaming strand to the owner of an address (R129). -/
def goTo (va : Word) (u : Nat) (x : Strand) (s : State) : Act := do
    let r ← s.translate u x va permR
    match r.1 with
    | .peer _ _ => trapAct s 3 va
    | .here tgt o _ =>
      match x.anyPoison with
      | some (c, v) => trapAct r.2 c v
      | none =>
        if r.2.real o = x.tile then .ok (r.2.retire u)
        else if x.pending ≠ [] ∨ x.posted ≠ [] then waitAct r.2
        else .ok (r.2.depart u x o 0 true va (some tgt))

/-- `go` (R129): a pinned strand traps before any other check, poison included. -/
def execGo (a : BitVec 5) (s : State) : Host.Outcome State Fault Refusal :=
  issueWith [a] [] [] (fun u x s =>
    if s.pinned u x then trapAct s 0x0A (x.reg a) else readable a x s (goTo (x.reg a) u x)) s

/-- An instruction that changes the strand's context alone. -/
def contextual (rd : List Reg) (f : Strand → Ctx) (s : State) : Host.Outcome State Fault Refusal :=
  issue rd [] (fun u x s => .ok ((s.onStrand u (fun y => { y with ctx := f x })).retire u)) s

/-- `pin` (R130). -/
def execPin (s : State) : Host.Outcome State Fault Refusal := contextual [] (fun x => { x.ctx with xpin := true }) s
/-- `unpin` (R130). -/
def execUnpin (s : State) : Host.Outcome State Fault Refusal := contextual [] (fun x => { x.ctx with xpin := false }) s
/-- `prio`: cls := min(reg(ra), 3) (R131). -/
def execPrio (a : BitVec 5) (s : State) : Host.Outcome State Fault Refusal :=
  contextual [a] (fun x => { x.ctx with cls := BitVec.ofNat 2 (min (x.reg a).toNat 3) }) s

/-- The bits that a lineage fixes: ones from its lowest set bit upward (R132). -/
def lineageMask (l : BitVec 16) : BitVec 16 := if l = 0 then 0 else ~~~((l &&& -l) - 1)

/-- `setlin` (R132). -/
def execSetlin (a : BitVec 5) (s : State) : Host.Outcome State Fault Refusal :=
  issue [a] [] (fun u x s =>
    let n : BitVec 16 := (x.reg a).setWidth 16
    if (n ^^^ x.ctx.lin) &&& lineageMask x.ctx.lin ≠ 0 then trapAct s 0x0D (toWord n)
    else .ok ((s.onStrand u (fun y => { y with ctx := { y.ctx with lin := n } })).retire u)) s

/-! ## Joining (R137) -/

/-- The target of a word of the join record. -/
def Named.target : Named → Option (Target × Nat)
  | .here t o _ => some (t, o)
  | .peer _ _ => none

/-- `join`: the decrement is posted, then the strand ends when it is acknowledged (R69, R137). -/
def joinAt (j : Word) (u : Nat) (x : Strand) (s : State) : Act :=
  if x.prog.phase = 1 then (if x.posted = [] then .ok (s.endStrand u) else waitAct s)
  else if j.toNat % 8 ≠ 0 then trapAct s 2 j
  else do
    let r ← s.translate u x j permRW
    match r.1.target with
    | none => trapAct s 3 j
    | some (_, o) =>
      let r1 ← r.2.translate u x (j + 8) permR
      let r2 ← r1.2.translate u x (j + 16) permR
      match r1.1.target, r2.1.target with
      | some (c, _), some (a, _) =>
        if x.ctx.sup && !(Config.hasSupervisor o) then trapAct r2.2 3 j
        else if !(r2.2.released u x) then waitAct r2.2
        else .ok ((r2.2.post u x r.1 j (.join c a ⟨x.ctx.tvec, x.ctx.plim, x.ctx.pmin, x.ctx.phold⟩)).onStrand u (fun y =>
          { y with prog := { Prog.none with phase := 1 }, run := .stalled }))
      | _, _ => trapAct s 3 j

/-- A strand that holds a claim may not end (R124, R137). -/
def claimCheck (u : Nat) (x : Strand) (s : State) : Option (Nat × Word) :=
  if x.prog.phase == 0 && s.claims x.tile u then some (8, 0) else none

/-- `join` (R137): the claim check reads no register and comes first. -/
def execJoin (a : BitVec 5) (s : State) : Host.Outcome State Fault Refusal :=
  issueAfter claimCheck [a] [] [a] (fun u x s => joinAt (x.reg a) u x s) s

/-- Both words are in: the continuation is born (R68, R137). -/
def State.continuationBorn (s : State) (t u : Nat) : State :=
  match s.strand u with
  | none => s
  | some x =>
    let i := s.newSid t
    let cpc := SMap.getD x.prog.words 0 0
    let carg := SMap.getD x.prog.words 1 0
    (i.2.onStrand u (fun x =>
      { x with prog := Prog.none,
               ctx := { x.ctx with sid := i.1, pc := cpc.extractLsb' 2 46 ++ 0#2, g := x.ctx.g.set 0 carg } })).askBirth t u

/-- `joinContinuation` (R137). -/
def execJoinContinuation (s : State) : Host.Outcome State Fault Refusal :=
  onEvent (fun e => match e with | .joinContinuation t u => some (s.continuationBorn t u) | _ => none) s

/-! ## Contexts that arrive (R73, R74, R78, R81, R142) -/

/-- The slot of an arriving context: the one a call reserved, else by admission; it is complete 7 cycles later. -/
def State.admitted? (s : State) (t u : Nat) (x : Strand) : Option State :=
  match (s.tile t).calls.find? (fun c => c.1 == u) with
  | some (_, c, lent) =>
    let s := s.onTile t (fun y => { y with calls := y.calls.filter (fun k => k.1 != u) })
    let s := s.onCore t c (fun k => if lent then { k with lres := k.lres - 1 } else { k with kres := k.kres - 1 })
    some (s.enter t c lent u (s.now + 7))
  | none => (s.findSlot t u x).map (fun r => s.enter t r.1 r.2 u (s.now + 7))

/-- A refused context is listed; a halted tile keeps no list (R78, R266). Its origin holds it. The child of a `spawnat` has
no sid before it is admitted: it is listed with sid 0 (DESIGN CHOICE, log entry 59). -/
def State.turnAway (s : State) (t : Nat) (m : Mig) (x : Strand) : State :=
  let s := s.onStrand m.uid (fun x => { x with asked := true })
  if (s.tile t).halted then s.send t m.src (.refused m.uid m.src true false)
  else s.list t ⟨m.uid, m.src, x.ctx.sid, m.age, false, s.now⟩

/-- The packet addressed to another tile. -/
def withDst (p : Packet) (d : Nat) : Packet :=
  match p with
  | .mig m => .mig { m with dst := d }
  | .spawnat m => .spawnat { m with dst := d }
  | .parkCtx m => .parkCtx { m with dst := d }
  | .ctxReturn m => .ctxReturn { m with dst := d }
  | p => p

/-- A slot that a call reserved for a context will not be used by it (R78). -/
def State.dropCall (s : State) (t u : Nat) : State :=
  match (s.tile t).calls.find? (fun c => c.1 == u) with
  | none => s
  | some (_, c, lent) =>
    let s := s.onTile t (fun y => { y with calls := y.calls.filter (fun k => k.1 != u) })
    if lent then (s.onCore t c (fun k => { k with lres := k.lres - 1 })).lentFreed t c
    else (s.onCore t c (fun k => { k with kres := k.kres - 1 })).kennelFreed t c

/-- A context's packet goes on to the owner of what its access names (R58). -/
def State.sendOn (s : State) (t o : Nat) (m : Mig) (p : Packet) : State :=
  ((s.dropCall t m.uid).onStrand m.uid (fun x => { x with packet := some (withDst p o) })).inject t o (withDst p o)

/-- Where an arriving context stands with the address that its access names (R16, R50, R58, R82, R277). -/
def State.reachCtx (s : State) (m : Mig) (sup : Bool) : Reach :=
  let t := s.real m.dst
  if s.gone m.dst || !(sup || s.together t (s.real m.src)) then .refuse
  else match m.tgt with
    | none => .perform 0
    | some tgt =>
      if s.domHolds t tgt || s.behindHeld t m.src then .hold
      else match s.locate t tgt with
        | none => .perform 0
        | some (o, _) => if s.real o = t then .perform 0 else .forward o

/-- A four-flit packet is complete at its destination: admitted and answered, or refused; or it goes on to another owner,
waits for a `domset`, or is refused for good (R58, R73, R78, R82, R277). A context whose payload is uncorrectable is
discarded here, and the supervisor of this die learns of it (R89): the manual names no core, sid or answer for that case, so the
message has core 0 and, for the child of a `spawnat`, sid 0, and the origin has the answer of an admission, so that the issuer
of a `spawnat` goes on (DESIGN CHOICE, log entry 84). -/
def State.contextArrives (s : State) (m : Mig) (p : Packet) (onto : State → Nat → State) : State :=
  let t := s.real m.dst
  match s.strand m.uid with
  | none => s
  | some x =>
    if x.marked.isSome || s.filtered t p then s
    else if s.unready t then s.holdPacket t
    else match s.reachCtx m x.ctx.sup with
      | .refuse => (s.dropCall t m.uid).send t m.src (.refused m.uid m.src false true)
      | .hold => s.holdPacket t
      | .forward o => s.sendOn t o m p
      | .perform _ =>
        if m.bad then
          let s := (onto (s.dropCall t m.uid) t).reportLost t x.ctx.sid 0 3 x.ctx.lin
          (State.handlerEnds { s with strands := SMap.erase s.strands m.uid } x).send t m.src (.admission m.uid m.src)
        else match s.admitted? t m.uid x with
          | some s => (onto s t).send t m.src (.admission m.uid m.src)
          | none => s.turnAway t m x

/-- An admitted strand is at home on its new tile. -/
def State.settle (s : State) (u t : Nat) : State :=
  s.onStrand u (fun x =>
    { x with run := .ready, packet := none, asked := false, home := t, prog := Prog.none, fault := none, walking := false })

/-- `migrationArrival`: a migrating strand is admitted, and executes its instruction again; a `go` is done (R81). Its
`cur` is the owner number that its packet was addressed to (R66, R82). -/
def execMigrationArrival (s : State) : Host.Outcome State Fault Refusal :=
  onEvent (fun e => match e with
    | .migrationArrival m => some (s.contextArrives m (.mig m) (fun s t =>
        let s := (s.settle m.uid t).onStrand m.uid (fun x => { x with ctx := { x.ctx with cur := BitVec.ofNat 12 m.dst } })
        if m.go then s.retire m.uid else s))
    | _ => none) s

/-- `spawnatArrival`: the owner's tile gives the child its sid, which the issuer waits for (R128). Where a replacement
answers for a retired owner, the sid holds the replacement's number (DESIGN CHOICE, log entry 63). -/
def execSpawnatArrival (s : State) : Host.Outcome State Fault Refusal :=
  onEvent (fun e => match e with
    | .spawnatArrival m => some (s.contextArrives m (.spawnat m) (fun s t =>
        let i := s.newSid t
        let parent := match s.strand m.uid with
          | some x => match x.birth with | .spawnat p => p | _ => 0
          | none => 0
        let s := i.2.onStrand m.uid (fun x => { x with birth := .none, ctx := { x.ctx with sid := i.1, cur := BitVec.ofNat 12 m.dst, prev := BitVec.ofNat 12 m.dst } })
        let s := s.onStrand parent (fun x =>
          if SMap.find? x.prog.words 0 = some (BitVec.ofNat 64 m.uid) then
            { x with prog := { x.prog with val := toWord i.1 } } else x)
        s.settle m.uid t))
    | _ => none) s

/-- The comparison of a pinned strand's `park` or `await` at the owner (R122, R142). A word that has another owner by now, or
none, and a tile that is stopped, send the context home to execute its instruction again (DESIGN CHOICE, log entry 86). -/
def State.parkAway (s : State) (m : Mig) (x : Strand) : State :=
  let t := x.tile
  match x.watch with
  | none => s
  | some (tgt, v, isAwait) => match s.locate t tgt with
    | none => s.returnHome m.uid t 3
    | some (owner, k) =>
      if s.real owner ≠ t then s.returnHome m.uid t 3
      else match s.takeTurn t with
        | none => s.defer
        | some s =>
          let r := s.compareAt k isAwait v
          match r.1 with
          | .poisoned => r.2.returnHome m.uid t 4
          | .differs => r.2.returnHome m.uid t 2
          | .parks =>
            if (s.tile t).halted && !x.ctx.sup then r.2.returnHome m.uid t 3
            else if x.refusals ≠ [] ∨ x.engTrap.isSome then r.2.returnHome m.uid t 3
            else (r.2.enterWatch t m.uid k).onStrand m.uid (fun x =>
              { x with run := .waiting (.park owner isAwait), prog := { x.prog with phase := 0 } })

/-- `parkContextArrival`: a pinned strand's context takes a slot at the owner and, 11 cycles later, makes the comparison
there (R142). -/
def execParkContextArrival (s : State) : Host.Outcome State Fault Refusal :=
  onEvent (fun e => match e with
    | .parkContextArrival m => some (match s.strand m.uid with
      | none => s
      | some x =>
        if x.marked.isSome then s
        else if x.prog.phase = 1 then s.parkAway m x
        else s.contextArrives m (.parkCtx m) (fun s _ =>
          (s.onStrand m.uid (fun x => { x with packet := none, prog := { x.prog with phase := 1 } })).schedule
            (s.now + 11) 2 (.parkContextArrival m)))
    | _ => none) s

/-- `contextReturnArrival`: a pinned strand's context is home again and goes on as it left to (R142). -/
def execContextReturnArrival (s : State) : Host.Outcome State Fault Refusal :=
  onEvent (fun e => match e with
    | .contextReturnArrival m => some (s.contextArrives m (.ctxReturn m) (fun s t => match s.strand m.uid with
      | none => s
      | some x =>
        let s := (s.settle m.uid t).onStrand m.uid (fun x => { x with watch := none })
        if x.prog.phase = 4 then s.onStrand m.uid (fun y => { y with prog := { Prog.none with phase := 4, val := x.prog.val } })
        else if x.prog.phase = 2 then s.retire m.uid
        else s))
    | _ => none) s

/-- The issuer of a `spawnat` whose child is `c`. -/
def State.spawner (s : State) (c : Nat) : Option Nat :=
  (List.find? (fun e => e.2.run == .held && e.2.prog.phase == 9 && SMap.find? e.2.prog.words 0 == some (BitVec.ofNat 64 c)) s.strands).map (·.1)

/-- `admissionAnswer`: what the context still held at its origin frees; a `spawnat` goes on (R73, R128). -/
def execAdmissionAnswer (s : State) : Host.Outcome State Fault Refusal :=
  onEvent (fun e => match e with
    | .admissionAnswer u t => some (match s.spawner u with
      | some p => s.onStrand p (fun x => { x with run := .ready, prog := { x.prog with phase := 2 } })
      | none => s.freeGhost t u)
    | _ => none) s

/-- Refused for good: the migrating strand traps at its instruction, the issuer of a `spawnat` at that (R82, R128). -/
def State.refusedForGood (s : State) (u : Nat) : State :=
  match s.spawner u with
  | some p =>
    let b := (s.strand p).map (fun x => x.prog.val)
    State.takeTrap { s with strands := SMap.erase s.strands u } p 3 (b.getD 0) false
  | none => match s.strand u with
    | none => s
    | some x =>
      let back (x : Strand) : Strand := { x with packet := none, watch := none, ctx := match x.packet with
        | some (.mig _) => x.undepart
        | _ => x.ctx }
      (s.onStrand u back).takeTrap u 3 x.prog.val false

/-- `refusalArrival`: the origin holds the strand; unlisted, it sends again after 1024 cycles (R78). -/
def execRefusalArrival (s : State) : Host.Outcome State Fault Refusal :=
  onEvent (fun e => match e with
    | .refusalArrival u t listed forGood => some (
      if forGood then s.refusedForGood u
      else if listed then s
      else s.schedule (s.now + 1024) 1 (.refusalResendTimeout u t))
    | _ => none) s

/-- The age that a packet carries, raised by one (R78). -/
def agedPacket : Packet → Packet
  | .mig m => .mig { m with age := min (m.age + 1) 255 }
  | .spawnat m => .spawnat { m with age := min (m.age + 1) 255 }
  | .parkCtx m => .parkCtx { m with age := min (m.age + 1) 255 }
  | .ctxReturn m => .ctxReturn { m with age := min (m.age + 1) 255 }
  | p => p

/-- The destination of a context's packet. -/
def packetDst : Packet → Nat
  | .mig m => m.dst
  | .spawnat m => m.dst
  | .parkCtx m => m.dst
  | .ctxReturn m => m.dst
  | _ => 0

/-- Send a held context's packet again from its origin, changed by `f`. -/
def State.resend (s : State) (u t : Nat) (f : Packet → Packet) : State :=
  match s.strand u with
  | none => s
  | some x => match x.packet with
    | none => s
    | some p => (s.onStrand u (fun x => { x with packet := some (f p), asked := false })).send t (packetDst p) (f p)

/-- As `resend`, if the context is still held: one that has left its wait by a trap is not (R260). -/
def State.resendHeld (s : State) (u t : Nat) (f : Packet → Packet) : State :=
  match s.strand u with
  | none => s
  | some x => if x.asked then s.resend u t f else s

/-- `callFlitArrival`: the packet is sent again, unchanged, into its reserved slot (R78). It is on its way in the cycle in
which the call is in, as R146 and the timeline of the histogram program have it; the formula of R81 counts one transit more
(DESIGN CHOICE, log entry 60). -/
def execCallFlitArrival (s : State) : Host.Outcome State Fault Refusal :=
  onEvent (fun e => match e with | .callFlitArrival u t => some (s.resendHeld u t id) | _ => none) s

/-- `refusalResendTimeout`: sent or asked again with its age raised by one (R78). -/
def execRefusalResendTimeout (s : State) : Host.Outcome State Fault Refusal :=
  onEvent (fun e => match e with
    | .refusalResendTimeout u t => some (match s.strand u with
      | none => s
      | some x =>
        if x.packet.isSome then s.resendHeld u t agedPacket
        else match x.place with
          | .source _ => s.askBirth t u
          | _ => s)
    | _ => none) s

/-! ## Timers of the strand engine -/

/-- `holdAgeTick`: a listed entry gains one age every 256 cycles (R78). -/
def execHoldAgeTick (s : State) : Host.Outcome State Fault Refusal :=
  onEvent (fun e => match e with
    | .holdAgeTick t u stamp => some (
      if (s.tile t).hold.any (fun h => h.uid == u && h.stamp == stamp) then
        (s.onTile t (fun x => { x with hold := x.hold.map (fun h =>
          if h.uid == u then { h with age := min (h.age + 1) 255 } else h) })).schedule (s.now + 256) 0
            (.holdAgeTick t u stamp)
      else s)
    | _ => none) s

/-- `classAgeTick`: a waiting entry's effective class rises, up to 3 (R76). -/
def execClassAgeTick (s : State) : Host.Outcome State Fault Refusal :=
  onEvent (fun e => match e with
    | .classAgeTick u stamp => some (match s.strand u with
      | none => s
      | some x =>
        let waits := match x.place with | .kennel _ _ => true | .lent _ _ => true | _ => false
        if waits && x.tick == stamp && decide (x.ecls < 3) then
          let due := s.now + (s.regs x.tile).agestep
          (s.onStrand u (fun x => { x with ecls := x.ecls + 1, tick := due })).schedule due 0 (.classAgeTick u due)
        else s)
    | _ => none) s

/-- `kennelToBarrel`: free barrel slots of the tile take the best ready entries (R75). -/
def execKennelToBarrel (s : State) : Host.Outcome State Fault Refusal :=
  onEvent (fun e => match e with | .kennelToBarrel t => some (s.fillSlots t) | _ => none) s

/-- A lent entry is in its kennel slot; its lent slot frees (R77). -/
def State.lentMoved (s : State) (t c u : Nat) : State :=
  let here := (s.core t c).moving.contains u
  let s := s.onCore t c (fun k => { k with kres := k.kres - 1, moving := k.moving.filter (· != u) })
  if !here then s.kennelFreed t c
  else
    let s := s.onCore t c (fun k => { k with lent := k.lent.filter (· != u), lslot := SMap.erase k.lslot u, kennel := k.kennel ++ [u] })
    let s := s.onStrand u (fun x =>
      { x with complete := s.now, place := if x.place = .lent t c then .kennel t c else x.place })
    (s.offer t (s.now + 4)).lentFreed t c

/-- `lentMoveDone` (R77). -/
def execLentMoveDone (s : State) : Host.Outcome State Fault Refusal :=
  onEvent (fun e => match e with | .lentMoveDone t c u => some (s.lentMoved t c u) | _ => none) s

/-- `pinHoldExpiry`: hleft reaches 0 (R84). -/
def execPinHoldExpiry (s : State) : Host.Outcome State Fault Refusal :=
  onEvent (fun e => match e with
    | .pinHoldExpiry u stop => some (s.onStrand u (fun x =>
      if x.ctx.rpin && x.pinEnd == stop then
        { x with pinEnd := 0, ctx := { x.ctx with rpin := false, hleft := 0, nstop := 0, alt := 0 } }
      else x))
    | _ => none) s

/-- A context is on its way: it has left, and no tile has refused it (R70). -/
def Strand.inFlight (x : Strand) : Bool := x.packet.isSome && !x.asked

/-- The state code of a lost context's message (R263). A held strand is resident (R70), and one that a save area holds stands
in the entry to which it would return. -/
def placeCode (x : Strand) : Nat :=
  match x.run with
  | .waiting (.park _ _) => 4
  | .waiting _ => 5
  | _ => if x.inFlight then 3 else match x.place with
    | .slot _ _ _ => 0
    | .kennel _ _ => 1
    | .lent _ _ => 2
    | .saved _ _ _ lent => if lent then 2 else 1
    | _ => 0

/-- `contextLost`: the context is discarded, its acknowledgements are dropped, and the supervisor learns of it; a context
in flight is lost where its packet arrives (R89). -/
def State.loseContext (s : State) (u : Nat) : State :=
  match s.strand u with
  | none => s
  | some x =>
    if x.inFlight then s.onFlight (carries u) spoilPacket
    else
      let s := s.reportLost x.tile x.ctx.sid x.place.core (placeCode x) x.ctx.lin
      let s := s.onTile x.tile (fun t => { t with watch := t.watch.filter (fun w => w.uid != u),
                                                  hold := t.hold.filter (fun h => h.uid != u) })
      (s.freeGhost x.home u).endStrand u

/-- `contextLost` (R89). -/
def execContextLost (s : State) : Host.Outcome State Fault Refusal :=
  onEvent (fun e => match e with | .contextLost u => some (s.loseContext u) | _ => none) s

/-- `singleStepTrap`: the strand waits for the supervisor with the next pc (R271). -/
def execSingleStepTrap (s : State) : Host.Outcome State Fault Refusal :=
  onEvent (fun e => match e with | .singleStepTrap u => some (s.takeTrap u 0x0B 1 false) | _ => none) s

/-- `deferredEngineTrap`: the holder takes the pending engine trap at the boundary (R212). -/
def execDeferredEngineTrap (s : State) : Host.Outcome State Fault Refusal :=
  onEvent (fun e => match e with
    | .deferredEngineTrap u => some (match s.strand u with
      | none => s
      | some x => match x.engTrap with
        | none => s
        | some (c, v) => ((s.onStrand u (fun x => { x with engTrap := none })).takeTrap u c v false).usedSlot u x)
    | _ => none) s

end Sys2Proof.Machine
end

