-- ==== Sys2Proof/Machine/Fetch.lean ====
section
/-! DEFINITION. The fetch engine: commands (R174 to R177), reads (R183, R196), the four deliveries (R178 to R181),
completion (R182), faults (R184, R185), and the fetch instructions (R188 to R194). -/

namespace Sys2Proof.Machine
open Sys2Proof

/-! ## The command (R175, R176) -/

def FCmd.word (c : FCmd) (i : Nat) : Word := c.w[i]?.getD 0
def FCmd.n (c : FCmd) (i : Nat) : Nat := bits (c.word 1) (16 * i) 16
def FCmd.tbl (c : FCmd) : Word := c.word 4
def FCmd.aux (c : FCmd) : Word := c.word 6
def FCmd.grp (c : FCmd) : Nat := bits (c.word 7) 8 6
def FCmd.tpc (c : FCmd) : Nat := bits (c.word 7) 16 48
/-- The handle of mode 2. -/
def FCmd.handle (c : FCmd) : Nat := bits (c.word 5) 0 4
/-- The block i3 of a linear index (R177). -/
def FCmd.block (c : FCmd) (k : Nat) : Nat := k / (c.n 0 * c.n 1 * c.n 2)

/-- The index of the first word that breaks R175. -/
def fetchBadWord (w : Vector Word 8) : Option Nat :=
  let g (i : Nat) : Word := w[i]?.getD 0
  let mode := bits (g 7) 0 4
  let bad (i : Nat) : Bool :=
    match i with
    | 0 => bits (g 0) 0 6 != 0
    | 1 => (List.range 4).any (fun j => bits (g 1) (16 * j) 16 == 0)
    | 2 => bits (g 2) 0 6 != 0
    | 3 => bits (g 3) 0 6 != 0 || bits (g 3) 32 6 != 0 || (g 4 != 0 && bits (g 3) 32 32 != 0)
    | 4 => bits (g 4) 0 3 != 0
    | 5 => match mode with
      | 0 => bits (g 5) 0 6 != 0
      | 1 => bits (g 5) 0 2 != 0 || bits (g 5) 48 16 != 0
      | 2 => bits (g 5) 4 60 != 0
      | 3 => bits (g 5) 0 6 != 0 || bits (g 5) 22 42 != 0
      | _ => false
    | 6 => (mode == 0 || mode == 2 || mode == 3) && bits (g 6) 0 3 != 0
    | _ => decide (3 < mode) || (mode != 2 && bits (g 7) 4 4 != 0) || (mode != 3 && bits (g 7) 8 6 != 0)
        || bits (g 7) 16 2 != 0
  (List.range 8).find? bad

/-- The number of a multicast group of a partition (R193). -/
def groupNo (p g : Nat) : Nat := 64 * p + g
/-- The members of a group, as every tile of the partition holds them. -/
def State.members (s : State) (p g : Nat) : List Nat := SMap.getD s.groups (groupNo p g) []

/-- The word index of the first condition under which a command is malformed on a tile (R176). -/
def State.fetchMalformed (s : State) (t : Nat) (c : FCmd) : Option Nat :=
  match fetchBadWord c.w with
  | some i => some i
  | none =>
    if c.mode = 2 then match s.cb t c.handle with
      | none => some 5
      | some b => if c.bursts % (b.size - 1) ≠ 0 then some 1 else none
    else if c.mode = 3 then
      let ms := s.members (s.partOfTile t) c.grp
      if ms.isEmpty then some 7
      else if ms.any (fun m => decide (Config.lsSize m < (c.word 5).toNat + 64 * c.bursts)) then some 5
      else none
    else none

/-- sext(x, 32) of half a word. -/
def sext32 (w : Word) (lo : Nat) : Word := (w.extractLsb' lo 32).signExtend 64

/-- The source address of burst `k`, with the offset of its block (R177). -/
def FCmd.source (c : FCmd) (k : Nat) (blk : Word) : Word :=
  let i (j : Nat) : Word := BitVec.ofNat 64 (bits (c.vector k) (16 * j) 16)
  c.word 0 + blk + 64 * i 0 + i 1 * c.word 2 + i 2 * sext32 (c.word 3) 0

/-- The offset of burst `k`'s block: from the table entry that is in, or from s3 (R177). -/
def FCmd.blockOffset (c : FCmd) (k : Nat) : Option Word :=
  if c.tbl = 0 then some (BitVec.ofNat 64 (c.block k) * sext32 (c.word 3) 32)
  else match c.entry with
    | some (b, w) => if b = c.block k then some w else none
    | none => none

/-- The next burst to read and its source: one to be read again, whose source stands, or the next of the iteration once its
block's offset is known (R177, R184). -/
def FCmd.nextRead (c : FCmd) : Option (Nat × Word) :=
  match c.redo with
  | e :: _ => some e
  | [] => (c.blockOffset c.k).map (fun b => (c.k, c.source c.k b))

/-- A burst to be read again takes its place by linear index (R177). -/
def insertRedo (e : Nat × Word) : List (Nat × Word) → List (Nat × Word)
  | [] => [e]
  | x :: xs => if e.1 < x.1 then e :: x :: xs else x :: insertRedo e xs

/-! ## Channels -/

/-- The command that a channel reads for: the first with reads to issue (R174). -/
def Chan.active (c : Chan) : Option FCmd := c.cmds.find? (·.reading)
def State.cmd (s : State) (t ch : Nat) (id : BitVec 32) : Option FCmd := (s.chan t ch).cmds.find? (fun c => c.id == id)

/-- The channel goes on with its reads in the next cycle; a command whose table entry is not in reads it first (R174, R184,
R196). -/
def State.activate (s : State) (t ch : Nat) : State :=
  let s := s.onChan t ch (fun c => { c with ready := s.now + 1 })
  match (s.chan t ch).active with
  | none => s
  | some c =>
    let s := if c.tbl = 0 then s else s.schedule (s.now + 1) 1 (.fetchTableRead t ch)
    s.schedule (s.now + 1) 1 (.fetchReadIssue t)

/-- What the address of an engine's access names: a target with its owner, a walk to wait for, or a cause (R184). -/
inductive EngineTrans where
  | ok (tgt : Target) (owner k : Nat) (s : State)
  | miss
  | fault (cause : Nat)

def State.engineTrans (s : State) (t : Nat) (c : FCmd) (a : Word) (p : Perm) : EngineTrans :=
  match s.region t c.sup a with
  | none => .fault 3
  | some (.peer _ _) => .fault 3
  | some (.ls d o) => .ok (.ls d o) d (cellNo d true o) s
  | some (.md va) => match s.tlb t va p with
    | .fault k => .fault k
    | .miss => .miss
    | .ok tgt s => match s.locate t tgt with
      | none => .fault 4
      | some (o, k) => .ok tgt o k s

/-- Start a walk that a command waits for. -/
def State.engineWalk (s : State) (t ch : Nat) (c : FCmd) (a : Word) (p : Perm) (kind : Nat) : State :=
  (s.onCmd t ch c.id (fun c => { c with walks := c.walks + 1 })).startWalk t a p (.channel ch c.id kind)

/-- In mode 2 a command takes the producer side of its buffer before its first read, or waits for it (R201). -/
def State.fetchSide (s : State) (t ch : Nat) (c : FCmd) : Bool × State :=
  if c.mode ≠ 2 then (true, s) else s.wantSide t c.handle true (.fetch ch c.id)

/-! ## The block table (R177) -/

/-- The lowest free tags of 256, `n` of them. -/
def freeTags (m : SMap Tag) (n : Nat) : List Nat :=
  ((List.range 256).filter (fun g => (SMap.find? m g).isNone)).take n

/-- The iteration vector of a linear index (R177). -/
def FCmd.coords (c : FCmd) (k : Nat) : Nat × Nat × Nat × Nat :=
  (k % c.n 0, k / c.n 0 % c.n 1, k / (c.n 0 * c.n 1) % c.n 2, c.block k)

/-- Send the read of the entry of the next block, under a read tag of its own (R183, R248). -/
def State.tableRead (s : State) (t ch : Nat) : State :=
  let x := s.chan t ch
  match x.active with
  | none => s
  | some c =>
    if c.tbl = 0 ∨ c.bursts ≤ c.k ∨ c.asked.isSome = true ∨ c.walks ≠ 0 ∨ x.stopped.isSome = true ∨ (s.tile t).halted
        ∨ (c.blockOffset c.k).isSome = true ∨ 256 ≤ (s.fetch t).reads.length then s
    else
      let r := s.fetchSide t ch c
      if !r.1 then r.2
      else
        let s := r.2
        let b := c.block c.k
        let a := c.tbl + 8 * BitVec.ofNat 64 b
        match s.engineTrans t c a permR with
        | .fault k => s.stopCmd t ch c.id ⟨2, k, a, c.k⟩
        | .miss => s.engineWalk t ch c a permR 2
        | .ok tgt o k s =>
          let g := (freeTags (s.fetch t).reads 1).headD 0
          let s := s.onFetch t (fun f =>
            { f with reads := SMap.put f.reads g ⟨ch, c.id, c.k, c.coords c.k, a, none, s.seq, [], 0, none, true⟩ })
          (s.onCmd t ch c.id (fun c => { c with asked := some b })).request t tgt o k a (.load 8) (.table t ch g) c.lin c.sup

/-- `fetchTableRead` (R177, R196). -/
def execFetchTableRead (s : State) : Host.Outcome State Fault Refusal :=
  onEvent (fun e => match e with | .fetchTableRead t ch => some (s.tableRead t ch) | _ => none) s

/-- A table entry is in, for the block that was asked for, or stops the channel (R177). -/
def State.tableEntry (s : State) (t ch : Nat) (id : BitVec 32) (ans : Answer) : State :=
  match s.cmd t ch id with
  | none => s
  | some c => match c.asked with
    | none => s
    | some b =>
      let s := s.onCmd t ch id (fun c => { c with asked := none })
      let a := c.tbl + 8 * BitVec.ofNat 64 b
      match ans with
      | .fail k => s.stopCmd t ch id ⟨2, if k = 7 then 7 else 3, a, c.k⟩
      | .data bs =>
        if bits (wordOf bs) 0 6 ≠ 0 then s.stopCmd t ch id ⟨2, 2, a, c.k⟩
        else s.onCmd t ch id (fun c => { c with entry := some (b, wordOf bs) })

/-- The answer of a table read is in: its tag is free, for a read that waits for one, and the engine finds its command by it
(R177, R183, R248). -/
def State.tableAnswer (s : State) (t ch g : Nat) (ans : Answer) : State :=
  match SMap.find? (s.fetch t).reads g with
  | none => s
  | some x =>
    if !x.table || x.ch != ch then s
    else
      let s := s.onFetch t (fun f => { f with reads := SMap.erase f.reads g })
      (s.tableEntry t ch x.id ans).schedule s.now 1 (.fetchReadIssue t)

/-- `fetchTableEntryArrival` (R177). -/
def execFetchTableEntryArrival (s : State) : Host.Outcome State Fault Refusal :=
  onEvent (fun e => match e with
    | .fetchTableEntryArrival t ch g ans => some (s.tableAnswer t ch g ans)
    | _ => none) s

/-! ## Reads (R183, R184) -/

/-- Copies that each burst of a command is written in. -/
def State.copies (s : State) (t : Nat) (c : FCmd) : Nat :=
  match c.mode with
  | 0 => 1
  | 3 => (s.members (s.partOfTile t) c.grp).length
  | _ => 0

/-- Bursts in a slot of the command's buffer (R180). -/
def Cb.perSlot (c : Cb) : Nat := c.size - 1

/-- Mode 2: the slot of the burst has space; the first slot is the buffer's produced count when the first read issues
(R180). -/
def State.slotSpace (s : State) (t : Nat) (c : FCmd) : Bool :=
  match s.cb t c.handle with
  | none => false
  | some b =>
    let p0 := if c.started then c.p0 else b.produced
    decide ((p0 + BitVec.ofNat 32 (c.next / b.perSlot) - b.consumed).toNat < b.count)

/-- The destination address of burst `k` in mode 0. -/
def FCmd.dest (c : FCmd) (k : Nat) : Word := c.word 5 + BitVec.ofNat 64 (64 * k)

/-- The read of the next burst goes out (R183). A command's first read fixes the first slot of mode 2 (R180). -/
def State.sendRead (s : State) (t ch : Nat) (c : FCmd) (burst : Nat) (a : Word) (tgt : Target) (o k : Nat)
    (dst : Option Target) : State :=
  let f := s.fetch t
  let tag := (freeTags f.reads 1).headD 0
  let wtags := freeTags f.writes (s.copies t c)
  let x : Tag := ⟨ch, c.id, burst, c.coords burst, a, dst, s.seq, wtags, 0, none, false⟩
  let p0 := if c.mode = 2 ∧ c.started = false then ((s.cb t c.handle).map Cb.produced).getD 0 else c.p0
  let s := s.onFetch t (fun f =>
    { f with reads := SMap.put f.reads tag x, writes := wtags.foldl (fun m g => SMap.put m g x) f.writes, rr := ch,
             issued := s.now + 1, landing := if c.mode = 1 then f.landing + 1 else f.landing })
  let s := s.onCmd t ch c.id (fun c =>
    { c with reads := c.reads + 1, redo := c.redo.drop 1, k := if c.redo.isEmpty then c.k + 1 else c.k, started := true,
             p0 := p0 })
  let s := s.request t tgt o k a (.load 64) (.burst t tag) c.lin c.sup
  let s := s.schedule (s.now + 1) 1 (.fetchReadIssue t)
  match s.cmd t ch c.id with
  | none => s
  | some c =>
    if !c.reading then s.activate t ch
    else if c.nextRead.isNone then s.schedule (s.now + 1) 1 (.fetchTableRead t ch)
    else s

/-- What checking the destination of a burst gives: mode 0 alone has one to check before the read (R184). -/
def State.destTrans (s : State) (t : Nat) (c : FCmd) (burst : Nat) : EngineTrans :=
  if c.mode = 0 then s.engineTrans t c (c.dest burst) permW else .ok (.ls t 0) t 0 s

/-- Check and issue the next read of a channel, if it is ready; whether a read went out (R183, R184). Walks of source and
destination run together (R196). -/
def State.tryRead (s : State) (t ch : Nat) : Bool × State :=
  let x := s.chan t ch
  let f := s.fetch t
  match x.active with
  | none => (false, s)
  | some c =>
    if s.now < x.ready ∨ x.stopped.isSome = true ∨ c.walks ≠ 0 ∨ 256 ≤ f.reads.length
        ∨ (s.tile t).halted then (false, s)
    else match c.nextRead with
      | none => (false, s.tableRead t ch)
      | some (burst, a) =>
        let r := s.fetchSide t ch c
        let s := r.2
        let ready :=
          r.1 && (c.mode != 1 || decide (f.landing < 1024)) && (c.mode != 2 || s.slotSpace t c)
            && decide (f.writes.length + s.copies t c ≤ 256)
        if !ready then (false, s)
        else
          let b := c.dest burst
          match s.engineTrans t c a permR with
          | .fault k => (false, s.stopCmd t ch c.id ⟨0, k, a, burst⟩)
          | .miss =>
            let s := s.engineWalk t ch c a permR 0
            match s.destTrans t c burst with
            | .miss => (false, s.engineWalk t ch c b permW 1)
            | _ => (false, s)
          | .ok tgt o k s => match s.destTrans t c burst with
            | .fault k => (false, s.stopCmd t ch c.id ⟨1, k, b, burst⟩)
            | .miss => (false, s.engineWalk t ch c b permW 1)
            | .ok d _ _ s => (true, s.sendRead t ch c burst a tgt o k (if c.mode = 0 then some d else none))

/-- The first channel of a list that issues a read. -/
def State.readFrom (s : State) (t : Nat) : List Nat → State
  | [] => s
  | ch :: rest =>
    let r := s.tryRead t ch
    if r.1 then r.2 else r.2.readFrom t rest

/-! ## Copies of a burst (R178, R179, R182 to R185) -/

/-- The write tags of a burst are free. -/
def State.freeWrites (s : State) (t : Nat) (l : List Nat) : State :=
  s.onFetch t (fun f => { f with writes := l.foldl SMap.erase f.writes })

/-- Write 64 bytes or 64 bytes of poison at this tile (R185). Poison keeps the bytes that are there, and wakes no watcher
of a word among them (DESIGN CHOICE, log entry 62). -/
def State.putBlock (s : State) (k : Nat) : Option (List Byte) → State
  | some bs => (s.performWrite k (placed bs)).2.2
  | none => (s.touch k true).2.poisonRange k 64

/-- A copy of a burst that is in place: once the last is, a good burst counts as delivered (R182, R185). -/
def State.copyDone (s : State) (t g : Nat) (x : Tag) : State :=
  let s := s.freeWrites t [g]
  let left := List.any (s.fetch t).writes (fun e => e.2.ch == x.ch && e.2.id == x.id && e.2.k == x.k)
  if left || x.data.isNone then s else s.onCmd t x.ch x.id (fun c => { c with delivered := c.delivered + 1 })

/-- A burst of which a copy will never be written does not count as delivered (R182). -/
def State.copyLost (s : State) (t g : Nat) (x : Tag) : State :=
  (s.freeWrites t [g]).onFetch t (fun f => { f with writes := f.writes.map (fun e =>
    (e.1, if e.2.ch == x.ch && e.2.id == x.id && e.2.k == x.k then { e.2 with data := none } else e.2)) })

/-- A copy is refused: the channel stops there, and the engine keeps the bytes, which are never read again; a command that
was aborted gives the copy up (R184). -/
def State.copyRefused (s : State) (t g : Nat) (x : Tag) (cause : Nat) (data : Option (List Byte)) : State :=
  match s.cmd t x.ch x.id with
  | none => s.freeWrites t [g]
  | some c =>
    if c.aborted then s.copyLost t g x
    else (s.onCmd t x.ch x.id (fun c => { c with again := c.again ++ [(x.k, g, x.va, data)] })).stopCmd t x.ch x.id
      ⟨1, cause, x.va, x.k⟩

/-- Write one copy of a burst: here at once, elsewhere as an engine write that holds its tag (R178, R183). -/
def State.copyOut (s : State) (t : Nat) (x : Tag) (c : FCmd) (va : Word) (tgt : Target) (g : Nat)
    (data : Option (List Byte)) : State :=
  let x := { x with va := va, data := data }
  let s := s.onFetch t (fun f => { f with writes := SMap.put f.writes g x })
  match s.locate t tgt with
  | none => s.copyRefused t g x 4 data
  | some (o, k) =>
    if s.real o = t then (s.putBlock k data).copyDone t g x
    else
      (s.onCmd t x.ch x.id (fun c => { c with writes := c.writes + 1 })).send t o
        (.ewrite ⟨t, o, tgt, va, some (data.getD (List.replicate 64 0)), data.isNone, x.ch, g, c.lin, c.sup⟩)

/-- Check and write again the copies of a command that were refused, once its channel goes on (R184). -/
def State.rewrite (s : State) (t ch : Nat) (id : BitVec 32) : Nat → State
  | 0 => s
  | fuel + 1 => match s.cmd t ch id with
    | none => s
    | some c => match c.again with
      | [] => s
      | (k, g, va, data) :: rest =>
        if c.stop.isSome || c.walks != 0 then s
        else match s.engineTrans t c va permW, SMap.find? (s.fetch t).writes g with
          | .fault e, _ => s.stopCmd t ch id ⟨1, e, va, k⟩
          | .miss, _ => s.engineWalk t ch c va permW 1
          | .ok tgt _ _ s, some x =>
            ((s.onCmd t ch id (fun c => { c with again := rest })).copyOut t x c va tgt g data).rewrite t ch id fuel
          | .ok _ _ _ s, none => (s.onCmd t ch id (fun c => { c with again := rest })).rewrite t ch id fuel

/-- Copies of a tile's commands that are to be written again. -/
def State.rewriteAll (s : State) (t : Nat) : State :=
  if (s.tile t).halted then s
  else (List.range 8).foldl (fun s ch => (s.chan t ch).cmds.foldl (fun s c =>
    if c.again.isEmpty then s
    else (s.rewrite t ch c.id c.again.length).schedule s.now 1 (.fetchCompletionPoint t ch)) s) s

/-! ## Issue of reads (R183) -/

/-- At most one read in a cycle, channels in round-robin (R183). -/
def State.readIssue (s : State) (t : Nat) : State :=
  let s := s.rewriteAll t
  let f := s.fetch t
  if s.now < f.issued then s else s.readFrom t ((List.range 8).map (fun i => (f.rr + 1 + i) % 8))

/-- `fetchReadIssue` (R183). -/
def execFetchReadIssue (s : State) : Host.Outcome State Fault Refusal :=
  onEvent (fun e => match e with | .fetchReadIssue t => some (s.readIssue t) | _ => none) s

/-! ## Bursts that land (R178 to R181, R185) -/

/-- A burst's tag and command; the tag is free again. -/
def State.landed (s : State) (b : Burst) : Option (Tag × FCmd) × State :=
  match SMap.find? (s.fetch b.tile).reads b.tag with
  | none => (none, s)
  | some x =>
    let s := s.onFetch b.tile (fun f => { f with reads := SMap.erase f.reads b.tag })
    let s := s.onCmd b.tile x.ch x.id (fun c => { c with reads := c.reads - 1 })
    let s := (s.schedule s.now 1 (.fetchReadIssue b.tile)).schedule s.now 1 (.fetchCompletionPoint b.tile x.ch)
    ((s.cmd b.tile x.ch x.id).map (fun c => (x, c)), s)

/-- A landing slot that a burst of mode 1 holds frees. -/
def State.giveLanding (s : State) (t : Nat) (c : FCmd) : State := if c.mode = 1 then s.freeLanding t else s

/-- A read that its owner refused stops the channel; the burst is to be read again from the same source (R184). -/
def State.readRefused (s : State) (t : Nat) (x : Tag) (c : FCmd) : State :=
  let s := (s.freeWrites t x.wtags).giveLanding t c
  if c.aborted then s
  else (s.onCmd t x.ch x.id (fun c => { c with redo := insertRedo (x.k, x.src) c.redo })).stopCmd t x.ch x.id ⟨0, 3, x.src, x.k⟩

/-- A burst of poison: its status is 2, and the supervisor is told (R185). -/
def State.dataError (s : State) (t : Nat) (x : Tag) (c : FCmd) : State :=
  (s.onCmd t x.ch x.id (fun c => { c with status := if c.aborted then 1 else 2 })).message t
    (fetchMessage t x.ch c ⟨4, 7, x.src, x.k⟩)

/-- Land a burst: refused, discarded, or delivered whole or poisoned by `put` (R184, R185). -/
def State.land (s : State) (b : Burst) (put : State → Tag → FCmd → Option (List Byte) → State) : State :=
  let r := s.landed b
  match r.1 with
  | none => r.2
  | some (x, c) =>
    if c.killed then ((r.2.freeWrites b.tile x.wtags).giveLanding b.tile c)
    else match b.ans with
      | .data bs => put r.2 x c (some bs)
      | .fail 7 => put (r.2.dataError b.tile x c) x c none
      | .fail _ => r.2.readRefused b.tile x c

/-- `burstLandBuffer` (R178). -/
def execBurstLandBuffer (s : State) : Host.Outcome State Fault Refusal :=
  onEvent (fun e => match e with
    | .burstLandBuffer b => some (s.land b (fun s x c data => match x.dst with
      | some tgt => s.copyOut b.tile x c (c.dest x.k) tgt (x.wtags.headD 0) data
      | none => s))
    | _ => none) s

/-- `burstLandMulticast`: a copy at the same offset of every member (R179). -/
def execBurstLandMulticast (s : State) : Host.Outcome State Fault Refusal :=
  onEvent (fun e => match e with
    | .burstLandMulticast b => some (s.land b (fun s x c data =>
      let off := (c.word 5).toNat + 64 * x.k
      ((s.members (s.partOfTile b.tile) c.grp).zip x.wtags).foldl (fun s m =>
        s.copyOut b.tile x c (BitVec.ofNat 64 (0xFE * 2 ^ 56 + m.1 * 2 ^ 32 + off)) (.ls m.1 off) m.2 data) s))
    | _ => none) s

/-- `burstLandCb`: the burst's place in its slot; a full slot is pushed in the next cycle (R180, R241). -/
def execBurstLandCb (s : State) : Host.Outcome State Fault Refusal :=
  onEvent (fun e => match e with
    | .burstLandCb b => some (s.land b (fun s x c data => match s.cb b.tile c.handle with
      | none => s
      | some q =>
        let j := x.k / q.perSlot
        let pos := q.prodPos (c.p0 + BitVec.ofNat 32 j)
        let s := s.putBlock (slotCell b.tile q pos + 64 + 64 * (x.k % q.perSlot)) data
        let n := SMap.getD c.slots j 0 + 1 + (if data.isSome then 1024 else 0)
        let s := s.onCmd b.tile x.ch x.id (fun c => { c with slots := SMap.put c.slots j n })
        if n % 1024 = q.perSlot then s.scheduleLast (s.now + 1) (.fetchSlotPush b.tile x.ch) else s))
    | _ => none) s

/-- A context with what a command's strands inherit (R68). -/
def FCmd.heir (c : FCmd) (t : Nat) (sid : BitVec 32) (pc : Nat) (g : Vector Word 24) : Ctx :=
  let p : Ctx := { (default : Ctx) with lin := c.lin, sup := c.sup, cls := BitVec.ofNat 2 (bits (c.word 7) 14 2),
                                        tvec := c.tvec, plim := c.plim, pmin := c.pmin, phold := c.phold }
  p.birth t sid (BitVec.ofNat 48 pc) g 1

/-- The registers of a handler (R181). -/
def handlerRegs (c : FCmd) (ch k : Nat) (src : Word) (bs : List Byte) : Vector Word 24 :=
  Vector.ofFn (fun i : Fin 24 =>
    if i.val = 0 then c.aux
    else if i.val = 1 then c.vector k
    else if i.val = 2 then BitVec.ofNat 64 (c.id.toNat + ch * 2 ^ 32)
    else if i.val = 3 then src
    else if 8 ≤ i.val ∧ i.val < 16 then wordOf ((bs.drop (8 * (i.val - 8))).take 8)
    else 0)

/-- A strand of a command is made; it asks for a slot four cycles later (R183, R196). -/
def State.engineBirth (s : State) (t : Nat) (c : FCmd) (pc : Nat) (g : Vector Word 24) (b : Birth)
    (h : Option (Nat × Nat × BitVec 32)) : State :=
  let i := s.newSid t
  let a := i.2.addStrand { Strand.fresh (c.heir t i.1 pc g) t b with handler := h }
  a.2.schedule (s.now + 4) 1 (.ask t a.1)

/-- `burstLandHandler`: a handler asks for admission (R181). -/
def execBurstLandHandler (s : State) : Host.Outcome State Fault Refusal :=
  onEvent (fun e => match e with
    | .burstLandHandler b => some (s.land b (fun s x c data => match data with
      | none => s.giveLanding b.tile c
      | some bs =>
        (s.onCmd b.tile x.ch x.id (fun c => { c with handlers := c.handlers + 1, delivered := c.delivered + 1 })).engineBirth b.tile c
          (c.word 5).toNat (handlerRegs c x.ch x.k x.src bs) (.handler b.tile x.ch x.id) (some (b.tile, x.ch, x.id))))
    | _ => none) s

/-! ## Engine writes (R178, R182, R183) -/

/-- Perform an engine write or a completion arrival at its owner: a refusal, and the access time. An arrival has no bytes to
write poisoned: one whose payload is uncorrectable is refused with a data error (DEDUCED, log entry 66). -/
def State.performEngine (s : State) (k : Nat) (w : EWrite) : Option Nat × Nat × State :=
  match w.data with
  | none =>
    if w.poisoned then (some 7, 0, s)
    else
    let r := s.performRmw k 8 .arrive 0 0
    (match r.1 with | .data _ => none | .fail _ => some 7, r.2)
  | some bs =>
    if w.poisoned then
      let a := s.touch k true
      (none, a.1, a.2.poisonRange k 64)
    else
      let r := s.performWrite k (placed bs)
      (none, r.2)

/-- An engine write at its owner: discarded by a filter, or performed and acknowledged (R134, R178). -/
def State.engineArrives (s : State) (w : EWrite) : State :=
  let t := s.real w.dst
  let answer (s : State) (a : Nat) (r : Option Nat) : State :=
    s.schedule (s.now + a) 1 (.inject t w.src (.ewriteAck w.src w.ch w.tag r))
  if s.filtered t (.ewrite w) then s
  else match s.reach w.dst w.src w.sup w.tgt with
  | .refuse => answer s 0 (some 3)
  | .forward o => s.send t o (.ewrite { w with dst := o })
  | .hold => s.holdPacket t
  | .perform k => match s.takeTurn t with
    | none => s.defer
    | some s =>
      let r := s.performEngine k w
      answer r.2.2 r.2.1 r.1

/-- `engineWriteArrival` (R178). -/
def execEngineWriteArrival (s : State) : Host.Outcome State Fault Refusal :=
  onEvent (fun e => match e with | .engineWriteArrival w => some (s.engineArrives w) | _ => none) s

/-- An engine write is acknowledged: its tag is free; a refused one stops the channel (R183, R184). -/
def State.writeAcked (s : State) (t g : Nat) (refused : Option Nat) : State :=
  match SMap.find? (s.fetch t).writes g with
  | none => s
  | some x =>
    let s := s.onCmd t x.ch x.id (fun c => { c with writes := c.writes - 1 })
    let s := match refused with
      | some k => s.copyRefused t g x k x.data
      | none => s.copyDone t g x
    (s.schedule s.now 1 (.fetchReadIssue t)).schedule s.now 1 (.fetchCompletionPoint t x.ch)

/-- `engineWriteAck` (R183). -/
def execEngineWriteAck (s : State) : Host.Outcome State Fault Refusal :=
  onEvent (fun e => match e with | .engineWriteAck t _ g r => some (s.writeAcked t g r) | _ => none) s

/-! ## Slots (R180) -/

/-- Every burst of the next slot to push has landed. -/
def State.slotFull (s : State) (t : Nat) (c : FCmd) : Bool :=
  match s.cb t c.handle with
  | none => false
  | some q => c.started && SMap.getD c.slots c.pushed 0 % 1024 == q.perSlot

/-- Push the next slot of a command: its header, then its count. -/
def State.pushSlot (s : State) (t ch : Nat) (c : FCmd) : State :=
  match s.cb t c.handle with
  | none => s
  | some q =>
    let stamp := c.p0 + BitVec.ofNat 32 c.pushed
    let header := bytesOf 8 (headerWord stamp q.cols q.rows q.fmt (bits (c.word 7) 4 4)) ++ List.replicate 56 0
    let s := s.putBlock (slotCell t q (q.prodPos stamp)) (some header)
    let good := SMap.getD c.slots c.pushed 0 / 1024
    let s := s.onCmd t ch c.id (fun c => { c with pushed := c.pushed + 1, delivered := c.delivered + good })
    let s := s.cbProduced t c.handle
    if c.bursts ≤ (c.pushed + 1) * q.perSlot then s.dropSide t c.handle true (.fetch ch c.id) else s

/-- The command of a channel whose next slot is full. -/
def State.slotPush (s : State) (t ch : Nat) : State :=
  match (s.chan t ch).cmds.find? (fun c => c.mode == 2 && !c.killed && s.slotFull t c) with
  | none => s
  | some c =>
    let s := s.pushSlot t ch c
    let s := match s.cmd t ch c.id with
      | some c => if s.slotFull t c then s.scheduleLast s.now (.fetchSlotPush t ch) else s
      | none => s
    s.schedule s.now 1 (.fetchCompletionPoint t ch)

/-- `fetchSlotPush` (R180). -/
def execFetchSlotPush (s : State) : Host.Outcome State Fault Refusal :=
  onEvent (fun e => match e with | .fetchSlotPush t ch => some (s.slotPush t ch) | _ => none) s

/-! ## Completion (R182) -/

/-- Strands that wait for a transfer id that is now complete continue; they are ready in the next cycle (R191). One that lies
in a save area waits for a channel that lies there too. -/
def State.wakeFetch (s : State) (t ch : Nat) : State :=
  let done := (s.chan t ch).fdone
  (s.strands.filter (fun e => e.2.tile == t && (match e.2.place with | .saved _ _ _ _ => false | _ => true) && (match e.2.run with
    | .waiting (.fwait c v) => c == ch && decide ((done - v).toNat < 2 ^ 31)
    | _ => false))).foldl (fun s e => (s.retire e.1).makeReadyAt e.1 (s.now + 1)) s

/-- The tail of a command (R182). -/
def tailRegs (c : FCmd) (ch : Nat) : Vector Word 24 :=
  Vector.ofFn (fun i : Fin 24 =>
    if i.val = 0 then c.aux
    else if i.val = 1 then BitVec.ofNat 64 c.delivered
    else if i.val = 2 then BitVec.ofNat 64 (c.id.toNat + ch * 2 ^ 32 + c.status * 2 ^ 56)
    else 0)

/-- The oldest command of a channel is complete. -/
def State.completeCmd (s : State) (t ch : Nat) (c : FCmd) : State :=
  let s := s.onChan t ch (fun x => { x with cmds := x.cmds.drop 1, fdone := c.id })
  let s := if c.mode = 2 then s.dropSide t c.handle true (.fetch ch c.id) else s
  let s := if c.tpc ≠ 0 ∧ c.killed = false then s.engineBirth t c c.tpc (tailRegs c ch) .tail none else s
  ((s.wakeFetch t ch).schedule s.now 1 (.fetchCompletionPoint t ch)).schedule s.now 1 (.fetchReadIssue t)

/-- Every condition of the completion point holds. -/
def State.atCompletion (s : State) (t : Nat) (c : FCmd) : Bool :=
  !c.reading && c.reads == 0 && c.writes == 0 && c.again.isEmpty && c.handlers == 0 && c.asked.isNone
    && (c.mode != 2 || c.killed || !(s.slotFull t c)) && c.stop.isNone && !c.arriving && c.walks == 0

/-- Send the completion arrival: here it is performed and acknowledged at once; elsewhere it holds a write tag until it is
acknowledged (R182, R183, R248). -/
def State.sendArrival (s : State) (t ch : Nat) (c : FCmd) : State :=
  match s.engineTrans t c c.aux permRW with
  | .fault k => s.stopCmd t ch c.id ⟨3, k, c.aux, c.bursts⟩
  | .miss => s.engineWalk t ch c c.aux permRW 3
  | .ok tgt o k s =>
    let g := (freeTags (s.fetch t).writes 1).headD 0
    let w : EWrite := ⟨t, o, tgt, c.aux, none, false, ch, 256 + g, c.lin, c.sup⟩
    if s.real o = t then
      let r := s.performEngine k w
      match r.1 with
      | some k => r.2.2.stopCmd t ch c.id ⟨3, k, c.aux, c.bursts⟩
      | none => r.2.2.completeCmd t ch c
    else if 256 ≤ (s.fetch t).writes.length then s.schedule (s.now + 1) 1 (.fetchCompletionPoint t ch)
    else
      let tag : Tag := ⟨ch, c.id, c.bursts, c.coords c.bursts, c.aux, none, s.seq, [], c.aux, none, false⟩
      let s := s.onFetch t (fun f => { f with writes := SMap.put f.writes g tag })
      (s.onCmd t ch c.id (fun c => { c with arriving := true })).send t o (.ewrite w)

/-- The write tag of a command's completion arrival is free (R183). -/
def State.freeArrival (s : State) (t ch : Nat) (c : FCmd) : State :=
  let others : Nat × Tag → Bool := fun e => !(e.2.ch == ch && e.2.id == c.id && e.2.k == c.bursts)
  (s.onFetch t (fun f => { f with writes := f.writes.filter others })).schedule s.now 1 (.fetchReadIssue t)

/-- The oldest command of a channel completes, or sends its arrival, if its completion point is reached. -/
def State.completion (s : State) (t ch : Nat) : State :=
  match (s.chan t ch).cmds with
  | [] => s
  | c :: _ =>
    if !(s.atCompletion t c) then s
    else if c.mode ≠ 1 ∧ c.aux ≠ 0 ∧ c.killed = false then s.sendArrival t ch c
    else s.completeCmd t ch c

/-- `fetchCompletionPoint` (R182). -/
def execFetchCompletionPoint (s : State) : Host.Outcome State Fault Refusal :=
  onEvent (fun e => match e with | .fetchCompletionPoint t ch => some (s.completion t ch) | _ => none) s

/-- `completionArrivalAck` (R182, R184). -/
def execCompletionArrivalAck (s : State) : Host.Outcome State Fault Refusal :=
  onEvent (fun e => match e with
    | .completionArrivalAck t ch refused => some (match (s.chan t ch).cmds with
      | [] => s
      | c :: _ =>
        let s := (s.freeArrival t ch c).onCmd t ch c.id (fun c => { c with arriving := false })
        match refused with
        | none => s.completeCmd t ch c
        | some k => if c.killed then s.completeCmd t ch c else s.stopCmd t ch c.id ⟨3, k, c.aux, c.bursts⟩)
    | _ => none) s

/-- A group is locked for the strand that changes it (R189, R193). -/
def State.lockedBy (s : State) (n : Nat) : Option Nat := (s.locks.find? (fun l => l.1 == n)).map (·.2)
def State.lock (s : State) (n u : Nat) : State := { s with locks := (n, u) :: s.locks.filter (fun l => l.1 != n) }
def State.unlock (s : State) (n : Nat) : State := { s with locks := s.locks.filter (fun l => l.1 != n) }

/-! ## fetch, fid, fdone, fwait, fstat (R189 to R192) -/

/-- A command as `fetch` makes it. -/
def newCmd (w : Vector Word 8) (id : BitVec 32) (x : Ctx) : FCmd :=
  { w := w, id := id, lin := x.lin, sup := x.sup, tvec := x.tvec, plim := x.plim, pmin := x.pmin, phold := x.phold,
    k := 0, redo := [], again := [], entry := none, asked := none, stop := none, walks := 0, reads := 0, writes := 0, handlers := 0,
    delivered := 0, status := 0, aborted := false, started := false, p0 := 0, pushed := 0, slots := [],
    arriving := false, killed := false }

/-- Accept a command (R189). -/
def State.acceptFetch (s : State) (t ch : Nat) (w : Vector Word 8) (x : Ctx) : State :=
  let c := s.chan t ch
  let s := s.onChan t ch (fun c => { c with fid := c.fid + 1, cmds := c.cmds ++ [newCmd w (c.fid + 1) x] })
  if c.active.isNone then s.activate t ch else s

/-- `fetch` (R189). -/
def execFetch (r : BitVec 5) (p : BitVec 4) (c : BitVec 4) (s : State) : Host.Outcome State Fault Refusal :=
  issueWith (eightFrom r) [] (eightFrom r) (fun u x s =>
    let t := x.tile
    let w := x.eight r
    let cmd := newCmd w 0 x.ctx
    match s.fetchMalformed t cmd with
    | some i => trapAct s 0x0E (BitVec.ofNat 64 i)
    | none =>
      if cmd.mode = 3 ∧ (s.lockedBy (groupNo (s.partOfTile t) cmd.grp)).isSome = true then waitAct s
      else if 8 ≤ (s.chan t c.toNat).cmds.length then .ok ((s.onStrand u (fun y => y.setPred p true)).retire u)
      else .ok (((s.acceptFetch t c.toNat w x.ctx).onStrand u (fun y => y.setPred p false)).retire u)) s

/-- `fid` (R190). -/
def execFid (d c : BitVec 5) (s : State) : Host.Outcome State Fault Refusal :=
  issue [] [d] (fun u x s => writeBack u d (toWord (s.chan x.tile c.toNat).fid) s) s

/-- `fdone` (R190). -/
def execFdone (d c : BitVec 5) (s : State) : Host.Outcome State Fault Refusal :=
  issue [] [d] (fun u x s => writeBack u d (toWord (s.chan x.tile c.toNat).fdone) s) s

/-- `fwait` (R191). -/
def execFwait (a c : BitVec 5) (s : State) : Host.Outcome State Fault Refusal :=
  issue [a] [] (fun u x s => mayLeave u x s (fun u x s =>
    let v : BitVec 32 := (x.reg a).setWidth 32
    let ch := s.chan x.tile c.toNat
    let ahead := (v - ch.fid).toNat
    if 1 ≤ ahead ∧ ahead < 2 ^ 31 then trapAct s 0x0E (toWord v)
    else if (ch.fdone - v).toNat < 2 ^ 31 then .ok (s.retire u)
    else .ok (s.waitFor u (.fwait c.toNat v)))) s

/-- The status word of a channel (R192). -/
def Chan.status (c : Chan) : Word :=
  let tid := match c.cmds with | k :: _ => k.id | [] => c.fdone
  let st := match c.cmds with | k :: _ => k.status | [] => 0
  let run := match c.cmds with | k :: _ => k.reading | [] => false
  let f := c.stopped.bind (·.stop)
  BitVec.ofNat 64 (tid.toNat * 2 ^ 32 + st * 2 ^ 24 + ((f.map (·.kind)).getD 0) * 2 ^ 16
    + ((f.map (·.cause)).getD 0) * 2 ^ 8 + (if run then 32 else 0) + (if f.isSome then 16 else 0) + c.cmds.length)

/-- `fstat` (R192). -/
def execFstat (d c : BitVec 5) (s : State) : Host.Outcome State Fault Refusal :=
  issue [] [d] (fun u x s => writeBack u d (s.chan x.tile c.toNat).status s) s

/-! ## Multicast groups (R193) -/

/-- A fetch engine holds an incomplete command of mode 3 that names the group. -/
def Fetch.names (f : Fetch) (g : Nat) : Bool :=
  f.chans.toList.any (fun c => c.cmds.any (fun k => k.mode == 3 && k.grp == g))

/-- Some tile of the partition holds an incomplete command of mode 3 that names the group, in its engine or in a save area
(R193). A function that is out has its own groups, which its commands name (R269). -/
def State.groupBusy (s : State) (p g : Nat) : Bool :=
  List.any s.fetches (fun e => s.partOfTile e.1 == p && e.2.names g)
    || List.any s.saved (fun e => e.2.out && s.partOfTile (e.1 / 2 ^ 23) == p && e.2.fetch.names g &&
      (decide (e.1 % 2 ^ 23 < 2 ^ 21) || decide (2 ^ 22 ≤ e.1 % 2 ^ 23) || e.1 % 2 ^ 23 == 2 ^ 21 + (s.part p).turn))

/-- The instruction retires with its result, and the group is unlocked. -/
def groupDone (n : Nat) (d : Reg) (u : Nat) (r : Nat) (s : State) : Act := writeBack u d (BitVec.ofNat 64 r) (s.unlock n)

/-- The member list of a record's words, none when it breaks R193. -/
def State.memberList (s : State) (p m : Nat) (ws : List Word) : Option (List Nat) :=
  let e := ws.flatMap (fun w => (List.range 4).map (fun i => bits w (16 * i) 16))
  let l := e.take m
  if Config.partitions ≤ p then none
  else if l.any (fun x => decide (4096 ≤ x) || decide (Config.tiles ≤ x) || s.partOfTile x != p) || l.eraseDups.length != m
    then none
  else some l

/-- `mcset` on group `g` of partition `p`, from the record at `r` (R193): phase 1 waits for its first word, phase 2 + M
for the entries of M members. A trap unlocks the group. -/
def mcsetAt (p g : Nat) (r : Word) (d : Reg) (u : Nat) (x : Strand) (s : State) : Act :=
  let n := groupNo p g
  let entries (m : Nat) : Nat := (m + 3) / 4
  if x.prog.phase = 0 then
    if (s.lockedBy n).isSome && s.lockedBy n != some u then waitAct s
    else
      let s := s.lock n u
      if s.groupBusy p g then groupDone n d u 1 s else recordAt r s (askWords true r 1 1 u x)
  else if x.prog.phase = 1 then gotWords 1 x s (fun ws s =>
    let w := ws.headD 0
    if w.toNat < 1 ∨ 64 < w.toNat then groupDone n d u 2 s
    else askWords true (r + 8) (entries w.toNat) (2 + w.toNat) u x s)
  else
    let m := x.prog.phase - 2
    gotWords (entries m) x s (fun ws s => match s.memberList p m ws with
      | none => groupDone n d u 2 s
      | some l => groupDone n d u 0 { s with groups := SMap.put s.groups n l })

/-- `mcset` (R193). -/
def execMcset (d a b : BitVec 5) (s : State) : Host.Outcome State Fault Refusal :=
  issueSup [a, b] [d] (fun u x s => mcsetAt (bits (x.reg a) 8 6) (bits (x.reg a) 0 6) (x.reg b) d u x s) s

/-- `mcclr` (R193). -/
def execMcclr (d a : BitVec 5) (s : State) : Host.Outcome State Fault Refusal :=
  issueSup [a] [d] (fun u x s =>
    let p := bits (x.reg a) 8 6
    let g := bits (x.reg a) 0 6
    if (s.lockedBy (groupNo p g)).isSome then waitAct s
    else if s.groupBusy p g then writeBack u d 1 s
    else writeBack u d 0 { s with groups := SMap.erase s.groups (groupNo p g) }) s

/-! ## fres, fabt (R194) -/

/-- Send an operation of a supervisor strand to a tile and wait for its answer in the barrel slot. -/
def askTile (t : Nat) (p : Packet) (u : Nat) (x : Strand) (s : State) : Act :=
  .ok ((s.onStrand u (fun y => { y with run := .held, prog := { Prog.none with phase := 1 } })).send x.tile t p)

/-- `fres` and `fabt` at the issuer. -/
def channelOp (abort : Bool) (d a c : Reg) (s : State) : Host.Outcome State Fault Refusal :=
  issueSup [a] [d] (fun u x s =>
    if x.prog.phase = 2 then writeBack u d x.prog.val s
    else
      let t := bits (x.reg a) 0 12
      if Config.tiles ≤ t ∨ Config.dieOf t ≠ Config.dieOf x.tile then writeBack u d 2 s
      else askTile t (.fres ⟨t, c.toNat, BitVec.ofNat 32 (bits (x.reg a) 32 32), abort, u⟩) u x s) s

/-- `fres` (R194). -/
def execFres (d a c : BitVec 5) (s : State) : Host.Outcome State Fault Refusal := channelOp false d a c s
/-- `fabt` (R194). -/
def execFabt (d a c : BitVec 5) (s : State) : Host.Outcome State Fault Refusal := channelOp true d a c s

/-- Clear the stop of a command and go on from it; what stood behind it goes on as well (R184). -/
def State.resumeCmd (s : State) (t ch : Nat) (c : FCmd) (f : FStop) : State :=
  let s := s.onCmd t ch c.id (fun c => { c with stop := none, entry := if f.kind = 2 then none else c.entry })
  (s.schedule s.now 1 (if f.kind = 3 then .fetchCompletionPoint t ch else .fetchTableRead t ch)).schedule s.now 1
    (.fetchReadIssue t)

/-- Abort a command: no further read, status 1, its stop cleared, its refused copies given up; with a stop of kind 3 it is
complete. What stands behind it may issue reads from the next cycle on (R184, R194). -/
def State.abortCmd (s : State) (t ch : Nat) (c : FCmd) : State :=
  let kind := (c.stop.map (·.kind)).getD 0
  let was := (s.chan t ch).active.map (·.id)
  let s := c.again.foldl (fun s e => match SMap.find? (s.fetch t).writes e.2.1 with
    | some x => s.copyLost t e.2.1 x
    | none => s) s
  let s := s.onCmd t ch c.id (fun c => { c with aborted := true, status := 1, stop := none, asked := none, again := [],
                                                walks := if c.reading || !c.again.isEmpty then 0 else c.walks })
  let s := if was = some c.id ∨ c.stop.isSome = true then s.activate t ch else s
  if kind = 3 then s.completeCmd t ch { c with aborted := true, status := 1 }
  else s.schedule s.now 1 (.fetchCompletionPoint t ch)

/-- The number of the record of a tile under a key. -/
def savedNo (t key : Nat) : Nat := t * 2 ^ 23 + key

/-- The saved record of a tile whose channel holds an incomplete command, and the command (R194). -/
def State.savedCmd (s : State) (t ch : Nat) (id : BitVec 32) : Option (Nat × Saved × FCmd) :=
  List.findSome? (fun e => ((e.2.fetch.chans[ch]?.getD default).cmds.find? (fun c => c.id == id)).map (fun c => (e.1, e.2, c)))
    ((SMap.inRange s.saved (savedNo t 0) (savedNo (t + 1) 0)).filter (fun e => e.2.out))

/-- An operation on a saved channel takes effect at the restore: rd (R194). -/
def State.channelOpSaved (s : State) (r : FresReq) : Nat × State :=
  match s.savedCmd (s.real r.tile) r.ch r.id with
  | none => (1, s)
  | some (k, v, c) =>
    if !r.abort && (c.stop.isNone || v.ops.any (fun o => o.ch == r.ch && o.id == r.id)) then (1, s)
    else (0, { s with saved := SMap.put s.saved k { v with ops := v.ops ++ [r] } })

/-- What `fres` and `fabt` find and do at the channel, of the tile that answers to the number: rd (R82, R194). -/
def State.channelOpArrives (s : State) (r : FresReq) : Nat × State :=
  let t := s.real r.tile
  match s.cmd t r.ch r.id with
  | none => s.channelOpSaved r
  | some c =>
    if r.abort then (0, s.abortCmd t r.ch c)
    else match c.stop with
      | none => (1, s)
      | some f => (0, s.resumeCmd t r.ch c f)

/-- Answer an operation of a strand with a value. -/
def State.answerOp (s : State) (t u : Nat) (v : Word) : State :=
  match s.strand u with
  | none => s
  | some x => s.send t x.tile (.opAck u v)

/-- `fresAtChannel` (R194). -/
def execFresAtChannel (s : State) : Host.Outcome State Fault Refusal :=
  onEvent (fun e => match e with
    | .fresAtChannel r => some (
      let a := s.channelOpArrives r
      a.2.answerOp (s.real r.tile) r.uid (BitVec.ofNat 64 a.1))
    | _ => none) s

end Sys2Proof.Machine
end

