-- ==== Sys2Proof/Machine/Exchange.lean ====
section
/-! DEFINITION. The exchange engine: channels and binding (R228 to R230), shipping and permits (R231 to R234), counter
faults and errors (R235, R236), closing and status (R237, R238). -/

namespace Sys2Proof.Machine
open Sys2Proof

/-! ## Flits that arrive (R112, R239) -/

/-- The source and the destination of an access on its way to its owner. -/
def accessPair : Event → Option (Nat × Nat)
  | .requestArrival r => some (r.src, r.dst)
  | .postedArrival p => some (p.src, p.dst)
  | .engineWriteArrival w => some (w.src, w.dst)
  | .xchDataFlitArrival f => some (f.src, f.dst)
  | _ => none

/-- An access from one tile has reached the other and waits there for its turn or at its port: what comes after it from the
same tile waits behind it (R112). -/
def State.pairWaits (s : State) (src dst : Nat) : Bool :=
  s.behindHeld dst src || s.agenda.any (fun e => e.phase == 2 && decide (e.arr < e.due) && decide (e.arr ≤ s.now) &&
    (match accessPair e.ev with
      | some (a, b) => s.real a == s.real src && s.real b == s.real dst
      | none => false))

/-- A control flit of a channel's other end reaches tile `t`: it waits for the tile's restore and behind the accesses of its
pair, then acts. -/
def State.fromPeer (s : State) (t ch : Nat) (act : State → State) : State :=
  if s.unready t then s.holdPacket t
  else if s.pairWaits (s.xchan t ch).peer t then s.defer
  else act s

/-! ## Binding (R229, R230) -/

/-- The index of the first word of a descriptor that breaks R229, for an issuer on tile `t`. -/
def State.xchBadWord (s : State) (t : Nat) (w : List Word) : Option Nat :=
  let w0 := w.getD 0 0
  let peer := bits w0 0 12
  let sbytes := bits w0 32 16
  if Config.tiles ≤ peer ∨ s.partOfTile peer ≠ s.partOfTile t
      ∨ bits w0 14 2 ≠ 0 ∨ bits w0 24 8 ≠ 0
      ∨ sbytes % 64 ≠ 0 ∨ sbytes < 128 ∨ 32704 < sbytes ∨ bits w0 48 16 ≠ 0 then some 0
  else [1, 2, 3].find? (fun i => w.getD i 0 != 0)

/-- The local handle may be bound: set up, its consumer side free, its slot size as described (R230). -/
def State.outCbOk (s : State) (t oh sbytes : Nat) : Bool :=
  match s.cb t oh with
  | none => false
  | some c => c.consBy.isNone && 64 * c.size == sbytes

/-- Reserve the channel and the consumer side, and send the bind flit; the strand waits for the reply (R230). -/
def bindOut (ch : Nat) (w0 : Word) (u : Nat) (x : Strand) (s : State) : Act :=
  let t := x.tile
  let oh := bits w0 16 4
  let s := (s.wantSide t oh false (.xch ch)).2
  let consumed := ((s.cb t oh).map Cb.consumed).getD 0
  let s := s.onXchan t ch (fun _ =>
    { XChan.reset with st := 4, sender := true, peer := bits w0 0 12, pch := bits w0 12 2, h := oh,
                       ih := bits w0 20 4, sbytes := bits w0 32 16, shipped := consumed, lin := x.ctx.lin, opener := u, sup := x.ctx.sup })
  let b : Bind := ⟨t, ch, bits w0 0 12, bits w0 12 2, bits w0 20 4, bits w0 32 16, consumed, x.ctx.lin⟩
  .ok ((s.onStrand u (fun y => { y with run := .held, prog := { Prog.none with phase := 2, val := BitVec.ofNat 64 ch } })).send t b.dst (.bind b))

/-- Act on a descriptor whose words are in. On a tile that stops the strand stands at its instruction still, which has done
nothing yet (R265; DESIGN CHOICE, log entry 90). -/
def openChannel (ch : Nat) (d : Reg) (u : Nat) (x : Strand) (w : List Word) (s : State) : Act :=
  match s.xchBadWord x.tile w with
  | some i => trapAct s 0x0E (BitVec.ofNat 64 i)
  | none =>
    let w0 := w.getD 0 0
    if (s.tile x.tile).halted && !x.ctx.sup then .ok (s.onStrand u (fun x => { x with prog := Prog.none }))
    else if (s.xchan x.tile ch).st ≠ 0 then writeBack u d 1 s
    else if !(s.outCbOk x.tile (bits w0 16 4) (bits w0 32 16)) then writeBack u d 2 s
    else bindOut ch w0 u x s

/-- `xopen` (R230). Phase 1 waits for the descriptor, 2 for the bind reply, 3 writes rd. -/
def execXopen (d a c : BitVec 5) (s : State) : Host.Outcome State Fault Refusal :=
  issue [a] [d] (fun u x s =>
    if x.prog.phase = 0 then recordAt (x.reg a) s (askWords false (x.reg a) 4 1 u x)
    else if x.prog.phase = 1 then gotWords 4 x s (openChannel c.toNat d u x)
    else if s.now < x.nextAt then stallAct s
    else writeBack u d x.prog.val s) s

/-- The first check of a bind flit that fails at the peer (R230). -/
def State.bindCheck (s : State) (b : Bind) : Nat :=
  let x := s.xchan b.dst b.pch
  if x.st ≠ 0 then 3
  else match s.cb b.dst b.ih with
    | none => 4
    | some c =>
      if c.prodBy.isSome then 4
      else if 64 * c.size ≠ b.sbytes then 5
      else if c.produced ≠ b.consumed then 6
      else 0

/-- The reply to a bind flit, with the counts of the in-CB. -/
def State.bindReply (s : State) (b : Bind) (result : Nat) : State :=
  let c := s.cb b.dst b.ih
  s.send b.dst b.src (.bindReply ⟨b.src, b.dst, b.ch, result, (c.map Cb.count).getD 0, (c.map Cb.produced).getD 0,
    (c.map Cb.consumed).getD 0, false⟩)

/-- Start the refresh clock of a receive end (R233, R241). -/
def State.startRefresh (s : State) (t ch : Nat) : State :=
  let due := s.now + (s.regs t).xrefresh
  (s.onXchan t ch (fun x => { x with stamp := due })).schedule due 4 (.xchRefreshTimer t ch due)

/-- A bind flit at the peer: the end is bound, or the first failing check is answered. One that is bound already to the
same channel answers again, closing or not (R230). -/
def State.bindArrives (s : State) (b : Bind) : State :=
  let x := s.xchan b.dst b.pch
  if s.gone b.dst then s.send b.dst b.src (.bindReply ⟨b.src, b.dst, b.ch, 7, 0, 0, 0, false⟩)
  else if (x.st = 2 ∨ x.st = 3) ∧ x.sender = false ∧ s.real x.peer = s.real b.src ∧ x.pch = b.ch ∧ x.h = b.ih then s.bindReply b 0
  else match s.bindCheck b with
    | 0 =>
      let s := (s.wantSide b.dst b.ih true (.xch b.pch)).2
      let s := s.onXchan b.dst b.pch (fun _ =>
        { XChan.reset with st := 2, sender := false, peer := b.src, pch := b.ch, h := b.ih, sbytes := b.sbytes,
                           lin := b.lin, opener := (s.xchan b.src b.ch).opener, sup := (s.xchan b.src b.ch).sup })
      (s.startRefresh b.dst b.pch).bindReply b 0
    | r => s.bindReply b r

/-- `xchBindArrival` (R230). -/
def execXchBindArrival (s : State) : Host.Outcome State Fault Refusal :=
  onEvent (fun e => match e with
    | .xchBindArrival b =>
      let t := s.real b.dst
      some (if s.unready t then s.holdPacket t else s.bindArrives { b with dst := t })
    | _ => none) s

/-! ## Closing (R237) -/

/-- The strands in `xclose` on this channel retire with rd. -/
def State.closersDone (s : State) (l : List Nat) (rd : Nat) : State :=
  l.foldl (fun s u => match s.strand u with
    | none => s
    | some x => match x.run with
      | .waiting (.xclose _) => (s.onStrand u (fun x =>
          { x with prog := { Prog.none with phase := 2, val := BitVec.ofNat 64 rd } })).makeReadyAt u s.now
      | _ => s) s

/-- The channel is free, its side is released, and its closers are done. -/
def State.freeChannel (s : State) (t ch : Nat) : State :=
  let x := s.xchan t ch
  let s := (s.onXchan t ch (fun _ => XChan.reset)).dropSide t x.h (!x.sender) (.xch ch)
  s.closersDone x.closers (if x.err then 1 else 0)

/-- A closing send end with no slot in progress and nothing on its way sends the unbind flit (R237). -/
def State.tryUnbind (s : State) (t ch : Nat) : State :=
  let x := s.xchan t ch
  let busy := match (s.xch t).sending with | some (c, _) => c == ch | none => false
  if x.st = 3 ∧ x.sender = true ∧ busy = false ∧ x.flits = 0 ∧ (x.err ∨ x.landed = x.shipped) then
    (s.onXchan t ch (fun x => { x with flits := 1 })).send t x.peer (.unbind x.peer x.pch)
  else s

/-- The send end starts closing; one that is binding does so when its reply is in (R237). -/
def State.startClose (s : State) (t ch : Nat) : State :=
  let x := s.xchan t ch
  if x.st = 1 then (s.onXchan t ch (fun x => { x with st := 3, flits := 0 })).tryUnbind t ch
  else if x.st = 4 then s.onXchan t ch (fun x => { x with flits := 1 })
  else s

/-- A strand closes a channel: its own send end, or by a request to the send end. -/
def State.closeFrom (s : State) (t ch u : Nat) : State :=
  let x := s.xchan t ch
  let s := s.onXchan t ch (fun x => { x with closers := if x.closers.contains u then x.closers else x.closers ++ [u] })
  if x.st = 1 then s.startClose t ch
  else if x.st = 2 then (s.onXchan t ch (fun x => { x with st := 3 })).send t x.peer (.closeReq x.peer x.pch)
  else s

/-- `xclose` (R237). A binding or closing channel is waited for; phase 2 writes rd. Poison is met before the close takes
effect (R116). -/
def execXclose (d c : BitVec 5) (s : State) : Host.Outcome State Fault Refusal :=
  issue [] [d] (fun u x s =>
    if x.prog.phase = 2 then writeBack u d x.prog.val s
    else mayLeave u x s (fun u x s =>
      if (s.xchan x.tile c.toNat).st = 0 then writeBack u d 2 s
      else .ok ((s.waitFor u (.xclose c.toNat)).closeFrom x.tile c.toNat u))) s

/-- `xchCloseRequestArrival` (R237). -/
def execXchCloseRequestArrival (s : State) : Host.Outcome State Fault Refusal :=
  onEvent (fun e => match e with
    | .xchCloseRequestArrival t c => some (s.fromPeer (s.real t) c (fun s => s.startClose (s.real t) c))
    | _ => none) s

/-- The receive end frees its channel and replies; it was bound to the send end's tile. -/
def State.unbindArrives (s : State) (t c : Nat) : State :=
  let x := s.xchan t c
  if x.sender = true ∨ x.st = 0 then s
  else (s.freeChannel t c).send t x.peer (.unbindReply x.peer x.pch)

/-- `xchUnbindArrival` (R237). -/
def execXchUnbindArrival (s : State) : Host.Outcome State Fault Refusal :=
  onEvent (fun e => match e with
    | .xchUnbindArrival t c => some (s.fromPeer (s.real t) c (fun s => s.unbindArrives (s.real t) c))
    | _ => none) s

/-- `xchUnbindReply`: the send end frees its channel (R237). -/
def execXchUnbindReply (s : State) : Host.Outcome State Fault Refusal :=
  onEvent (fun e => match e with
    | .xchUnbindReply t c => some (s.fromPeer (s.real t) c (fun s =>
        if (s.xchan (s.real t) c).st = 3 then s.freeChannel (s.real t) c else s))
    | _ => none) s

/-- The bind flit of a binding channel. -/
def XChan.bind (x : XChan) (t ch : Nat) : Bind := ⟨t, ch, x.peer, x.pch, x.ih, x.sbytes, x.shipped, x.lin⟩

/-- A bind reply: one that is uncorrectable is discarded, and the bind flit is sent again. Else the send end is set up, or
the reservations are released; `xopen` retires 4 cycles later, and an `xclose` that waited, or a close request that has come
in, acts on the channel as it stands (R230, R237, R241). -/
def State.replyArrives (s : State) (r : BindReply) : State :=
  let x := s.xchan r.tile r.ch
  if x.st ≠ 4 then s
  else if r.bad then s.send r.tile x.peer (.bind (x.bind r.tile r.ch))
  else
    let s := s.onStrand x.opener (fun y =>
      if y.run = .held ∧ y.tile = r.tile ∧ y.prog.phase = 2 ∧ y.prog.val = BitVec.ofNat 64 r.ch then
        { y with run := .stalled, nextAt := s.now + 4, prog := { Prog.none with phase := 3, val := BitVec.ofNat 64 r.result } }
      else y)
    if r.result = 0 then
      let s := s.onXchan r.tile r.ch (fun x =>
        { x with st := 1, flits := 0, count := r.count, shipped := r.produced, landed := r.produced, consumed := r.consumed,
                 stamp := s.now + 1 })
      let s := s.schedule (s.now + 1) 1 (.xchSlotStart r.tile)
      if x.closers.isEmpty && x.flits == 0 then s else s.startClose r.tile r.ch
    else
      let s := (s.onXchan r.tile r.ch (fun _ => XChan.reset)).dropSide r.tile x.h false (.xch r.ch)
      s.closersDone x.closers 2

/-- `xchBindReply` (R230). -/
def execXchBindReply (s : State) : Host.Outcome State Fault Refusal :=
  onEvent (fun e => match e with
    | .xchBindReply r =>
      let t := s.real r.tile
      some (if s.unready t then s.holdPacket t else s.replyArrives { r with tile := t })
    | _ => none) s

/-! ## Errors (R236) -/

/-- The status word of a channel (R238). -/
def State.xchStatus (s : State) (t ch : Nat) : Word :=
  let x := s.xchan t ch
  let c := (s.cb t x.h).getD default
  let cnt := if x.st = 0 then 0 else if x.sender then x.shipped.toNat else c.produced.toNat
  let win := if x.st = 0 ∨ x.st = 4 then 0 else if x.sender then (x.shipped - x.consumed).toNat else c.filled
  BitVec.ofNat 64 (cnt * 2 ^ 32 + x.peer * 2 ^ 20 + x.pch * 2 ^ 18 + x.ek.toNat * 2 ^ 16 + x.h * 2 ^ 12
    + min win 255 * 16 + (if x.resync ∨ x.st = 4 then 8 else 0) + (if x.err then 4 else 0)
    + (if x.st = 4 then 1 else x.st))

/-- The message of a channel in error, type 2 (R236, R263). -/
def xchMessage (t ch : Nat) (ek : BitVec 2) (cnt : Nat) : Msg :=
  { m0 := BitVec.ofNat 64 (t + ch * 2 ^ 12 + ek.toNat * 2 ^ 16 + cnt * 2 ^ 32), m1 := 0, m2 := 0, m3 := m3 t 2 }

/-- An end enters the error state: it gives up its side, its supervisor learns of it, strands that wait on its buffer look
again, and a matrix command that waits on an in-CB stops (R201, R218, R236). -/
def State.enterError (s : State) (t ch : Nat) (ek : BitVec 2) : State :=
  let x := s.xchan t ch
  if x.err ∨ x.st = 0 then s
  else
    let s := s.onXchan t ch (fun x => { x with err := true, ek := ek })
    let s := s.onXch t (fun e => match e.sending with
      | some (c, _) => if c = ch ∧ x.sender = true then { e with sending := none } else e
      | none => e)
    let s := s.message t (xchMessage t ch ek (bits (s.xchStatus t ch) 32 32))
    let s := (s.dropSide t x.h (!x.sender) (.xch ch)).wakeCb t x.h
    let s := if x.sender then s.schedule (s.now + 1) 1 (.xchSlotStart t) else s.matrixTry t
    if x.sender ∧ x.st = 3 then s.tryUnbind t ch else s

/-- The end that finds an error tells the other end (R236). -/
def State.xchError (s : State) (t ch : Nat) (ek : BitVec 2) : State :=
  let x := s.xchan t ch
  if x.err ∨ x.st = 0 then s
  else
    let s := s.enterError t ch ek
    if s.gone x.peer then s else s.send t x.peer (.xerror x.peer x.pch ek)

/-- `xchErrorFlitArrival` (R236). -/
def execXchErrorFlitArrival (s : State) : Host.Outcome State Fault Refusal :=
  onEvent (fun e => match e with
    | .xchErrorFlitArrival t c k => some (s.fromPeer (s.real t) c (fun s => s.enterError (s.real t) c k))
    | _ => none) s

/-! ## Shipping (R231, R234) -/

/-- The next slot of a channel is ready to ship (R231). -/
def State.slotReady (s : State) (t ch : Nat) : Bool :=
  let x := s.xchan t ch
  match s.cb t x.h with
  | none => false
  | some c =>
    let n := (c.produced - x.shipped).toNat
    x.st == 1 && !x.err && !x.resync && decide (x.stamp ≤ s.now) && decide (1 ≤ n) && decide (n < 2 ^ 31)
      && decide ((x.shipped - x.consumed).toNat < x.count)

/-- Send flit `f` of the slot at index shipped; the last one advances shipped. A poisoned or relayed slot in error ends
the channel (R231, R236). -/
def State.sendFlit (s : State) (t ch f : Nat) : State :=
  let x := s.xchan t ch
  match s.cb t x.h with
  | none => s
  | some c =>
    let k := slotCell t c (c.consPos x.shipped) + 64 * f
    if s.anyPoison k 64 || s.inError t x.h then State.xchError (s.onXch t (fun e => { e with sending := none })) t ch 2
    else
      let last := 64 * (f + 1) = x.sbytes
      let p : XFlit := ⟨t, x.peer, x.pch, f, BitVec.ofNat 32 (x.shipped.toNat % 2 ^ 21), last, s.readBytes k 64, false⟩
      let s := s.send t x.peer (.xdata p)
      let s := s.onXch t (fun e => { e with sending := if last then none else some (ch, f + 1), freeAt := s.now + 1, rr := ch })
      let s := if last then (s.onXchan t ch (fun x => { x with shipped := x.shipped + 1 })).tryUnbind t ch else s
      s.schedule (s.now + 1) 1 (.xchSlotStart t)

/-- One flit in a cycle: the slot in progress goes on, else a ready slot starts, round-robin (R234). -/
def State.ship (s : State) (t : Nat) : State :=
  let e := s.xch t
  if s.now < e.freeAt ∨ (s.tile t).halted then s
  else match e.sending with
    | some (ch, f) => s.sendFlit t ch f
    | none => match ((List.range 4).map (fun i => (e.rr + 1 + i) % 4)).find? (fun c => s.slotReady t c) with
      | some ch =>
        if s.gone (s.xchan t ch).peer then s.xchError t ch 3 else s.sendFlit t ch 0
      | none => s

/-- `xchSlotStart` (R234). -/
def execXchSlotStart (s : State) : Host.Outcome State Fault Refusal :=
  onEvent (fun e => match e with | .xchSlotStart t => some (s.ship t) | _ => none) s

/-- The index whose low 21 bits a flit carries, at or above produced (R231). -/
def fullIndex (low produced : BitVec 32) : BitVec 32 :=
  produced + BitVec.ofNat 32 ((low - produced).toNat % 2 ^ 21)

/-- A data flit at the receive end takes its turn among the accesses from other tiles (R112); its bytes are written, and the
slot's last flit advances produced (R232). -/
def State.flitArrives (s : State) (f : XFlit) : State :=
  let t := f.dst
  let x := s.xchan t f.ch
  if s.unready t then s.holdPacket t
  else if x.sender ∨ x.st = 0 ∨ x.err ∨ s.real x.peer ≠ s.real f.src then s
  else if s.pairWaits f.src t then s.defer
  else match s.takeTurn t with
  | none => s.defer
  | some s =>
  if f.bad then s.xchError t f.ch 1
  else match s.cb t x.h with
    | none => s
    | some c =>
      let i := fullIndex f.index c.produced
      let s := s.putBlock (slotCell t c (c.prodPos i) + 64 * f.flit) (some f.bytes)
      let n := if f.flit = 0 then 1 else x.flits + 1
      let s := s.onXchan t f.ch (fun x => { x with flits := n })
      if n * 64 = x.sbytes then (s.onXchan t f.ch (fun x => { x with flits := 0 })).cbProduced t x.h else s

/-- `xchDataFlitArrival` (R232). -/
def execXchDataFlitArrival (s : State) : Host.Outcome State Fault Refusal :=
  onEvent (fun e => match e with | .xchDataFlitArrival f => some (s.flitArrives { f with dst := s.real f.dst }) | _ => none) s

/-! ## Permits (R233, R235) -/

/-- Replace a held count by a later one (R14). -/
def later (held new : BitVec 32) : BitVec 32 := if (new - held).toNat < 2 ^ 31 then new else held

/-- The out-CB's consumed advances by a number of slots (R233). -/
def State.consumeBy (s : State) (t h : Nat) : Nat → State
  | 0 => s
  | n + 1 => (s.cbConsumed t h).consumeBy t h n

/-- How far the out-CB's consumed is behind a count of slots landed; a buffer has at most 256 (R198, R233). -/
def State.unfreed (s : State) (t h : Nat) (landed : BitVec 32) : Nat :=
  match s.cb t h with
  | none => 0
  | some c => if (landed - c.consumed).toNat ≤ 256 then (landed - c.consumed).toNat else 0

/-- A permit at the send end (R233); the one that a resynchronisation waits for sets every count (R235). A tile that stops
drops it (R239), and a channel in error has given its side up (R201, R236). -/
def State.permitArrives (s : State) (p : Permit) : State :=
  let x := s.xchan p.dst p.ch
  if s.unready p.dst then s.holdPacket p.dst
  else if p.bad ∨ (s.tile p.dst).halted ∨ !x.sender ∨ x.err ∨ (x.st ≠ 1 ∧ x.st ≠ 3) then s
  else
    let whole := x.resync && p.resync
    let landed := if whole then p.landed else later x.landed p.landed
    let s := s.onXchan p.dst p.ch (fun x =>
      { x with landed := landed, shipped := if whole then landed else x.shipped,
               consumed := if whole then p.consumed else later x.consumed p.consumed, resync := x.resync && !whole })
    let s := s.consumeBy p.dst x.h (s.unfreed p.dst x.h landed)
    (s.schedule (s.now + 1) 1 (.xchSlotStart p.dst)).tryUnbind p.dst p.ch

/-- `xchPermitArrival` (R233). -/
def execXchPermitArrival (s : State) : Host.Outcome State Fault Refusal :=
  onEvent (fun e => match e with | .xchPermitArrival p => some (s.permitArrives { p with dst := s.real p.dst }) | _ => none) s

/-- The permit of a receive end; the refresh clock starts again (R233). -/
def State.sendPermit (s : State) (t ch : Nat) (resync : Bool) : State :=
  let x := s.xchan t ch
  match s.cb t x.h with
  | none => s
  | some c => (s.send t x.peer (.permit ⟨x.peer, x.pch, c.produced, c.consumed, resync, false⟩)).startRefresh t ch

/-- The permit due in this cycle goes out, after every count has been set (R233). -/
def State.refresh (s : State) (t ch stamp : Nat) : State :=
  let x := s.xchan t ch
  if x.sender ∨ x.stamp ≠ stamp ∨ (x.st ≠ 2 ∧ x.st ≠ 3) then s
  else if x.err ∨ (s.tile t).halted then s.startRefresh t ch
  else s.sendPermit t ch false

/-- `xchRefreshTimer` (R233). -/
def execXchRefreshTimer (s : State) : Host.Outcome State Fault Refusal :=
  onEvent (fun e => match e with | .xchRefreshTimer t c n => some (s.refresh t c n) | _ => none) s

/-- `xchCounterParityError`: the send end starts no new slot; from the next cycle on, once a slot in progress is finished, it
asks for the counts (R235). -/
def State.resynchronise (s : State) (t ch : Nat) : State :=
  let x := s.xchan t ch
  let busy := match (s.xch t).sending with | some (c, _) => c == ch | none => false
  if !x.sender ∨ (x.st ≠ 1 ∧ x.st ≠ 3) ∨ x.err ∨ (s.tile t).halted then s.onXchan t ch (fun y =>
    { y with resync := y.resync || (x.sender && (x.st == 1 || x.st == 3) && !x.err) })
  else if !x.resync || busy then
    (s.onXchan t ch (fun x => { x with resync := true })).schedule (s.now + 1) 1 (.xchCounterParityError t ch)
  else s.send t x.peer (.resync x.peer x.pch)

/-- `xchCounterParityError` (R235). -/
def execXchCounterParityError (s : State) : Host.Outcome State Fault Refusal :=
  onEvent (fun e => match e with | .xchCounterParityError t c => some (s.resynchronise t c) | _ => none) s

/-- `xchResyncFlitArrival`: the receive end replies with a permit (R235). -/
def execXchResyncFlitArrival (s : State) : Host.Outcome State Fault Refusal :=
  onEvent (fun e => match e with
    | .xchResyncFlitArrival t c => some (
      let t := s.real t
      s.fromPeer t c (fun s => if (s.xchan t c).sender ∨ (s.xchan t c).st = 0 then s else s.sendPermit t c true))
    | _ => none) s

/-! ## Status (R238) -/

/-- `xstat` (R238). -/
def execXstat (d c : BitVec 5) (s : State) : Host.Outcome State Fault Refusal :=
  issue [] [d] (fun u x s => writeBack u d (s.xchStatus x.tile c.toNat) s) s

end Sys2Proof.Machine
end

