-- ==== Sys2Proof/Machine/Csr.lean ====
section
/-! DEFINITION. Control and status registers: the user map (R108 to R110, R85), the supervisor map (R281), another tile's
registers through `starget` (R282), and what a new value changes at once (R283). -/

namespace Sys2Proof.Machine
open Sys2Proof

/-! ## User CSRs (R85, R110) -/

/-- The value of a user CSR for a strand. -/
def State.userCsr (s : State) (x : Strand) (n : Nat) : Word :=
  let c := x.ctx
  if n = 0 then BitVec.ofNat 64 s.now
  else if n = 2 then BitVec.ofNat 64 x.tile
  else if n = 3 then BitVec.ofNat 64 (s.partOfTile x.tile)
  else if n = 0x10 then
    let v := s.vunit x.tile x.place.core
    BitVec.ofNat 64 (v.rows * 256 + v.lanes)
  else if n < 0x28 then toWord (s.chan x.tile (n - 0x20)).fid
  else if n < 0x30 then toWord (s.chan x.tile (n - 0x28)).fdone
  else if n = 0x30 then toWord c.tvec
  else if n = 0x31 then toWord c.tpc
  else if n = 0x32 then toWord c.tcause
  else if n = 0x33 then c.tval
  else if n = 0x34 then toWord c.tseq
  else if n = 0x40 then toWord c.plim
  else if n = 0x41 then toWord c.pmin
  else if n = 0x42 then toWord c.phold
  else BitVec.ofNat 64 (x.posted.length % 2 ^ 16)

/-- Write a user CSR other than `pinhold`: bits outside the field are ignored. -/
def Ctx.setCsr (c : Ctx) (n : Nat) (v : Word) : Ctx :=
  if n = 0x30 then { c with tvec := v.extractLsb' 2 46 ++ 0#2 }
  else if n = 0x31 then { c with tpc := v.setWidth 48 }
  else if n = 0x32 then { c with tcause := v.setWidth 8 }
  else if n = 0x33 then { c with tval := v }
  else if n = 0x34 then { c with tseq := v.setWidth 16 }
  else if n = 0x40 then { c with plim := v.setWidth 8 }
  else if n = 0x41 then { c with pmin := v.setWidth 16 }
  else c

/-- A hold of 0 stores 1 (R85, R281). -/
def holdValue (v : Word) : BitVec 32 := if (v.setWidth 32 : BitVec 32) = 0 then 1 else v.setWidth 32

/-! ## Supervisor CSRs (R281) -/

/-- The value of a supervisor CSR that a tile has a copy of. -/
def TileRegs.csr (r : TileRegs) (n : Nat) : Word :=
  let k (x : Nat) : Word := BitVec.ofNat 64 x
  if n = 0x800 then k r.kdepth
  else if n = 0x801 then k r.klend
  else if n = 0x802 then k r.wdepth
  else if n = 0x803 then k r.agestep
  else if n = 0x804 then k r.xrefresh
  else if n = 0x805 then k r.ocap
  else if n = 0x806 then r.ptbase
  else if n = 0x807 then k r.scrubrate
  else if n = 0x808 then k r.slicemin
  else if n = 0x809 then r.msgring
  else if n = 0x80A then r.dbgctl
  else if n = 0x80B then k r.starget
  else if n = 0x80C then toWord r.dtvec
  else if n = 0x80D then toWord r.dpinlim
  else if n = 0x80E then toWord r.dpinmin
  else toWord r.dpinhold

/-- Clamp to the nearest limit (R281). -/
def clamp (lo hi v : Nat) : Nat := min hi (max lo v)

/-- The largest `klend` of a tile (R281). -/
def klendMax (t : Nat) : Nat := 16384 / (Config.userCores t).length

/-- A tile of the die of `t`, else `t` itself (R282). -/
def onDie (t x : Nat) : Nat := if x < Config.tiles ∧ Config.dieOf x = Config.dieOf t then x else t

/-- Store a supervisor CSR of tile `t`: bits outside the field are ignored, and the value is clamped (R52, R281). -/
def TileRegs.setCsr (r : TileRegs) (t n : Nat) (v : Word) : TileRegs :=
  if n = 0x800 then { r with kdepth := clamp 1 256 (bits v 0 9) }
  else if n = 0x801 then { r with klend := min (bits v 0 15) (klendMax t) }
  else if n = 0x802 then { r with wdepth := clamp 1 256 (bits v 0 9) }
  else if n = 0x803 then { r with agestep := clamp 256 (2 ^ 24) (bits v 0 25) }
  else if n = 0x804 then { r with xrefresh := clamp 64 (2 ^ 20 - 1) (bits v 0 20) }
  else if n = 0x805 then { r with ocap := clamp 1 4096 (bits v 0 13) }
  else if n = 0x806 then { r with ptbase := v &&& 0xFFFFFFFFF7E1 }
  else if n = 0x807 then { r with scrubrate := min 256 (bits v 0 9) }
  else if n = 0x808 then { r with slicemin := bits v 0 32 }
  else if n = 0x809 then { r with msgring := v &&& 0xFFFFFFFFFFFFFFC1 }
  else if n = 0x80A then { r with dbgctl := v &&& 0x80000000FFFFFFFF }
  else if n = 0x80B then { r with starget := onDie t (bits v 0 12) }
  else if n = 0x80C then { r with dtvec := v.extractLsb' 2 46 ++ 0#2 }
  else if n = 0x80D then { r with dpinlim := v.setWidth 8 }
  else if n = 0x80E then { r with dpinmin := v.setWidth 16 }
  else if n = 0x80F then { r with dpinhold := holdValue v }
  else r

def State.setRegs (s : State) (t n : Nat) (v : Word) : State :=
  s.onTile t (fun x => { x with regs := x.regs.setCsr t n v })

/-! ## What a new value changes at once (R283) -/

/-- The refresh of each receive end falls due at the new period, counted from its last permit (R283). -/
def State.retimeRefresh (s : State) (t old : Nat) : State :=
  (List.range 4).foldl (fun s ch =>
    let x := s.xchan t ch
    if x.sender ∨ x.st = 0 ∨ x.st = 4 ∨ x.stamp ≤ s.now then s
    else
      let due := max (s.now + 1) (x.stamp - old + (s.regs t).xrefresh)
      (s.onXchan t ch (fun x => { x with stamp := due })).schedule due 4 (.xchRefreshTimer t ch due)) s

/-- `csrWrite`: a CSR with no behaviour of its own; a new `xrefresh` moves the refreshes that are due (R281, R283). -/
def State.csrStored (s : State) (t n : Nat) (v : Word) : State :=
  let s' := s.setRegs t n v
  if n = 0x804 then s'.retimeRefresh t (s.regs t).xrefresh else s'

/-- `csrWrite` (R281). -/
def execCsrWrite (s : State) : Host.Outcome State Fault Refusal :=
  onEvent (fun e => match e with | .csrWrite t n v => some (s.csrStored t n v) | _ => none) s

/-- Serve whatever waits for slots while more are free. -/
def State.refit (s : State) (t c : Nat) : Nat → State
  | 0 => s
  | n + 1 => ((s.kennelFreed t c).lentFreed t c).refit t c n

/-- `kdepth` or `klend` takes a value: entries that are in stay, and free slots serve what waits (R283). -/
def State.depthWritten (s : State) (t : Nat) (lend : Bool) (v : Word) : State :=
  let s := s.setRegs t (if lend then 0x801 else 0x800) v
  (List.range (Config.coresOf t)).foldl (fun s c =>
    s.refit t c ((s.tile t).hold.length + (s.core t c).inSlot.length + (s.core t c).lent.length)) s

/-- `kdepthKlendWrite` (R283). -/
def execKdepthKlendWrite (s : State) : Host.Outcome State Fault Refusal :=
  onEvent (fun e => match e with | .kdepthKlendWrite t l v => some (s.depthWritten t l v) | _ => none) s

/-- `wdepth` takes a value: the oldest entries leave, woken, until the table fits (R283). -/
def State.watchDepth (s : State) (t : Nat) (v : Word) : State :=
  let s := s.setRegs t 0x802 v
  let w := (s.tile t).watch
  (w.take (w.length - (s.regs t).wdepth)).foldl (fun s x => s.wake t x) s

/-- `wdepthWrite` (R283). -/
def execWdepthWrite (s : State) : Host.Outcome State Fault Refusal :=
  onEvent (fun e => match e with | .wdepthWrite t v => some (s.watchDepth t v) | _ => none) s

/-- `stargetWrite`: a tile outside the die stores the issuer's own tile (R282). -/
def execStargetWrite (s : State) : Host.Outcome State Fault Refusal :=
  onEvent (fun e => match e with | .stargetWrite t v => some (s.setRegs t 0x80B v) | _ => none) s

/-- `pinholdWrite`: `pinhold` of a strand, or `dpinhold` of a tile (R85, R281). -/
def execPinholdWrite (s : State) : Host.Outcome State Fault Refusal :=
  onEvent (fun e => match e with
    | .pinholdWrite (some u) _ v =>
      some (s.onStrand u (fun x => { x with ctx := { x.ctx with phold := holdValue v } }))
    | .pinholdWrite none t v => some (s.setRegs t 0x80F v)
    | _ => none) s

/-- `msgringWrite`: the ring's address and its enable; the die's message engine looks again (R262, R282). -/
def execMsgringWrite (s : State) : Host.Outcome State Fault Refusal :=
  onEvent (fun e => match e with
    | .msgringWrite t v =>
      some ((s.setRegs t 0x809 v).schedule s.now 0 (.messageRingWrite (Config.dieOf t) none false))
    | _ => none) s

/-- The step that stores a supervisor CSR of a tile. -/
def csrEvent (t n : Nat) (v : Word) : Event :=
  if n = 0x800 then .kdepthKlendWrite t false v
  else if n = 0x801 then .kdepthKlendWrite t true v
  else if n = 0x802 then .wdepthWrite t v
  else if n = 0x809 then .msgringWrite t v
  else if n = 0x80B then .stargetWrite t v
  else if n = 0x80F then .pinholdWrite none t v
  else .csrWrite t n v

/-! ## Accesses (R108, R109, R282) -/

/-- What `csrw` (1), `csrs` (2) and `csrc` (3) make of the old value. -/
def csrValue (op : Nat) (old v : Word) : Word := if op = 1 then v else if op = 2 then old ||| v else old &&& ~~~v

/-- The tile whose copy an access of a strand reaches. -/
def State.csrTile (s : State) (x : Strand) (n : Nat) : Nat :=
  if n = 0x80B ∨ n = 0x810 then x.tile else (s.regs x.tile).starget

/-- Instructions with a CSR of 0x800 or above are supervisor-only (R108). -/
def issueCsr (c : BitVec 14) (rd wr : List Reg) (body : Nat → Strand → State → Act) (s : State) :
    Host.Outcome State Fault Refusal :=
  if 0x800 ≤ c.toNat then issueSup rd wr body s else issue rd wr body s

/-- Read a supervisor CSR: here, or by a request that leaves rd pending. -/
def readCsr (d : Reg) (n : Nat) (u : Nat) (x : Strand) (s : State) : Act :=
  let t := s.csrTile x n
  if n = 0x810 then writeBack u d (toWord s.modnum) s
  else if t = x.tile then writeBack u d ((s.regs t).csr n) s
  else if 8 ≤ x.pending.length then stallAct s
  else
    let s := s.onStrand u (fun x => { x with pending := x.pending ++ [(x.ids, d.toNat)], ids := x.ids + 1 })
    .ok ((s.send x.tile t (.csr ⟨t, n, 0, 0, u, d.toNat, x.ids⟩)).retire u)

/-- `csrr` (R108). -/
def execCsrr (d : BitVec 5) (c : BitVec 14) (s : State) : Host.Outcome State Fault Refusal :=
  issueCsr c [] [d] (fun u x s =>
    if c.toNat < 0x800 then writeBack u d (s.userCsr x c.toNat) s else readCsr d c.toNat u x s) s

/-- Write a CSR: the strand's own, the tile's, or another tile's by a request that keeps the slot until it is
acknowledged. -/
def writeCsr (op : Nat) (n : Nat) (v : Word) (u : Nat) (x : Strand) (s : State) : Act :=
  if n = 0x42 then
    .ok ((s.schedule s.now 0 (.pinholdWrite (some u) x.tile (csrValue op (s.userCsr x n) v))).retire u)
  else if n < 0x800 then
    .ok ((s.onStrand u (fun x => { x with ctx := x.ctx.setCsr n (csrValue op (s.userCsr x n) v) })).retire u)
  else if x.prog.phase = 2 then .ok (s.retire u)
  else
    let t := s.csrTile x n
    if t = x.tile then .ok ((s.schedule s.now 0 (csrEvent t n (csrValue op ((s.regs t).csr n) v))).retire u)
    else askTile t (.csr ⟨t, n, op, v, u, 0, 0⟩) u x s

/-- `csrw` (R108). -/
def execCsrw (a : BitVec 5) (c : BitVec 14) (s : State) : Host.Outcome State Fault Refusal :=
  issueCsr c [a] [] (fun u x s => writeCsr 1 c.toNat (x.reg a) u x s) s
/-- `csrs` (R108). -/
def execCsrs (a : BitVec 5) (c : BitVec 14) (s : State) : Host.Outcome State Fault Refusal :=
  issueCsr c [a] [] (fun u x s => writeCsr 2 c.toNat (x.reg a) u x s) s
/-- `csrc` (R108). -/
def execCsrc (a : BitVec 5) (c : BitVec 14) (s : State) : Host.Outcome State Fault Refusal :=
  issueCsr c [a] [] (fun u x s => writeCsr 3 c.toNat (x.reg a) u x s) s

/-- An access to a tile's CSR arrives there; its answer leaves four cycles later (R282). -/
def State.csrArrives (s : State) (r : CsrReq) : State :=
  match s.strand r.uid with
  | none => s
  | some x =>
    let t := s.real r.tile
    let old := (s.regs t).csr r.num
    if r.op = 0 then
      s.schedule (s.now + 4) 1
        (.inject t x.tile (.resp ⟨.reg r.uid r.id r.reg false, 0, .data (bytesOf 8 old)⟩))
    else
      (s.schedule s.now 0 (csrEvent t r.num (csrValue r.op old r.val))).schedule (s.now + 4) 1
        (.inject t x.tile (.opAck r.uid 0))

/-- `remoteCsrRequest` (R282). -/
def execRemoteCsrRequest (s : State) : Host.Outcome State Fault Refusal :=
  onEvent (fun e => match e with | .remoteCsrRequest r => some (s.csrArrives r) | _ => none) s

end Sys2Proof.Machine
end

