-- ==== Sys2Proof/Machine/Supervisor.lean ====
section
/-! DEFINITION. Supervisor instructions: `tret` (R274), `tlbi` and `tlbia` (R275), `cwb` and `cinv` (R276), `domset`
(R277), `pack` and `prest` (R279), `sres` and `sredir` (R280), and the rounds of flits over a partition (R273). -/

namespace Sys2Proof.Machine
open Sys2Proof

/-! ## Rounds of flits (R273) -/

/-- Send a flit to every tile of a list but the sender, one per cycle from the next cycle, in order; the sender acts on
its own part in this cycle (R273). -/
def State.announce (s : State) (lead : Nat) (tiles : List Nat) (pkt : Nat → Packet) : State :=
  let others := tiles.filter (· != lead)
  let s := ((List.range others.length).zip others).foldl (fun s e =>
    s.schedule (s.now + 1 + e.1) 1 (.inject lead e.2 (pkt e.2))) s
  if tiles.contains lead then s.schedule s.now 0 (packetEvent (pkt lead)).2 else s

def State.proto (s : State) (id : Nat) : Option Proto := SMap.find? s.protos id
def State.onProto (s : State) (id : Nat) (f : Proto → Proto) : State := { s with protos := SMap.adjust s.protos id f }

/-- A protocol that a strand has issued over a partition. -/
def Proto.start (kind part lead uid n : Nat) : Proto :=
  { kind := kind, part := part, lead := lead, uid := uid, n := n, acks := 0, phase := 1, a := 0, m := 0, va := 0, dom := 0,
    desc := ⟨[], 0, 0⟩, tiles := [], key := 0, area := 0, users := false, counts := [] }

def State.addProto (s : State) (p : Proto) : Nat × State :=
  let i := s.newId
  (i.1, { i.2 with protos := SMap.put i.2.protos i.1 p })

/-- The issuer keeps its barrel slot while a protocol runs; `val` remembers which. -/
def Strand.awaiting (x : Strand) (id : Nat) : Strand :=
  { x with run := .held, prog := { Prog.none with phase := 4, val := BitVec.ofNat 64 id } }

/-- A protocol is over: it is forgotten, and its issuer goes on with rd. -/
def State.protoDone (s : State) (id : Nat) (p : Proto) (rd : Nat) : State :=
  State.onStrand { s with protos := SMap.erase s.protos id } p.uid (fun x =>
    if x.run = .held ∧ x.prog.phase = 4 ∧ x.prog.val = BitVec.ofNat 64 id then
      { x with run := .ready, prog := { Prog.none with phase := 2, val := BitVec.ofNat 64 rd } }
    else x)

/-- A tile acknowledges its part of a round four cycles later. -/
def State.roundAck (s : State) (t id : Nat) (p : Proto) : State :=
  if t = p.lead then s.schedule s.now 0 (.responseArrival ⟨.round id, 0, .data []⟩)
  else s.schedule (s.now + 4) 1 (.inject t p.lead (.roundAck id))

/-! ## tret (R274) -/

/-- `tret` (R274). -/
def execTret (s : State) : Host.Outcome State Fault Refusal :=
  issueSup [] [] (fun u x s => s.returnFromTrap u x) s

/-! ## tlbi, tlbia (R275) -/

/-- Start an invalidation over a partition. -/
def invalidate (kind : Nat) (part : Nat) (va : Word) (u : Nat) (x : Strand) (s : State) : Act :=
  if x.prog.phase = 2 then .ok (s.retire u)
  else
    let tiles := s.tilesOf part
    if tiles = [] then .ok (s.retire u)
    else
      let i := s.addProto { Proto.start kind part x.tile u tiles.length with va := va }
      .ok ((i.2.onStrand u (fun x => x.awaiting i.1)).announce x.tile tiles (fun t => .tlbi ⟨i.1, t⟩))

/-- `tlbi` (R275). -/
def execTlbi (a b : BitVec 5) (s : State) : Host.Outcome State Fault Refusal :=
  issueSup [a, b] [] (fun u x s => invalidate 1 (bits (x.reg b) 0 6) (x.reg a) u x s) s
/-- `tlbia` (R275). -/
def execTlbia (b : BitVec 5) (s : State) : Host.Outcome State Fault Refusal :=
  issueSup [b] [] (fun u x s => invalidate 2 (bits (x.reg b) 0 6) 0 u x s) s

/-- A line of the page that holds an address: of its 1 GiB or 2 MiB page, by the page that the line came from (R61). -/
def linePage (va line : Nat) (giant : Bool) : Bool :=
  if giant then line * 64 / 2 ^ 30 == va / 2 ^ 30 else line * 64 / 2 ^ 21 == va / 2 ^ 21

/-- A tile removes the entries whose page holds an address, and the instruction-cache lines of that page, whether or not
its translation is still held (R61, R275). -/
def TileState.dropPage (x : TileState) (va : Nat) : TileState :=
  { x with tlb := x.tlb.filter (fun e => !(e.holds va)),
           icache := x.icache.filter (fun l => !(linePage va l.1 l.2.giant)) }

/-- An invalidate flit acts on a tile: its walks start again and its fills bring nothing in, so that nothing older than the
invalidation is installed after it (R55, R61, R275). -/
def State.tlbiArrives (s : State) (r : Round) : State :=
  let t := s.real r.tile
  match s.proto r.id with
  | none => s
  | some p =>
    let va := p.va.toNat
    let s := s.onTile t (fun x => if p.kind = 1 then x.dropPage va else { x with tlb := [], icache := [] })
    ((s.staleWalks t).dropFills t (fun f => p.kind != 1 || linePage va f.line f.giant)).roundAck r.tile r.id p

/-- `tlbiFlitArrival` (R275). -/
def execTlbiFlitArrival (s : State) : Host.Outcome State Fault Refusal :=
  onEvent (fun e => match e with | .tlbiFlitArrival r => some (s.tlbiArrives r) | _ => none) s

/-! ## cwb, cinv (R276) -/

/-- `cwb` and `cinv` at the issuer. A tile of another die is not acted on (R273). -/
def cacheRange (inval : Bool) (a n : Word) (u : Nat) (x : Strand) (s : State) : Act :=
  let t := bits a 48 12
  let o := bits a 0 48
  if x.prog.phase = 2 then .ok (s.retire u)
  else if o % 64 ≠ 0 ∨ n.toNat % 64 ≠ 0 then trapAct s 2 a
  else if bits a 60 4 ≠ 0 ∨ Config.tiles ≤ t ∨ Config.memSize t < o + n.toNat then trapAct s 3 a
  else if n = 0 ∨ Config.dieOf t ≠ Config.dieOf x.tile then .ok (s.retire u)
  else askTile t (.cacheOp ⟨t, o, n.toNat, inval, u⟩) u x s

/-- `cwb` (R276). -/
def execCwb (a b : BitVec 5) (s : State) : Host.Outcome State Fault Refusal :=
  issueSup [a, b] [] (fun u x s => cacheRange false (x.reg a) (x.reg b) u x s) s
/-- `cinv` (R276). -/
def execCinv (a b : BitVec 5) (s : State) : Host.Outcome State Fault Refusal :=
  issueSup [a, b] [] (fun u x s => cacheRange true (x.reg a) (x.reg b) u x s) s

/-- The memory behind a dirty sector shows again: its bytes and its poison mark (R276). -/
def State.revert (s : State) (q : Nat) : State :=
  match SMap.find? s.backing q with
  | none => s
  | some (bs, bad) =>
    let s := State.writeAt { s with backing := SMap.erase s.backing q } q (placed bs)
    if bad then s.setPoison q else s.clearPoison q

/-- A sector is written back or leaves the cache (R276). -/
def State.sectorOp (s : State) (q : Nat) (inval : Bool) : State :=
  let set := cacheSet q
  let line := cellOff q / 512
  let bit : BitVec 8 := 1#8 <<< (cellOff q / 64 % 8)
  let ways := SMap.getD s.cache set []
  match ways.find? (fun l => l.line == line) with
  | none => s
  | some l =>
    if l.valid &&& bit = 0 then s
    else
      let l' : CLine := { l with valid := if inval then l.valid &&& ~~~bit else l.valid, dirty := l.dirty &&& ~~~bit }
      let ways' := (ways.map (fun x => if x.line = line then l' else x)).filter (fun x => x.valid != 0)
      let s' := { s with cache := SMap.put s.cache set ways' }
      if l.dirty &&& bit = 0 then s'
      else if inval then s'.revert q
      else { s' with backing := SMap.erase s'.backing q }

/-- One line of a range in a cycle, then the rest in the next; after the last the tile acknowledges (R276). The range is of
the memory of the tile that is named; for a retired number its replacement answers (R82). -/
def State.cacheOpArrives (s : State) (c : CacheOp) : State :=
  let n := min c.len (512 - c.off % 512)
  let s := (List.range (n / 64)).foldl (fun s i => s.sectorOp (cellNo c.tile false (c.off + 64 * i)) c.inval) s
  if n < c.len then s.schedule (s.now + 1) 2 (.cacheOpArrival { c with off := c.off + n, len := c.len - n })
  else s.answerOp (s.real c.tile) c.uid 0

/-- `cacheOpArrival` (R276). -/
def execCacheOpArrival (s : State) : Host.Outcome State Fault Refusal :=
  onEvent (fun e => match e with | .cacheOpArrival c => some (s.cacheOpArrives c) | _ => none) s

/-! ## domset (R56, R277) -/

/-- The descriptor of a record, none when it breaks R56. -/
def descOf (ws : List Word) : Option Desc :=
  let w0 := ws.getD 0 0
  let w1 := ws.getD 1 0
  let n := bits w0 0 11
  let l := (((ws.drop 2).flatMap (fun w => (List.range 4).map (fun i => bits w (16 * i) 16))).take n)
  if n < 1 ∨ 1024 < n ∨ bits w0 11 5 ≠ 0 ∨ bits w1 0 12 ≠ 0 ∨ bits w1 48 16 ≠ 0 ∨ l.any (fun e => decide (4096 ≤ e)) = true
      ∨ l.eraseDups.length ≠ l.length then none
  else some ⟨l, bits w0 16 48, bits w1 12 36 * 4096⟩

/-- Some owner's range reaches into its lent-slot pool (R56). -/
def intoPool (x : Desc) : Bool :=
  x.list.any (fun t => decide (t < Config.tiles) &&
    decide (Config.memSize t - Config.poolSize < x.base + x.size / x.list.length * 4096))

/-- As `askWords`, keeping the words that are in. -/
def askMore (va : Word) (n phase : Nat) (u : Nat) (x : Strand) (s : State) : Act := do
  let s ← askWords true va n phase u x s
  .ok (s.onStrand u (fun y => { y with prog := { y.prog with words := x.prog.words } }))

/-- The record is in: check it, wait for another `domset`, and send the hold flits (R277). -/
def domsetStart (p d : Nat) (rd : Reg) (u : Nat) (x : Strand) (ws : List Word) (s : State) : Act :=
  match descOf ws with
  | none => writeBack u rd 1 s
  | some desc =>
    if intoPool desc then writeBack u rd 2 s
    else if Config.partitions ≤ p ∨ desc.list.any (fun t => decide (Config.tiles ≤ t) || s.partOfTile t != p) = true then
      writeBack u rd 3 s
    else if s.protos.any (fun e => e.2.kind == 3 && e.2.part == p) then waitAct s
    else
      let tiles := s.tilesOf p
      let i := s.addProto { Proto.start 3 p x.tile u tiles.length with dom := d, desc := desc }
      .ok ((i.2.onStrand u (fun x => x.awaiting i.1)).announce x.tile tiles (fun t => .domHold ⟨i.1, t⟩))

/-- `domset`: its first two words, its list, then the protocol (R277). -/
def domsetAt (p d : Nat) (r : Word) (rd : Reg) (u : Nat) (x : Strand) (s : State) : Act :=
  if x.prog.phase = 0 then recordAt r s (askWords true r 2 1 u x)
  else if x.prog.phase = 1 then gotWords 2 x s (fun ws s =>
    let n := bits (ws.headD 0) 0 11
    if n < 1 ∨ 1024 < n then writeBack u rd 1 s else askMore (r + 16) ((n + 3) / 4) 3 u x s)
  else if x.prog.phase = 2 then writeBack u rd x.prog.val s
  else gotWords (2 + (bits ((x.prog.words.map (·.2)).headD 0) 0 11 + 3) / 4) x s (domsetStart p d rd u x)

/-- `domset` (R277). -/
def execDomset (d a b : BitVec 5) (s : State) : Host.Outcome State Fault Refusal :=
  issueSup [a, b] [d] (fun u x s => domsetAt (bits (x.reg a) 8 6) (bits (x.reg a) 0 6) (x.reg b) d u x s) s

/-- A hold flit: the tile makes arriving packets for the domain wait (R277). -/
def State.domHoldArrives (s : State) (r : Round) : State :=
  match s.proto r.id with
  | none => s
  | some p => (s.onProto r.id (fun p => { p with tiles := p.tiles ++ [s.real r.tile] })).roundAck r.tile r.id p

/-- `domsetHoldArrival` (R277). -/
def execDomsetHoldArrival (s : State) : Host.Outcome State Fault Refusal :=
  onEvent (fun e => match e with | .domsetHoldArrival r => some (s.domHoldArrives r) | _ => none) s

/-- The domain offset of a byte of a tile's memory under a descriptor. -/
def offsetOn (x : Desc) (t off : Nat) : Option Nat :=
  match (List.range x.list.length).find? (fun i => x.list.getD i 0 == t) with
  | none => none
  | some i =>
    let n := x.list.length
    if off < x.base ∨ x.size / n ≤ (off - x.base) / 4096 then none
    else some (((off - x.base) / 4096 * n + i) * 4096 + (off - x.base) % 4096)

/-- A watched word belongs to the domain, and the new descriptor puts it elsewhere. The owner is the number that the
descriptors give, be it a retired tile's (R82). -/
def movedBy (old : Option Desc) (new : Desc) (w : Watcher) : Bool :=
  if cellLs w.cell then false
  else match old.bind (fun x => offsetOn x (cellTile w.cell) (cellOff w.cell)) with
    | none => false
    | some off => locateIn new off != some (cellTile w.cell, w.cell)

/-- A tile installs the descriptor, releases its held packets, wakes watchers of words whose owner changed, and drops
instruction-cache lines of the domain (R277). Packets that wait for something else wait on. -/
def State.domInstall (s : State) (r : Round) : State :=
  let t := s.real r.tile
  match s.proto r.id with
  | none => s
  | some p =>
    let old := s.desc t p.part p.dom
    let s := s.onProto r.id (fun p => { p with tiles := p.tiles ++ [t] })
    let s := s.onTile t (fun x => { x with icache := x.icache.filter (fun l => l.2.dom != p.dom) })
    let s := (s.dropFills t (fun f => f.dom == p.dom)).releaseHeld t
    (s.wakeWhere t (movedBy old p.desc)).roundAck r.tile r.id p

/-- `domsetDescriptorArrival` (R277). -/
def execDomsetDescriptorArrival (s : State) : Host.Outcome State Fault Refusal :=
  onEvent (fun e => match e with | .domsetDescriptorArrival r => some (s.domInstall r) | _ => none) s

/-- An acknowledgement of a round is in: after the last, a `tlbi` retires, and a `domset` goes on or retires (R275,
R277). -/
def State.roundAcked (s : State) (id : Nat) : State :=
  match s.proto id with
  | none => s
  | some p =>
    let acks := p.acks + 1
    let s := s.onProto id (fun p => { p with acks := acks })
    if acks < p.n then s
    else if p.kind ≠ 3 then s.protoDone id p 0
    else if p.phase = 1 then
      (s.onProto id (fun p => { p with acks := 0, phase := 2, tiles := [] })).announce p.lead (s.tilesOf p.part)
        (fun t => .domDesc ⟨id, t⟩)
    else State.protoDone { s with descs := SMap.put s.descs (descNo p.part p.dom) p.desc } id p 0

/-! ## The context of R66 as words -/

/-- hleft: what is left of a rule pin (R66, R84). -/
def State.hleft (s : State) (x : Strand) : BitVec 32 :=
  if x.ctx.rpin ∧ x.pinEnd ≠ 0 then BitVec.ofNat 32 (x.pinEnd - s.now) else x.ctx.hleft

/-- A bit that R66 marks zero is set. -/
def ctxReserved (ws : List Word) : Bool :=
  bits (ws.getD 26 0) 61 3 != 0 || bits (ws.getD 29 0) 48 16 != 0 || bits (ws.getD 30 0) 56 8 != 0
    || bits (ws.getD 31 0) 32 32 != 0

/-- The context of 32 words; sid, sup, cur and prev stay those of `c` (R279). Bits [1:0] of tvec read 0 (R110). -/
def Ctx.ofWords (c : Ctx) (ws : List Word) : Ctx :=
  let w (i : Nat) : Word := ws.getD i 0
  { c with
    g := Vector.ofFn (fun i : Fin 24 => w i.val),
    pred := (w 24).extractLsb' 48 16, pc := (w 24).setWidth 48,
    pseq := (w 25).extractLsb' 48 16, lin := (w 25).extractLsb' 32 16,
    rpin := (w 26).getLsbD 60, xpin := (w 26).getLsbD 59, cls := (w 26).extractLsb' 56 2,
    tcause := (w 26).extractLsb' 48 8, tvec := (w 26).extractLsb' 2 46 ++ 0#2,
    tseq := (w 27).extractLsb' 48 16, tpc := (w 27).setWidth 48, tval := w 28,
    nstop := (w 29).extractLsb' 32 16, alt := (w 29).extractLsb' 24 8,
    pmin := (w 30).extractLsb' 40 16, plim := (w 30).extractLsb' 32 8, hleft := (w 30).setWidth 32,
    phold := (w 31).setWidth 32 }

/-! ## pack, prest (R279) -/

/-- The strand of a sid that waits for the supervisor at a tile of the issuer's die, or at the tile that answers to its
number (R82, R263, R279). -/
def State.waiter (s : State) (at' : Nat) (sid : BitVec 32) (t : Nat) : Option Nat :=
  if Config.tiles ≤ t ∨ Config.dieOf t ≠ Config.dieOf at' then none
  else (List.find? (fun e => e.2.ctx.sid == sid && e.2.tile == s.real t && e.2.run == .waiting .supervisor
      && e.2.marked.isNone) s.strands).map (·.1)

/-- The strand that reg(ra) names. -/
def State.named (s : State) (x : Strand) (a : Word) : Option Nat :=
  s.waiter x.tile (BitVec.ofNat 32 (bits a 0 32)) (bits a 32 12)

/-- The poison mask of a context, in rd[55:32]. -/
def poisonMask (x : Strand) : Nat := (x.poison.map (fun e => if e.1 < 24 then 2 ^ (32 + e.1) else 0)).sum

/-- The address of a record of 64-byte blocks. -/
def blockAt (va : Word) (s : State) (k : State → Act) : Act := if va.toNat % 64 ≠ 0 then trapAct s 2 va else k s

/-- Word `i` of the record is stored; the instruction goes on with `next`. -/
def packStore (va v : Word) (u : Nat) (x : Strand) (s : State) (next : State → State) : Act :=
  if s.vectorMemBusy u x then stallAct s
  else do
  let r ← s.translate u x va permW
  let post : Act := if r.2.mayPost x then .ok (next (r.2.post u x r.1 va (.rmw .st 8 v))) else waitAct r.2
  match r.1 with
  | .peer _ _ => post
  | .here _ o k =>
    if r.2.real o = x.tile then
      let w := r.2.performWrite k (placed (bytesOf 8 v))
      if w.1 then .ok (next w.2.2) else trapAct r.2 7 va
    else post

/-- `pack`: the context is taken, then stored a word at a time; phase p stores word p − 1 (R279). -/
def packAt (d : Reg) (a r : Word) (u : Nat) (x : Strand) (s : State) : Act :=
  if x.prog.phase = 0 then
    match s.named x a with
    | none => writeBack u d 1 s
    | some v => match s.strand v with
      | none => writeBack u d 1 s
      | some y =>
        let clean := { y.ctx with g := Vector.ofFn (fun i : Fin 24 =>
          if (SMap.find? y.poison i.val).isSome then 0 else y.ctx.g[i]) }
        blockAt r s (fun s => .ok (s.onStrand u (fun x =>
          { x with run := .stalled,
                   prog := { Prog.none with phase := 1, val := BitVec.ofNat 64 (poisonMask y),
                                            words := (List.range 32).zip (clean.words (s.hleft y)) } })))
  else if x.prog.phase ≤ 32 then
    packStore (r + BitVec.ofNat 64 (8 * (x.prog.phase - 1))) (SMap.getD x.prog.words (x.prog.phase - 1) 0) u x s
      (fun s => s.onStrand u (fun x => { x with run := .stalled, prog := { x.prog with phase := x.prog.phase + 1 } }))
  else writeBack u d x.prog.val s

/-- `pack` (R279). -/
def execPack (d a b : BitVec 5) (s : State) : Host.Outcome State Fault Refusal :=
  issueSup [a, b] [d] (fun u x s => packAt d (x.reg a) (x.reg b) u x s) s

/-- What a save area holds of a strand is changed for its restore (R263). -/
def State.onSaved (s : State) (y : Strand) (f : Saved → Saved) : State :=
  match y.place with
  | .saved t _ key _ => { s with saved := SMap.adjust s.saved (savedNo t key) f }
  | _ => s

/-- A strand lies in a save area. -/
def Strand.isSaved (x : Strand) : Bool := match x.place with | .saved _ _ _ _ => true | _ => false

/-- A waiting context takes a record's values; a rule pin runs on for hleft (R84, R279). A saved one takes them at its restore
too. -/
def State.takeRecord (s : State) (v : Nat) (ws : List Word) : State :=
  match s.strand v with
  | none => s
  | some y =>
    let c := y.ctx.ofWords ws
    if y.isSaved then
      (s.onStrand v (fun y => { y with ctx := c, poison := [] })).onSaved y (fun w => { w with fixes := SMap.put w.fixes v c })
    else
    let stop := if c.rpin then s.now + c.hleft.toNat else 0
    let s := s.onStrand v (fun y => { y with ctx := c, poison := [], pinEnd := stop })
    if c.rpin then s.schedule stop 0 (.pinHoldExpiry v stop) else s

/-- `prest` (R279). -/
def prestAt (d : Reg) (a r : Word) (u : Nat) (x : Strand) (s : State) : Act :=
  match s.named x a with
  | none => writeBack u d 1 s
  | some v =>
    if x.prog.phase = 0 then blockAt r s (askWords true r 32 1 u x)
    else gotWords 32 x s (fun ws s =>
      if ctxReserved ws then writeBack u d 2 s else writeBack u d 0 (s.takeRecord v ws))

/-- `prest` (R279). -/
def execPrest (d a b : BitVec 5) (s : State) : Host.Outcome State Fault Refusal :=
  issueSup [a, b] [d] (fun u x s => prestAt d (x.reg a) (x.reg b) u x s) s

/-! ## sres, sredir (R280) -/

/-- `sres` and `sredir` at the issuer. -/
def wakeOp (redir : Bool) (d a : Reg) (s : State) : Host.Outcome State Fault Refusal :=
  issueSup [a] [d] (fun u x s =>
    if x.prog.phase = 2 then writeBack u d x.prog.val s
    else
      let t := bits (x.reg a) 32 12
      if Config.tiles ≤ t ∨ Config.dieOf t ≠ Config.dieOf x.tile then writeBack u d 1 s
      else askTile t (.sres ⟨BitVec.ofNat 32 (bits (x.reg a) 0 32), t, redir, u⟩) u x s) s

/-- `sres` (R280). -/
def execSres (d a : BitVec 5) (s : State) : Host.Outcome State Fault Refusal := wakeOp false d a s
/-- `sredir` (R280). -/
def execSredir (d a : BitVec 5) (s : State) : Host.Outcome State Fault Refusal := wakeOp true d a s

/-- What the request finds at the strand's tile, and does: rd and the state; on a saved strand it takes effect at the restore
(R263, R280). -/
def State.wakeArrives (s : State) (r : SresReq) : Nat × State :=
  match s.waiter r.tile r.sid r.tile with
  | none => (1, s)
  | some v => match s.strand v with
    | none => (1, s)
    | some y =>
      let resume (pc : BitVec 48) : State :=
        ((s.onStrand v (fun y => { y with ctx := { y.ctx with pc := pc } })).makeReady v).onSaved y (fun w =>
          { w with wakes := SMap.put w.wakes v pc })
      if r.redir then (if y.ctx.tvec = 0 then (2, s) else (0, resume y.ctx.tvec))
      else (0, resume (if y.ctx.tcause = 0x10 then y.ctx.tpc + 4 else y.ctx.tpc))

/-- `sresArrival`: the answer leaves four cycles later (R280). -/
def execSresArrival (s : State) : Host.Outcome State Fault Refusal :=
  onEvent (fun e => match e with
    | .sresArrival r => some (
      let w := s.wakeArrives r
      match w.2.strand r.uid with
      | none => w.2
      | some x => w.2.schedule (w.2.now + 4) 1 (.inject (w.2.real r.tile) x.tile (.opAck r.uid (BitVec.ofNat 64 w.1))))
    | _ => none) s

end Sys2Proof.Machine
end

