-- ==== Sys2Proof/Machine/Loader.lean ====
section
/-! DEFINITION. Loading a Driber image into a partition (R46). -/

namespace Sys2Proof.Machine
open Sys2Proof

/-- Writing bytes that no engine or strand writes: what lies behind them in a cache is these bytes too. -/
def State.place (s : State) (k : Nat) (bs : List Byte) : State := s.writeAt k (placed bs)

/-- The supervisor CSR that a `.config` line sets on a tile: four user CSRs name the tile defaults (R46). -/
def configCsr (n : Nat) : Nat :=
  if n = 0x30 then 0x80C else if n = 0x40 then 0x80D else if n = 0x41 then 0x80E else if n = 0x42 then 0x80F else n

/-- A CSR that `.config` may name: one of which each tile has a copy or a default, and which can be written (R45). -/
def configurable (n : Nat) : Bool :=
  n == 0x30 || n == 0x40 || n == 0x41 || n == 0x42 || (decide (0x800 ≤ n) && decide (n ≤ 0x80F))

/-- A domain that an image defines: its id, its owners, and its stripes (R46). -/
structure ImgDomain where
  id : Nat
  owners : List Nat
  stripes : Nat
  deriving DecidableEq, Repr, Inhabited

/-- The tile of the first launch. -/
def firstTile (img : Image) : Nat := (img.launches.head?.map (·.t0)).getD 0

/-- The domains that an image defines; domain 0 is the first launch's tile if no line gives it. Of two lines of one id, of which
the manual does not speak, the first counts (DESIGN CHOICE, log entry 82). -/
def imgDomains (img : Image) : List (Nat × List Nat) :=
  let l := if img.domains.any (fun d => d.1 == 0) then img.domains else (0, [firstTile img]) :: img.domains
  (List.range 64).filterMap (fun i => l.find? (fun d => d.1 == i))

/-- One past the highest offset of a domain in which the image places a byte. -/
def imgEnd (img : Image) (d : Nat) : Nat :=
  (img.bytes.map (fun b => if b.1 / 2 ^ 40 = d then b.1 % 2 ^ 40 + b.2.2.length else 0)).foldl max 0

/-- The domains with their sizes: the fewest whole stripes that cover every byte, at least one. -/
def imgSized (img : Image) : List ImgDomain :=
  (imgDomains img).map (fun d =>
    let unit := 4096 * d.2.length
    ⟨d.1, d.2, max 1 ((imgEnd img d.1 + unit - 1) / unit)⟩)

/-- The lowest id that the image does not define. -/
def tableDomain (img : Image) : Nat :=
  ((List.range 64).find? (fun i => !((imgDomains img).any (fun d => d.1 == i)))).getD 64

/-- The 2 MiB pages of an image: address, domain, page number, and whether it holds text and data. -/
def imgPages (img : Image) (ds : List ImgDomain) : List (Nat × Nat × Nat × Bool × Bool) :=
  ds.flatMap (fun d =>
    let size := d.stripes * d.owners.length * 4096
    (List.range ((size + 2 ^ 21 - 1) / 2 ^ 21)).map (fun p =>
      let va := d.id * 2 ^ 40 + p * 2 ^ 21
      let touches (text : Bool) : Bool := img.bytes.any (fun b =>
        b.2.1 == text && decide (b.1 < va + 2 ^ 21) && decide (va < b.1 + b.2.2.length))
      (va, d.id, p, touches true, touches false)))

/-- The tables beyond level 0, as (level, address's upper bits), by rising address, then level. -/
def imgTables (pages : List (Nat × Nat × Nat × Bool × Bool)) : List (Nat × Nat) :=
  let l3 := (pages.map (fun p => p.1 / 2 ^ 30)).eraseDups
  let l2 := (l3.map (· / 2 ^ 9)).eraseDups
  let with2 := l2.flatMap (fun k => (2, k) :: (l3.filter (fun j => j / 2 ^ 9 == k)).map (fun j => (3, j)))
  (1, 0) :: with2

/-- The number of a table among those beyond level 0, from 1. -/
def tableNo (ts : List (Nat × Nat)) (level k : Nat) : Nat := ts.findIdx (fun t => t == (level, k)) + 1

/-- A pointer entry (R53). -/
def pointerEntry (dom table : Nat) : Word := BitVec.ofNat 64 (table * 4096 + dom * 32 + 1)
/-- A leaf entry of a 2 MiB page (R53): text has r and x, everything else r and w (R46). -/
def leafEntry (dom page : Nat) (text : Bool) : Word :=
  BitVec.ofNat 64 (page * 2 ^ 21 + dom * 32 + (if text then 0xA else 0x6) + 1)

/-- Every entry of the page table, with its offset in the page-table domain. -/
def imgEntries (pd : Nat) (pages : List (Nat × Nat × Nat × Bool × Bool)) (ts : List (Nat × Nat)) : List (Nat × Word) :=
  (0, pointerEntry pd (tableNo ts 1 0)) ::
    (ts.filterMap (fun t =>
      if t.1 = 2 then some (4096 * tableNo ts 1 0 + 8 * (t.2 % 512), pointerEntry pd (tableNo ts 2 t.2))
      else if t.1 = 3 then some (4096 * tableNo ts 2 (t.2 / 512) + 8 * (t.2 % 512), pointerEntry pd (tableNo ts 3 t.2))
      else none)
    ++ pages.map (fun p =>
      (4096 * tableNo ts 3 (p.1 / 2 ^ 30) + 8 * (p.1 / 2 ^ 21 % 512), leafEntry p.2.1 p.2.2.1 p.2.2.2.1)))

/-- The base of each domain in rising id, above every range already placed on its owners (R46). -/
def imgBases (ends : SMap Nat) : List ImgDomain → List (ImgDomain × Nat)
  | [] => []
  | d :: ds =>
    let lowest := (d.owners.map (fun t => SMap.getD ends t 0)).foldl max 0x100000
    let base := (lowest + 4095) / 4096 * 4096
    (d, base) :: imgBases (d.owners.foldl (fun m t => SMap.put m t (base + d.stripes * 4096)) ends) ds

/-- An image that the loader rejects: one of R46, or one with a `.config` line of another CSR (R45). The manual does not say
what the loader does with an image whose launch, domain or local-store tile is outside the partition, or that places bytes
in a domain that it does not define: such an image is rejected whole (DESIGN CHOICE, log entry 55). Nor does it say what
becomes of a `.domain` list that breaks R56 otherwise, with a tile twice or with more than 1024: such a list is taken as it
stands (DESIGN CHOICE, log entry 82). -/
def imgRejected (s : State) (img : Image) : Bool :=
  let ds := imgSized img
  let pages := imgPages img ds
  let n := (imgTables pages).length + 1
  let inPart (t : Nat) : Bool := decide (t < Config.tiles) && s.partOfTile t == img.part
  img.launches.isEmpty || decide (Config.partitions ≤ img.part) || tableDomain img == 64 || !(img.config.all (fun c => configurable c.1))
    || img.launches.any (fun l => !(inPart l.t0)) || ds.any (fun d => d.owners.any (fun t => !(inPart t)) || d.owners.isEmpty)
    || img.bytes.any (fun b => !(ds.any (fun d => d.id == b.1 / 2 ^ 40)))
    || pages.any (fun p => p.2.2.2.1 && p.2.2.2.2)
    || (imgBases [(firstTile img, 4096 * n)] ds).any (fun b =>
      b.1.owners.any (fun t => decide (Config.memSize t - Config.poolSize < b.2 + b.1.stripes * 4096)))
    || img.lstore.any (fun l => !(inPart l.1) || decide (Config.lsSize l.1 < l.2.1 + l.2.2.length))

/-- Write bytes at consecutive offsets of a domain. -/
def State.putIn (s : State) (x : Desc) (off : Nat) : List Byte → State
  | [] => s
  | b :: bs =>
    let s := match locateIn x off with
      | some (_, k) => s.setByte k b
      | none => s
    s.putIn x (off + 1) bs

/-- Zero every byte of a range of a tile, and clear its poison. -/
def State.zero (s : State) (k n : Nat) : State :=
  { s with mem := SMap.dropRange s.mem k (k + n), poison := SMap.dropRange s.poison k (k + n),
           backing := SMap.dropRange s.backing k (k + n) }

/-- The strand of a launch on tile `t` (R46, R68, R291): its fields from the record and from the tile's defaults. -/
def State.launchStrand (s : State) (t : Nat) (l : Launch) (b : Birth) : Nat × State :=
  let i := s.newSid t
  let r := s.regs t
  let z : Vector Word 24 := Vector.replicate 24 0
  let c : Ctx :=
    { g := ((z.set 0 l.g0).set 1 l.g1).set 2 l.g2, pred := 1, pc := l.pc, pseq := 0, lin := l.lin, sid := i.1, rpin := false,
      xpin := false, sup := false, cls := l.cls, tcause := 0, tvec := r.dtvec, tseq := 0, tpc := 0, tval := 0, nstop := 0,
      alt := 0, prev := BitVec.ofNat 12 t, cur := BitVec.ofNat 12 t, pmin := r.dpinmin, plim := r.dpinlim, hleft := 0,
      phold := r.dpinhold }
  i.2.addStrand (Strand.fresh c t b)

/-- A `.launch` line is performed: the strand is born and asks for a slot; every general register but g0 starts at 0 (R46). -/
def State.launchNow (s : State) (l : Launch) : State :=
  let a := s.launchStrand l.t0 { l with g1 := 0, g2 := 0 } .none
  a.2.askBirth l.t0 a.1

/-- `.launch` lines in order, one per cycle (R46). -/
def State.launchAll (s : State) : List Launch → Nat → State
  | [], _ => s
  | l :: ls, i => (s.schedule (s.now + i) 1 (.launchLine l)).launchAll ls (i + 1)

/-- The eight steps of R46. A rejected image changes nothing. The TLB and the instruction cache of every tile of the partition
are emptied, so that nothing stale is used: the manual does not say so (DESIGN CHOICE, log entry 56). -/
def State.loadImage (s : State) (img : Image) : State :=
  if imgRejected s img then s
  else
    let p := img.part
    let tiles := s.tilesOf p
    let ds := imgSized img
    let pages := imgPages img ds
    let ts := imgTables pages
    let n := ts.length + 1
    let pd := tableDomain img
    let first := firstTile img
    let table : Desc := ⟨[first], n, 0⟩
    let descs := (imgBases [(first, 4096 * n)] ds).map (fun b => (b.1.id, (⟨b.1.owners, b.1.stripes * b.1.owners.length, b.2⟩ : Desc)))
    let config := (img.config.map (fun c => (configCsr c.1, c.2))) ++ [(0x806, BitVec.ofNat 64 (pd * 32 + 1))]
    let s := tiles.foldl (fun s t => ((s.onTile t (fun x =>
      { x with regs := config.foldl (fun r c => r.setCsr t c.1 c.2) x.regs, tlb := [], icache := [] })).staleWalks t).dropFills t
        (fun _ => true)) s
    let mine : SMap Desc := ((pd, table) :: descs).map (fun d => (descNo p d.1, d.2))
    let s := { s with descs := SMap.merge (SMap.dropRange s.descs (descNo p 0) (descNo p 64)) mine }
    let s := tiles.foldl (fun s t => s.zero (cellNo t true 0) (Config.lsSize t)) s
    let s := ((pd, table) :: descs).foldl (fun s d => d.2.list.foldl (fun s t =>
      s.zero (cellNo t false d.2.base) (d.2.size / d.2.list.length * 4096)) s) s
    let s := (imgEntries pd pages ts).foldl (fun s e => s.putIn table e.1 (bytesOf 8 e.2)) s
    let s := img.bytes.foldl (fun s b => match descs.find? (fun d => d.1 == b.1 / 2 ^ 40) with
      | some d => s.putIn d.2 (b.1 % 2 ^ 40) b.2.2
      | none => s) s
    let s := img.lstore.foldl (fun s l => s.place (cellNo l.1 true l.2.1) l.2.2) s
    s.launchAll img.launches 0

/-- `imageLoad` (R46). -/
def execImageLoad (s : State) : Host.Outcome State Fault Refusal :=
  onEvent (fun e => match e with | .imageLoad img => some (s.loadImage img) | _ => none) s

end Sys2Proof.Machine
end

