-- ==== Sys2Proof/Machine/Vector.lean ====
section
/-! DEFINITION. The vector unit (R149 to R172): the claim, element-wise and row operations, vector memory, and the
step in which an instruction writes its last row. -/

namespace Sys2Proof.Machine
open Sys2Proof

/-! ## Elements -/

/-- The source element of destination element `i` under a lane pattern (R152). -/
def lanePattern (l : BitVec 4) (i : Nat) : Nat :=
  let r := i / 64
  let k := i % 64
  let blk := k / 32 * 32
  let q := k % 32
  let rot (n : Nat) : Nat := 64 * r + blk + (q + n) % 32
  match l.toNat with
  | 0 => i
  | 1 => 64 * r + blk + (31 - q)
  | 2 => 64 * r + blk
  | 3 => k
  | 4 => rot 1
  | 5 => rot 2
  | 6 => rot 4
  | 7 => rot 8
  | 8 => 64 * r + Nat.xor k 1
  | 9 => 64 * r + Nat.xor k 2
  | 10 => 64 * r + Nat.xor k 4
  | _ => i

/-- Element `i` is inside the shape (R149). -/
def VUnit.inside (v : VUnit) (i : Nat) : Bool := decide (i / 64 < v.rows) && decide (i % 64 < v.lanes)

def VUnit.reg (v : VUnit) (r : Nat) : Vector Half 1024 := v.v[r]?.getD (Vector.replicate 1024 0)
def VUnit.elem (v : VUnit) (r i : Nat) : Half := (v.reg r)[i]?.getD 0

/-- Write the elements of a register for which `p` holds; they lose their poison (R158). -/
def VUnit.write (v : VUnit) (r : Nat) (p : Nat → Bool) (f : Nat → Half) : VUnit :=
  { v with v := v.v.setIfInBounds r (Vector.ofFn (fun i : Fin 1024 => if p i.val then f i.val else v.elem r i.val)),
           poison := v.poison.filter (fun e => !(e.1 / 1024 == r && p (e.1 % 1024))) }

/-- The element form of a trap value: (v << 16) or (r << 8) or l (R156). -/
def elementForm (n : Nat) : Word := BitVec.ofNat 64 (n / 1024 * 2 ^ 16 + n / 64 % 16 * 2 ^ 8 + n % 64)

/-- The first poisoned element, by register, row and lane, among those that `used` names by number 1024 v + 64 r + l:
its cause and element form (R156, R158, R166). -/
def VUnit.poisonIn (v : VUnit) (used : Nat → Bool) : Option (Nat × Word) :=
  ((v.poison.filter (fun e => used e.1)).head?).map (·.2)

/-- Element `n` (register and index) is read as vb through a lane pattern by some destination inside the shape. -/
def VUnit.usesB (v : VUnit) (b : Nat) (l : BitVec 4) (n : Nat) : Bool :=
  n / 1024 == b && (List.range 1024).any (fun i => v.inside i && lanePattern l i == n % 1024)

/-- Element `n` is the element of register `r` inside the shape. -/
def VUnit.usesOwn (v : VUnit) (r n : Nat) : Bool := n / 1024 == r && v.inside (n % 1024)

def VUnit.isPending (v : VUnit) (r : Nat) : Bool := v.pending[r]?.getD 0 != 0
def VUnit.anyPending (v : VUnit) : Bool := v.pending.toList.any (· != 0)
def VUnit.setPending (v : VUnit) (r n : Nat) : VUnit := { v with pending := v.pending.setIfInBounds r n }

/-! ## Issue (R154, R158, R172) -/

/-- Vector work of a die is delayed by thermal governance (R296). -/
def State.cooling (s : State) (t : Nat) : Bool := s.now < (s.die (Config.dieOf t)).hot

/-- A vector instruction: the claim first, then the wait for its registers and for the unit, then its own meaning.
`regs` are the general registers read, `wr` those written, `vs` the vector registers that it reads or writes. -/
def vectorOp (regs wr : List Reg) (vs : VUnit → Bool) (body : Nat → Strand → Nat → Nat → VUnit → State → Act)
    (s : State) : Host.Outcome State Fault Refusal :=
  issueWith [] [] [] (fun u x s =>
    let t := x.tile
    let c := x.place.core
    let v := s.vunit t c
    if v.holder ≠ some u then trapAct s 8 0
    else if x.prog.phase ≠ 0 then body u x t c v s
    else if x.blocked regs wr || vs v || decide (s.now < v.busy) || s.cooling t then stallAct s
    else match x.poisonIn regs with
      | some (k, w) => trapAct s k w
      | none => body u x t c v s) s

/-- The registers named are pending. -/
def waits (vs : List VReg) (v : VUnit) : Bool := vs.any (fun r => v.isPending r.toNat)

/-- The unit after an instruction of `busy` rows whose register `d` is ready `lat` cycles after issue (R154). -/
def State.occupy (s : State) (t c : Nat) (v : VUnit) (d : VReg) (busy lat : Nat) : State :=
  let s := s.onVunit t c (fun _ => { v.setPending d.toNat (s.now + lat + 1) with busy := s.now + busy })
  s.schedule (s.now + lat) 0 (.vectorLastRowWritten t c d)

/-- The register of a unit that is to be ready in this cycle is ready. One that a later holder has made pending is not. -/
def VUnit.ready (v : VUnit) (d now : Nat) : VUnit :=
  if v.pending[d]?.getD 0 = now + 1 then v.setPending d 0 else v

/-- `vectorLastRowWritten`: the register is ready (R154). -/
def execVectorLastRowWritten (s : State) : Host.Outcome State Fault Refusal :=
  onEvent (fun e => match e with
    | .vectorLastRowWritten t c d => some (s.onVunit t c (fun v => v.ready d.toNat s.now))
    | _ => none) s

/-! ## Element-wise members (R159, R160, R162) -/

/-- vd[r][l] := f(va[r][l], src(vb), vd[r][l]) inside the shape; `ua`, `ud` say whether va and vd are read. -/
def elementwise (f : Half → Half → Half → Half) (ua ud : Bool) (lat : Nat) (d a b : VReg) (l : BitVec 4) (s : State)
    : Host.Outcome State Fault Refusal :=
  vectorOp [] [] (waits (if ua then [a, b, d] else [b, d])) (fun u _ t c v s =>
    let used (n : Nat) : Bool :=
      v.usesB b.toNat l n || (ua && v.usesOwn a.toNat n) || (ud && v.usesOwn d.toNat n)
    match v.poisonIn used with
    | some (k, w) => trapAct s k w
    | none =>
      let v' := v.write d.toNat v.inside (fun i =>
        f (v.elem a.toNat i) (v.elem b.toNat (lanePattern l i)) (v.elem d.toNat i))
      .ok ((s.occupy t c v' d v.rows (lat + v.rows)).retire u)) s

/-- A mask: all ones for true (R159). -/
def mask32 (b : Bool) : Half := if b then BitVec.allOnes 32 else 0
/-- A shift amount: B[4:0]. -/
def amount32 (b : Half) : Nat := b.toNat % 32

/-- `vfadd`: A + B (R159). -/
def execVfadd (d a b : BitVec 3) (l : BitVec 4) (s : State) : Host.Outcome State Fault Refusal :=
  elementwise (fun a b _ => Num.fadd a b) true false 4 d a b l s

/-- `vfsub`: A - B (R159). -/
def execVfsub (d a b : BitVec 3) (l : BitVec 4) (s : State) : Host.Outcome State Fault Refusal :=
  elementwise (fun a b _ => Num.fsub a b) true false 4 d a b l s

/-- `vfmul`: A * B (R159). -/
def execVfmul (d a b : BitVec 3) (l : BitVec 4) (s : State) : Host.Outcome State Fault Refusal :=
  elementwise (fun a b _ => Num.fmul a b) true false 4 d a b l s

/-- `vfma`: A * B + D, one rounding (R159). -/
def execVfma (d a b : BitVec 3) (l : BitVec 4) (s : State) : Host.Outcome State Fault Refusal :=
  elementwise (fun a b d => Num.fma a b d) true true 4 d a b l s

/-- `vfmax`: maximum (R159). -/
def execVfmax (d a b : BitVec 3) (l : BitVec 4) (s : State) : Host.Outcome State Fault Refusal :=
  elementwise (fun a b _ => Num.fmax a b) true false 4 d a b l s

/-- `vfmin`: minimum (R159). -/
def execVfmin (d a b : BitVec 3) (l : BitVec 4) (s : State) : Host.Outcome State Fault Refusal :=
  elementwise (fun a b _ => Num.fmin a b) true false 4 d a b l s

/-- `vfabs`: bit 31 cleared (R159). -/
def execVfabs (d b : BitVec 3) (l : BitVec 4) (s : State) : Host.Outcome State Fault Refusal :=
  elementwise (fun _ b _ => Num.fabs b) false false 4 d 0 b l s

/-- `vfneg`: bit 31 inverted (R159). -/
def execVfneg (d b : BitVec 3) (l : BitVec 4) (s : State) : Host.Outcome State Fault Refusal :=
  elementwise (fun _ b _ => Num.fneg b) false false 4 d 0 b l s

/-- `vfdiv`: A / B (R159). -/
def execVfdiv (d a b : BitVec 3) (l : BitVec 4) (s : State) : Host.Outcome State Fault Refusal :=
  elementwise (fun a b _ => Num.fdiv a b) true false 12 d a b l s

/-- `vfcmpEq`: A = B (R159). -/
def execVfcmpEq (d a b : BitVec 3) (l : BitVec 4) (s : State) : Host.Outcome State Fault Refusal :=
  elementwise (fun a b _ => mask32 (Num.feq a b)) true false 4 d a b l s

/-- `vfcmpLt`: A < B (R159). -/
def execVfcmpLt (d a b : BitVec 3) (l : BitVec 4) (s : State) : Host.Outcome State Fault Refusal :=
  elementwise (fun a b _ => mask32 (Num.flt a b)) true false 4 d a b l s

/-- `vfcmpLe`: A <= B (R159). -/
def execVfcmpLe (d a b : BitVec 3) (l : BitVec 4) (s : State) : Host.Outcome State Fault Refusal :=
  elementwise (fun a b _ => mask32 (Num.fle a b)) true false 4 d a b l s

/-- `viadd`: A + B mod 2^32 (R159). -/
def execViadd (d a b : BitVec 3) (l : BitVec 4) (s : State) : Host.Outcome State Fault Refusal :=
  elementwise (fun a b _ => a + b) true false 4 d a b l s

/-- `visub`: A - B mod 2^32 (R159). -/
def execVisub (d a b : BitVec 3) (l : BitVec 4) (s : State) : Host.Outcome State Fault Refusal :=
  elementwise (fun a b _ => a - b) true false 4 d a b l s

/-- `vimul`: low 32 bits of A * B (R159). -/
def execVimul (d a b : BitVec 3) (l : BitVec 4) (s : State) : Host.Outcome State Fault Refusal :=
  elementwise (fun a b _ => a * b) true false 4 d a b l s

/-- `vimax`: signed maximum (R159). -/
def execVimax (d a b : BitVec 3) (l : BitVec 4) (s : State) : Host.Outcome State Fault Refusal :=
  elementwise (fun a b _ => if a.slt b then b else a) true false 4 d a b l s

/-- `vimin`: signed minimum (R159). -/
def execVimin (d a b : BitVec 3) (l : BitVec 4) (s : State) : Host.Outcome State Fault Refusal :=
  elementwise (fun a b _ => if b.slt a then b else a) true false 4 d a b l s

/-- `vand`: A and B (R159). -/
def execVand (d a b : BitVec 3) (l : BitVec 4) (s : State) : Host.Outcome State Fault Refusal :=
  elementwise (fun a b _ => a &&& b) true false 4 d a b l s

/-- `vor`: A or B (R159). -/
def execVor (d a b : BitVec 3) (l : BitVec 4) (s : State) : Host.Outcome State Fault Refusal :=
  elementwise (fun a b _ => a ||| b) true false 4 d a b l s

/-- `vxor`: A xor B (R159). -/
def execVxor (d a b : BitVec 3) (l : BitVec 4) (s : State) : Host.Outcome State Fault Refusal :=
  elementwise (fun a b _ => a ^^^ b) true false 4 d a b l s

/-- `vshl`: A shifted left by B[4:0] (R159). -/
def execVshl (d a b : BitVec 3) (l : BitVec 4) (s : State) : Host.Outcome State Fault Refusal :=
  elementwise (fun a b _ => a <<< amount32 b) true false 4 d a b l s

/-- `vshr`: A shifted right, zero fill (R159). -/
def execVshr (d a b : BitVec 3) (l : BitVec 4) (s : State) : Host.Outcome State Fault Refusal :=
  elementwise (fun a b _ => a >>> amount32 b) true false 4 d a b l s

/-- `vsra`: A shifted right, sign fill (R159). -/
def execVsra (d a b : BitVec 3) (l : BitVec 4) (s : State) : Host.Outcome State Fault Refusal :=
  elementwise (fun a b _ => a.sshiftRight (amount32 b)) true false 4 d a b l s

/-- `vicmpEq`: A = B (R159). -/
def execVicmpEq (d a b : BitVec 3) (l : BitVec 4) (s : State) : Host.Outcome State Fault Refusal :=
  elementwise (fun a b _ => mask32 (a == b)) true false 4 d a b l s

/-- `vicmpLt`: A < B, signed (R159). -/
def execVicmpLt (d a b : BitVec 3) (l : BitVec 4) (s : State) : Host.Outcome State Fault Refusal :=
  elementwise (fun a b _ => mask32 (a.slt b)) true false 4 d a b l s

/-- `vsel`: D nonzero ? A : B (R159). A selected NaN keeps its bits (R4): the entry has `vmov` as the only member that moves a
NaN without making it canonical, and does not say what this one does (DESIGN CHOICE, log entry 81). -/
def execVsel (d a b : BitVec 3) (l : BitVec 4) (s : State) : Host.Outcome State Fault Refusal :=
  elementwise (fun a b d => if d != 0 then a else b) true true 4 d a b l s

/-- `vmov`: B, bits unchanged (R159). -/
def execVmov (d b : BitVec 3) (l : BitVec 4) (s : State) : Host.Outcome State Fault Refusal :=
  elementwise (fun _ b _ => b) false false 4 d 0 b l s

/-- `vcvtF32I32`: i32 to f32 (R160). -/
def execVcvtF32I32 (d b : BitVec 3) (l : BitVec 4) (s : State) : Host.Outcome State Fault Refusal :=
  elementwise (fun _ b _ => Num.ofInt b.toInt) false false 4 d 0 b l s

/-- `vcvtI32F32Rne`: f32 to i32, to nearest, saturated (R160). -/
def execVcvtI32F32Rne (d b : BitVec 3) (l : BitVec 4) (s : State) : Host.Outcome State Fault Refusal :=
  elementwise (fun _ b _ => Num.toInt .rne 32 (Num.ofF32 b)) false false 4 d 0 b l s

/-- `vcvtI32F32Rz`: f32 to i32, toward zero, saturated (R160). -/
def execVcvtI32F32Rz (d b : BitVec 3) (l : BitVec 4) (s : State) : Host.Outcome State Fault Refusal :=
  elementwise (fun _ b _ => Num.toInt .rz 32 (Num.ofF32 b)) false false 4 d 0 b l s

/-- `vqzE4m3`: to the e4m3 grid, satfinite (R160). -/
def execVqzE4m3 (d b : BitVec 3) (l : BitVec 4) (s : State) : Host.Outcome State Fault Refusal :=
  elementwise (fun _ b _ => Num.widen .e4m3 (Num.narrow .e4m3 .sat b)) false false 4 d 0 b l s

/-- `vqzE5m2`: to the e5m2 grid, satfinite (R160). -/
def execVqzE5m2 (d b : BitVec 3) (l : BitVec 4) (s : State) : Host.Outcome State Fault Refusal :=
  elementwise (fun _ b _ => Num.widen .e5m2 (Num.narrow .e5m2 .sat b)) false false 4 d 0 b l s

/-- `vqzBf16`: to the bf16 grid, IEEE overflow (R160). -/
def execVqzBf16 (d b : BitVec 3) (l : BitVec 4) (s : State) : Host.Outcome State Fault Refusal :=
  elementwise (fun _ b _ => Num.widen .bf16 (Num.narrow .bf16 .ieee b)) false false 4 d 0 b l s

/-- `vqzE5m2Ieee`: to the e5m2 grid, IEEE overflow (R160). -/
def execVqzE5m2Ieee (d b : BitVec 3) (l : BitVec 4) (s : State) : Host.Outcome State Fault Refusal :=
  elementwise (fun _ b _ => Num.widen .e5m2 (Num.narrow .e5m2 .ieee b)) false false 4 d 0 b l s

/-! ## Row reductions (R30, R161) -/

/-- Combine two lanes, either of which may be absent. -/
def combine (f : Half → Half → Half) : Option Half → Option Half → Option Half
  | some a, some b => some (f a b)
  | some a, none => some a
  | none, b => b

/-- One level of the tree: the first half combined with the second. -/
def foldHalf (f : Half → Half → Half) (w : Nat) (x : List (Option Half)) : List (Option Half) :=
  List.zipWith (combine f) (x.take w) (x.drop w)

/-- The fixed tree over 64 lanes (R30). -/
def reduceRow (f : Half → Half → Half) (x : List (Option Half)) : Half :=
  (([32, 16, 8, 4, 2, 1].foldl (fun x w => foldHalf f w x) x).head?.getD none).getD 0

/-- A row reduction; `leaf` is applied to each lane once, and makes a NaN canonical (R23). -/
def reduction (f : Half → Half → Half) (leaf : Half → Half) (d b : VReg) (l : BitVec 4) (s : State) : Host.Outcome State Fault Refusal :=
  vectorOp [] [] (waits [b, d]) (fun u _ t c v s =>
    match v.poisonIn (v.usesB b.toNat l) with
    | some (k, w) => trapAct s k w
    | none =>
      let row (r : Nat) : Half := reduceRow f ((List.range 64).map (fun k =>
        if k < v.lanes then some (leaf (v.elem b.toNat (lanePattern l (64 * r + k)))) else none))
      let rows : List Half := (List.range v.rows).map row
      let v' := v.write d.toNat v.inside (fun i => rows.getD (i / 64) 0)
      .ok ((s.occupy t c v' d v.rows (10 + v.rows)).retire u)) s

/-- `vrsum` (R161). -/
def execVrsum (d b : BitVec 3) (l : BitVec 4) (s : State) : Host.Outcome State Fault Refusal := reduction Num.fadd Num.quiet d b l s

/-- `vrmax` (R161). -/
def execVrmax (d b : BitVec 3) (l : BitVec 4) (s : State) : Host.Outcome State Fault Refusal := reduction Num.fmax Num.quiet d b l s

/-- `vrmin` (R161). -/
def execVrmin (d b : BitVec 3) (l : BitVec 4) (s : State) : Host.Outcome State Fault Refusal := reduction Num.fmin Num.quiet d b l s

/-- `vramax` (R161). -/
def execVramax (d b : BitVec 3) (l : BitVec 4) (s : State) : Host.Outcome State Fault Refusal := reduction Num.fmax Num.fabs d b l s

/-- `vrsqrt`: the bits of the scalar form (R31, R162). -/
def execVrsqrt (d b : BitVec 3) (l : BitVec 4) (s : State) : Host.Outcome State Fault Refusal :=
  elementwise (fun _ b _ => Num.frsqrt b) false false 12 d 0 b l s

/-- `vrcp`: the bits of the scalar form (R31, R162). -/
def execVrcp (d b : BitVec 3) (l : BitVec 4) (s : State) : Host.Outcome State Fault Refusal :=
  elementwise (fun _ b _ => Num.frcp b) false false 12 d 0 b l s

/-- `vsqrt`: the bits of the scalar form (R31, R162). -/
def execVsqrt (d b : BitVec 3) (l : BitVec 4) (s : State) : Host.Outcome State Fault Refusal :=
  elementwise (fun _ b _ => Num.fsqrt b) false false 12 d 0 b l s

/-- `vexp2`: the bits of the scalar form (R31, R162). -/
def execVexp2 (d b : BitVec 3) (l : BitVec 4) (s : State) : Host.Outcome State Fault Refusal :=
  elementwise (fun _ b _ => Num.fexp2 b) false false 12 d 0 b l s

/-- `vlog2`: the bits of the scalar form (R31, R162). -/
def execVlog2 (d b : BitVec 3) (l : BitVec 4) (s : State) : Host.Outcome State Fault Refusal :=
  elementwise (fun _ b _ => Num.flog2 b) false false 12 d 0 b l s

/-! ## Configuration and elements (R168 to R170) -/

/-- `vshape`: rows and lanes, clamped (R168). -/
def execVshape (a b : BitVec 5) (s : State) : Host.Outcome State Fault Refusal :=
  vectorOp [a, b] [] VUnit.anyPending (fun u x t c v s =>
    .ok ((s.onVunit t c (fun _ => { v with rows := min (max (x.reg a).toNat 1) 16,
                                           lanes := min (max (x.reg b).toNat 1) 64 })).retire u)) s

/-- Fill the shape with one value (R169). -/
def fill (v : VReg) (rd : List Reg) (f : Strand → Half) (s : State) : Host.Outcome State Fault Refusal :=
  vectorOp rd [] (waits [v]) (fun u x t c w s =>
    let w' := w.write v.toNat w.inside (fun _ => f x)
    .ok ((s.occupy t c w' v w.rows (4 + w.rows)).retire u)) s

/-- `vbcast` (R169). -/
def execVbcast (v : BitVec 3) (a : BitVec 5) (s : State) : Host.Outcome State Fault Refusal :=
  fill v [a] (fun x => (x.reg a).setWidth 32) s

/-- `vzero` (R169). -/
def execVzero (v : BitVec 3) (s : State) : Host.Outcome State Fault Refusal := fill v [] (fun _ => 0) s

/-- The element that an index register names: row [11:8], lane [5:0] (R170). -/
def elementIndex (w : Word) : Nat := 64 * (w.toNat / 256 % 16) + w.toNat % 64

/-- `vget` (R170). -/
def execVget (v : BitVec 3) (a b : BitVec 5) (s : State) : Host.Outcome State Fault Refusal :=
  vectorOp [b] [a] (waits [v]) (fun u x _ _ w s =>
    let i := elementIndex (x.reg b)
    match w.poisonIn (fun n => n == 1024 * v.toNat + i) with
    | some (k, e) => trapAct s k e
    | none => writeBack u a (toWord (w.elem v.toNat i)) s) s

/-- `vput`: no effect outside the shape (R170). -/
def execVput (v : BitVec 3) (a b : BitVec 5) (s : State) : Host.Outcome State Fault Refusal :=
  vectorOp [a, b] [] (waits [v]) (fun u x t c w s =>
    let i := elementIndex (x.reg b)
    if w.inside i then
      let w' := w.write v.toNat (· == i) (fun _ => (x.reg a).setWidth 32)
      .ok ((s.occupy t c w' v 0 4).retire u)
    else .ok (s.retire u)) s

/-! ## The claim (R151, R155, R167) -/

/-- A grant starts from a fixed state (R151). -/
def VUnit.grant (v : VUnit) (u : Nat) (rest : List Nat) : VUnit :=
  { VUnit.reset with holder := some u, waiters := rest.filter (fun w => v.waiters.contains w) }

/-- The first waiting `vclaim` is granted in the next cycle (R167). -/
def State.grantNext (s : State) (t c : Nat) : List Nat → State
  | [] => s.onVunit t c (fun v => { VUnit.reset with busy := v.busy })
  | u :: rest => match s.strand u with
    | some x =>
      if x.run = .waiting .vclaim ∧ x.marked = none then
        ((s.onVunit t c (fun v => v.grant u rest)).retire u).makeReadyAt u (s.now + 1)
      else s.grantNext t c rest
    | none => s.grantNext t c rest

/-- The unit is released. -/
def State.releaseUnit (s : State) (t c : Nat) : State := s.grantNext t c (s.vunit t c).waiters

/-- `vclaim` (R167). -/
def execVclaim (s : State) : Host.Outcome State Fault Refusal :=
  issue [] [] (fun u x s =>
    let t := x.tile
    let c := x.place.core
    let v := s.vunit t c
    match x.anyPoison with
    | some (k, w) => trapAct s k w
    | none =>
      if v.holder = some u then .ok (s.retire u)
      else if Config.hasSupervisor t && c == 0 && !x.ctx.sup then .ok (s.waitFor u .vclaim)
      else if v.holder = none ∧ v.waiters = [] then .ok ((s.onVunit t c (fun v => v.grant u [])).retire u)
      else .ok ((s.onVunit t c (fun v => { v with waiters := v.waiters ++ [u] })).waitFor u .vclaim)) s

/-- `vrel` (R167). -/
def execVrel (s : State) : Host.Outcome State Fault Refusal :=
  vectorOp [] [] VUnit.anyPending (fun u x _ _ _ s => .ok ((s.releaseUnit x.tile x.place.core).retire u)) s

/-! ## Vector memory (R153, R163 to R166) -/

/-- The element size of a type (R153). -/
def vmSize (ty : Nat) : Nat := [4, 2, 2, 1, 1, 1, 4].getD ty 4

/-- A row's piece: the first lane and the number of lanes in one 64-byte block, the block's address, and the offset of
the first lane in it. -/
structure Piece where
  row : Nat
  lane : Nat
  lanes : Nat
  addr : Word
  off : Nat
  deriving DecidableEq, Repr

/-- The pieces of a row at `a`, lowest address first (R163, R172). -/
def rowPieces (row : Nat) (a : Word) (lanes size : Nat) : List Piece :=
  let o := a.toNat % 64
  (List.range ((o + lanes * size + 63) / 64)).map (fun i =>
    let first := if i = 0 then 0 else (64 * i - o) / size
    let stop := min lanes ((64 * (i + 1) - o) / size)
    ⟨row, first, stop - first, a - BitVec.ofNat 64 o + BitVec.ofNat 64 (64 * i), (o + first * size) % 64⟩)

/-- Every piece of a vector memory instruction, row by row. -/
def VJob.pieces (j : VJob) (v : VUnit) : List Piece :=
  (List.range (if j.dup then 1 else v.rows)).flatMap (fun r =>
    rowPieces r (j.base + BitVec.ofNat 64 r * j.stride) v.lanes (vmSize j.ty))

/-- Widen an element's bytes into a lane (R153). -/
def vmLoad (ty n : Nat) : Half :=
  match ty with
  | 1 => Num.widen .bf16 n
  | 2 => Num.widen .f16 n
  | 3 => Num.widen .e4m3 n
  | 4 => Num.widen .e5m2 n
  | 5 => (BitVec.ofNat 8 n).signExtend 32
  | _ => BitVec.ofNat 32 n

/-- Narrow a lane into an element's bytes (R25, R26, R153). -/
def vmStore (ty : Nat) (x : Half) : Nat :=
  match ty with
  | 1 => Num.narrow .bf16 .ieee x
  | 2 => Num.narrow .f16 .ieee x
  | 3 => Num.narrow .e4m3 .sat x
  | 4 => Num.narrow .e5m2 .sat x
  | 5 => (BitVec.ofInt 8 (max (-128) (min 127 x.toInt))).toNat
  | _ => x.toNat

/-- Decode and translate every piece before any moves (R164). -/
def pieceTargets (u : Nat) (x : Strand) (p : Perm) : List Piece → State → Except Stop (List Target × State)
  | [], s => .ok ([], s)
  | q :: qs, s => do
    let r ← s.translate u x q.addr p
    match r.1 with
    | .peer _ _ => .error (.trap s 3 q.addr false)
    | .here tgt _ _ =>
      let rest ← pieceTargets u x p qs r.2
      .ok (tgt :: rest.1, rest.2)

/-- The checks on base and stride: the first that is no multiple of the size (R164). -/
def vmAligned (ty : Nat) (base stride : Word) (s : State) (k : State → Act) : Act :=
  if base.toNat % vmSize ty ≠ 0 then trapAct s 2 base
  else if stride.toNat % vmSize ty ≠ 0 then trapAct s 2 stride
  else k s

/-- The target `n` bytes on, within the same block. -/
def shiftTarget (n : Nat) : Target → Target
  | .ls t off => .ls t (off + n)
  | .tm p t off => .tm p t (off + n)
  | .md p d off => .md p d (off + n)

/-- Send the reads of a vector load, one piece in each cycle from this one (R164). -/
def sendPieces (size : Nat) (u : Nat) (x : Strand) (s : State) : List (Piece × Target) → Nat → State
  | [], _ => s
  | (q, block) :: rest, j =>
    let tgt := shiftTarget q.off block
    let s := match s.locate x.tile tgt with
      | none => s.schedule (s.now + j) 0 (.responseArrival ⟨.line u j, q.addr, .fail 3⟩)
      | some (o, _) =>
        let here := s.real o = x.tile
        let r : Req := ⟨x.tile, if here then x.tile else o, tgt, q.addr, .load (q.lanes * size), .line u j, x.ctx.lin, x.ctx.sup, false⟩
        s.schedule (s.now + j) 1 (if here then .requestArrival r else .inject x.tile o (.req r))
    sendPieces size u x s rest (j + 1)

/-- A vector load of a job (R164). -/
def vectorLoad (v : VReg) (ty : Nat) (base stride : Word) (dup : Bool) (u : Nat) (x : Strand) (t c : Nat) (w : VUnit)
    (s : State) : Act :=
  vmAligned ty base stride s (fun s => do
    let job : VJob := ⟨v.toNat, ty, base, stride, dup, [], 0, x.ctx.pc⟩
    let ps := job.pieces w
    let r ← pieceTargets u x permR ps s
    let s := r.2.onVunit t c (fun w =>
      { w.setPending v.toNat 1 with busy := s.now + ps.length, memBusy := s.now + ps.length, loads := ps.length,
                                    job := some { job with tgts := r.1 } })
    .ok ((sendPieces (vmSize ty) u x s (ps.zip r.1) 0).retire u))

/-- `vld` (R163, R164). -/
def execVld (v : BitVec 3) (a b : BitVec 5) (t : BitVec 4) (s : State) : Host.Outcome State Fault Refusal :=
  vectorOp [a, b] [] VUnit.anyPending (fun u x k c w s =>
    vectorLoad v t.toNat (x.reg a) (x.reg b) false u x k c w s) s

/-- `vldr`: one row into every row (R163, R164). -/
def execVldr (v : BitVec 3) (a : BitVec 5) (t : BitVec 4) (s : State) : Host.Outcome State Fault Refusal :=
  vectorOp [a] [] VUnit.anyPending (fun u x k c w s =>
    vectorLoad v t.toNat (x.reg a) 0 true u x k c w s) s

/-- The value of lane `k` of a piece's bytes. -/
def pieceElem (bs : List Byte) (size k : Nat) : Nat := leValue ((bs.drop (k * size)).take size)

/-- Element `i` belongs to a piece; `dup` pieces serve every row. -/
def Piece.holds (q : Piece) (dup : Bool) (v : VUnit) (i : Nat) : Bool :=
  v.inside i && (dup || i / 64 == q.row) && decide (q.lane ≤ i % 64) && decide (i % 64 < q.lane + q.lanes)

/-- A piece of a vector load arrives: its elements are written, or poisoned (R164, R166). After the last one the
register is ready 4 cycles later. -/
def State.lineArrives (s : State) (u j : Nat) (ans : Answer) : State :=
  match s.strand u with
  | none => s
  | some x => match s.vclaimCore x.tile u with
    | none => s
    | some c =>
      let t := x.tile
      let v := s.vunit t c
      match v.job with
      | none => s
      | some job => match (job.pieces v)[j]? with
        | none => s
        | some q =>
          let size := vmSize job.ty
          let v := match ans with
            | .data bs => v.write job.v (q.holds job.dup v)
                (fun i => vmLoad job.ty (pieceElem bs size (i % 64 - q.lane)))
            | .fail k =>
              let bad := (List.range 1024).filter (q.holds job.dup v)
              { v with poison := bad.foldl (fun m i =>
                  SMap.put m (1024 * job.v + i) (if k = 7 then 7 else 3, elementForm (1024 * job.v + i))) v.poison }
          let left := v.loads - 1
          let v := if left = 0 then v.setPending job.v (s.now + 5) else v
          let s := s.onVunit t c (fun _ => { v with loads := left, job := if left = 0 then none else some job })
          if left = 0 then s.schedule (s.now + 4) 0 (.vectorLastRowWritten t c (BitVec.ofNat 3 job.v)) else s

/-- The bytes that a piece of a vector store writes, at their offsets in the block. -/
def pieceBytes (v : VUnit) (job : VJob) (q : Piece) : List (Nat × Byte) :=
  let size := vmSize job.ty
  (List.range q.lanes).flatMap (fun k =>
    let bs := leBytes size (vmStore job.ty (v.elem job.v (64 * q.row + q.lane + k)))
    (List.range size).zip bs |>.map (fun e => (q.off + k * size + e.1, e.2)))

/-- A local piece of a store would write only part of a poisoned granule (R166). -/
def State.pieceFails (s : State) (t : Nat) (v : VUnit) (job : VJob) (q : Piece) (tgt : Target) : Bool :=
  match s.locate t tgt with
  | none => false
  | some (o, k) => s.real o == t && s.partly k (pieceBytes v job q)

/-- The first piece of a store that fails (R166). -/
def State.failingPiece (s : State) (t : Nat) (v : VUnit) (job : VJob) : Option Nat :=
  ((job.pieces v).zip job.tgts).findIdx? (fun e => s.pieceFails t v job e.1 e.2)

/-- A piece of a store is sent: performed here, or posted, and refused where nothing maps it (R120, R164, R166). -/
def State.sendPiece (s : State) (t u : Nat) (x : Strand) (q : Piece) (tgt : Target) (bytes : List (Nat × Byte)) : State :=
  match s.locate t tgt with
  | none => s.postUnmapped u x tgt q.addr
  | some (o, k) =>
    if s.real o = t then (s.performWrite k bytes).2.2 else s.post u x (.here tgt o k) q.addr (.piece bytes)

/-- A piece of the store that was issued at `pc` fails: the strand traps at the store in this cycle (R166). It stands there
when the failure was seen at issue; else the piece has been poisoned since, and the strand goes back to the store, from
an instruction that waits as well, and from a later trap that waits for the supervisor (R166; DESIGN CHOICE, log entry 12). -/
def State.storeTrap (s : State) (u : Nat) (pc : BitVec 48) (a : Word) : State :=
  match s.strand u with
  | none => s
  | some x =>
    let s := s.onStrand u (fun x => { x with ctx := { x.ctx with pc := pc } })
    if (x.run == .ready || x.run == .stalled) && (x.prog.phase == 0 || x.prog.phase == 8) then s.takeTrap u 7 a false
    else if x.run == .waiting .supervisor then (s.onStrand u (fun y => { y with engTrap := some (7, a) })).makeReady u
    else (s.onStrand u (fun y => { y with engTrap := some (7, a) })).interrupt u

/-- The store of a unit is over: a strand that stood at it goes on (R164). -/
def State.storeEnds (s : State) (t c u : Nat) (x : Strand) : State :=
  let s := s.onVunit t c (fun v => { v with job := none })
  if x.prog.phase = 8 then s.retire u else s

/-- The unit sends the next piece of its store in this cycle. A remote piece waits for `ocap`; a piece that fails is not
sent, nor any after it, and the strand traps at the store (R164, R166; log entry 12). Nothing more is sent for a cancelled
strand (R171). -/
def State.storeNext (s : State) (t c u : Nat) : State :=
  match s.strand u with
  | none => s
  | some x =>
    let v := s.vunit t c
    if v.holder ≠ some u then s
    else match v.job with
    | none => s
    | some job =>
      if x.marked.isSome then s.onVunit t c (fun v => { v with job := none, busy := s.now, memBusy := s.now })
      else match (job.pieces v)[job.next]?, job.tgts[job.next]? with
      | some q, some tgt =>
        if s.pieceFails t v job q tgt then
          (s.onVunit t c (fun v => { v with job := none, busy := s.now, memBusy := s.now })).storeTrap u job.pc q.addr
        else
          let far := (match s.locate t tgt with | some (o, _) => s.real o != t | none => true)
          if far && !(s.mayPost x) then
            (s.onVunit t c (fun v => { v with busy := v.busy + 1, memBusy := v.memBusy + 1 })).schedule (s.now + 1) 1
              (.vpiece t c u)
          else
            let s := s.sendPiece t u x q tgt (pieceBytes v job q)
            if job.next + 1 < (job.pieces v).length then
              (s.onVunit t c (fun v => { v with job := some { job with next := job.next + 1 } })).schedule (s.now + 1) 1
                (.vpiece t c u)
            else s.storeEnds t c u x
      | _, _ => s.storeEnds t c u x

/-- `vst` (R163, R164). The strand goes on while the unit sends the pieces, unless one of them is seen to fail, which it
waits for (R166). -/
def execVst (v : BitVec 3) (a b : BitVec 5) (t : BitVec 4) (s : State) : Host.Outcome State Fault Refusal :=
  vectorOp [a, b] [] VUnit.anyPending (fun u x k c w s =>
    if x.prog.phase = 8 then stallAct s
    else match w.poisonIn (w.usesOwn v.toNat) with
      | some (e, y) => trapAct s e y
      | none => vmAligned t.toNat (x.reg a) (x.reg b) s (fun s => do
        let job : VJob := ⟨v.toNat, t.toNat, x.reg a, x.reg b, false, [], 0, x.ctx.pc⟩
        let r ← pieceTargets u x permW (job.pieces w) s
        let job := { job with tgts := r.1 }
        let n := (job.pieces w).length
        match r.2.failingPiece k w job with
        | some 0 => trapAct r.2 7 ((job.pieces w)[0]?.elim 0 (·.addr))
        | f =>
          let busy := r.2.now + n
          let s := (r.2.onVunit k c (fun w => { w with busy := busy, memBusy := busy, job := some job })).storeNext k c u
          .ok (if f.isSome then s.onStrand u (fun x => { x with run := .stalled, prog := { Prog.none with phase := 8 } })
            else s.retire u))) s

end Sys2Proof.Machine
end

