-- ==== Sys2Proof/Machine/Messages.lean ====
section
/-! DEFINITION. The supervisor message ring (R262), and answers that come back to those who asked (R72, R115). -/

namespace Sys2Proof.Machine
open Sys2Proof

/-! ## Accesses of units that are no strand (R60) -/

/-- A unit of the supervisor passes the partition check (R273). -/
def JobFor.sup : JobFor → Bool
  | .ring _ _ => true
  | _ => false

/-- A unit's access is over: it goes on in this cycle. -/
def State.jobNext (s : State) (id : Nat) (f : Job → Job) : State := (s.onJob id f).schedule s.now 1 (.job id)

/-- The pair of a peer's access: the module and its tile (R250). -/
def JobFor.pairOf : JobFor → Option (Nat × Nat)
  | .peer m src _ _ _ _ => some (m, src)
  | _ => none

/-- The cycle in which a peer's access reaches its owner, once it has left. -/
def JobFor.sentAt : JobFor → Option Nat
  | .peer _ _ _ _ _ sent => sent
  | _ => none

/-- The accesses of a job's pair before it. -/
def State.ahead (s : State) (id : Nat) (j : Job) : List Job :=
  if j.who.pairOf.isNone then []
  else (s.jobs.filter (fun e => decide (e.1 < id) && e.2.who.pairOf == j.who.pairOf)).map (·.2)

/-- An access of the pair before it has not left: a pair's accesses leave in its order (R249, R250). -/
def State.behind (s : State) (id : Nat) (j : Job) : Bool :=
  (s.ahead id j).any (fun x => x.who.sentAt.isNone && !x.todo.isEmpty)

/-- The next access of a peer's pair goes on. -/
def State.nextOfPair (s : State) (m src : Nat) : State :=
  match List.find? (fun e => e.2.who.pairOf == some (m, src) && e.2.who.sentAt.isNone && !e.2.todo.isEmpty) s.jobs with
  | some e => s.schedule s.now 1 (.job e.1)
  | none => s

/-- The cycle in which an access over a port reaches its owner: one of a peer module after those of its pair before it, so
that they are performed in the pair's order (R250). -/
def State.portDue (s : State) (id : Nat) (j : Job) : Nat :=
  ((s.ahead id j).filterMap (fun x => x.who.sentAt.map (· + 1))).foldl max (s.now + j.lag)

/-- The endpoint of the port that a unit's accesses come in over: a Gorrex link, an Ethernet port or the host link (R246). -/
def State.portOf (s : State) : JobFor → Nat
  | .peer m _ _ _ _ _ => 0xF00 + (SMap.getD s.linkSets m []).headD 0 % 32
  | .frame i _ => 0xF20 + ((((SMap.find? s.svc i).bind (·.live)).map (fun (w : SvcWords) => w.w0)).getD 0).toNat / 2 ^ 54 % 4
  | _ => 0xF24

/-- The access of a job over a port has left, and the next of its pair goes on. -/
def State.portSent (s : State) (id : Nat) (j : Job) (due : Nat) : State :=
  match j.who with
  | .peer m src t tag posted _ =>
    (s.onJob id (fun j => { j with who := .peer m src t tag posted (some due) })).nextOfPair m src
  | _ => s

/-- The unit's first access has this answer. -/
def Job.had (j : Job) (a : Answer) : Job := { j with todo := j.todo.drop 1, tgt := none, got := j.got ++ [a] }

/-- A unit's access to a target, or what the unit keeps of a translation alone. An access that comes over a port of the
module enters at its owner (log entry 68). -/
def State.jobAccess (s : State) (id : Nat) (j : Job) (st : JobStep) (tgt : Target) : State :=
  match st.op with
  | none => s.jobNext id (fun j => { j with todo := j.todo.drop 1, tgt := none, tgts := j.tgts ++ [tgt] })
  | some op => match s.locate j.tile tgt with
    | none => s.jobNext id (fun j => j.had (.fail 4))
    | some (o, k) =>
      if j.fromTile then s.request j.tile tgt o k st.addr op (.job id) 0 j.who.sup
      else
        let due := s.portDue id j
        let p := Packet.req ⟨j.tile, o, tgt, st.addr, op, .job id, 0, j.who.sup, false⟩
        s.checkFlit o (s.flitHeader (s.portOf j.who) o 0 0 0 p) ((s.deliverAt due p).portSent id j due)

/-- A unit's next access: its address is checked and translated as an access of its tile, or of its function, is (R49,
R51, R54). -/
def State.jobStep (s : State) (id : Nat) (j : Job) (st : JobStep) : State :=
  let failed (c : Nat) : State := s.jobNext id (fun j => j.had (.fail c))
  match st.tgt.orElse (fun _ => j.tgt) with
  | some tgt => s.jobAccess id j st tgt
  | none => match s.region j.tile j.who.sup st.addr, j.fn with
    | some (.ls d o), none => s.jobAccess id j st (.ls d o)
    | some (.md _), some fn =>
      if (s.walkBase j.tile (some fn)).getLsbD 0 then s.startWalkIn j.tile (some fn) st.addr st.perm (.job id) else failed 4
    | some (.md va), none => match s.tlb j.tile va st.perm with
      | .fault c => failed c
      | .miss => s.startWalkIn j.tile none st.addr st.perm (.job id)
      | .ok tgt s => s.jobAccess id j st tgt
    | _, _ => failed 3

/-- Every answer of a unit's accesses is data. -/
def allDone (got : List Answer) : Bool := got.all (fun a => match a with | .data _ => true | .fail _ => false)

/-- The bytes of answers, in order. -/
def bytesGot (got : List Answer) : List Byte := got.flatMap (fun a => match a with | .data bs => bs | .fail _ => [])

/-! ## The message engine (R262) -/

/-- The ring's control block: its address, below which bit 0 of `msgring` is the enable (R262, R281). -/
def State.ringBase (s : State) (d : Nat) : Word := (s.regs (Config.tile0 d)).msgring &&& ~~~63#64

/-- The engine's accesses, as requests of tile 0. -/
def State.ringJob (s : State) (d phase : Nat) (l : List JobStep) : State :=
  s.startJob s.now ⟨.ring d phase, Config.tile0 d, none, true, 0, l, none, [], []⟩

/-- The engine takes the oldest message of the die, once `en` is set: it reads the ring's counts (R262, R281). -/
def State.ringTry (s : State) (d : Nat) : State :=
  let x := s.die d
  if x.ringing || x.mq.isEmpty || !((s.regs (Config.tile0 d)).msgring.getLsbD 0) then s
  else (s.onDie d (fun x => { x with ringing := true })).ringJob d 0 [⟨s.ringBase d, none, permRW, some (.load 16)⟩]

/-- The message stays in the engine, which looks again in the next cycle. -/
def State.ringAgain (s : State) (d : Nat) : State :=
  (s.onDie d (fun x => { x with ringing := false })).schedule (s.now + 1) 1 (.messageRingWrite d none false)

/-- The bytes of a ring entry (R262, R263). -/
def entryBytes (m : Msg) : List Byte := [m.m0, m.m1, m.m2, m.m3].flatMap (bytesOf 8)

/-- The engine's accesses are over: with the counts and room in the ring it writes the entry and then mprod, one after the
other; then comes the next message (R262). -/
def State.ringDone (s : State) (d phase : Nat) (got : List Answer) : State :=
  match phase, got, (s.die d).mq with
  | 0, [.data bs], m :: _ =>
    let prod : BitVec 32 := BitVec.ofNat 32 (leValue (bs.take 4))
    let cons : BitVec 32 := BitVec.ofNat 32 (leValue ((bs.drop 8).take 4))
    if 256 ≤ (prod - cons).toNat then s.ringAgain d
    else
      s.ringJob d 1
        [⟨s.ringBase d + BitVec.ofNat 64 (64 + 32 * (prod.toNat % 256)), none, permW, some (.write (entryBytes m))⟩,
         ⟨s.ringBase d, none, permW, some (.write (bytesOf 4 (toWord (prod + 1))))⟩]
  | 1, _, _ :: rest =>
    if allDone got then (s.onDie d (fun x => { x with ringing := false, mq := rest })).ringTry d else s.ringAgain d
  | _, _, _ => s.ringAgain d

/-- `messageRingWrite`: a message arrives at the engine, or the engine looks again (R262). One whose payload is
uncorrectable is discarded and counted (R254). -/
def execMessageRingWrite (s : State) : Host.Outcome State Fault Refusal :=
  onEvent (fun e => match e with
    | .messageRingWrite d (some m) bad =>
      some (if bad then s.onDie d (fun x => { x with errors := x.errors + 1 })
        else (s.onDie d (fun x => { x with mq := x.mq ++ [m] })).ringTry d)
    | .messageRingWrite d none _ => some (s.ringTry d)
    | _ => none) s

/-! ## Answers -/

/-- The answer to an operation that another tile performed for a strand's instruction. -/
def Strand.opAnswered (x : Strand) (v : Word) : Strand :=
  if x.run = .held ∧ x.prog.phase = 1 then
    { x with run := .ready, prog := { Prog.none with phase := 2, val := v } }
  else x

/-- An answer reaches the one who asked: a register, a record, a vector load, a join record, a round, an
operation, or a unit that is no strand (R72, R115, R116). -/
def State.answered (s : State) (r : Resp) : State :=
  match r.agent with
  | .reg u id reg sg => s.onStrand u (fun x => x.answered id reg sg r.va r.ans)
  | .word u idx => s.onStrand u (fun x => x.wordAnswered idx r.va r.ans)
  | .line u j => s.lineArrives u j r.ans
  | .join u idx => s.joinWord u idx r.ans
  | .round id => s.roundAcked id
  | .op u => s.onStrand u (fun x => x.opAnswered r.va)
  | .job id => s.jobNext id (fun j => j.had r.ans)
  | .walker w => s.walkEntry w r.ans
  | .icache t l => s.icacheFilled t l r.ans
  | .table _ _ _ => s
  | .burst _ _ => s

/-- `responseArrival` (R72, R115). -/
def execResponseArrival (s : State) : Host.Outcome State Fault Refusal :=
  onEvent (fun e => match e with | .responseArrival r => some (s.answered r) | _ => none) s

end Sys2Proof.Machine
end

