-- ==== Sys2Proof/Machine/Cancel.lean ====
section
/-! DEFINITION. Cancellation of a lineage family (R133, R134): the five phases, what a tile marks and stops, and what it
frees. -/

namespace Sys2Proof.Machine
open Sys2Proof

/-! ## Issue (R133) -/

/-- The cancellations that run from a tile. -/
def State.cancelsFrom (s : State) (t : Nat) : Nat :=
  (s.protos.filter (fun e => e.2.kind == 0 && e.2.lead == t)).length

/-- Start a cancellation: the strand waits, and every tile of its partition gets a cancel flit (R133, R134). -/
def State.startCancel (s : State) (u : Nat) (x : Strand) (a m : BitVec 16) : State :=
  let p := s.partOfTile x.tile
  let tiles := s.tilesOf p
  let i := s.addProto { Proto.start 0 p x.tile u tiles.length with a := a, m := m, users := !x.ctx.sup }
  let s := i.2.onStrand u (fun x => { x with prog := { Prog.none with val := BitVec.ofNat 64 i.1 } })
  (s.waitFor u .cancel).announce x.tile tiles (fun t => .cancel ⟨i.1, t⟩)

/-- `cancel` (R133). Over no partition it is complete at once. It does not start while its partition is being saved or
restored (R264). -/
def execCancel (a b : BitVec 5) (s : State) : Host.Outcome State Fault Refusal :=
  issue [a, b] [] (fun u x s =>
    let l : BitVec 16 := (x.reg a).setWidth 16
    let m : BitVec 16 := (x.reg b).setWidth 16
    if (x.ctx.lin ^^^ l) &&& m = 0 then trapAct s 0x0D (toWord l)
    else match x.anyPoison with
      | some (c, v) => trapAct s c v
      | none =>
        if s.tilesOf (s.partOfTile x.tile) = [] then .ok (s.retire u)
        else if 4 ≤ s.cancelsFrom x.tile ∨ (s.part (s.partOfTile x.tile)).mode ≠ .running then waitAct s
        else .ok (s.startCancel u x l m)) s

/-! ## Stop (R134) -/

def Proto.filter (p : Proto) (id : Nat) : Filter := ⟨id, p.part, p.a, p.m, p.users⟩
def Filter.takes (f : Filter) (x : Strand) : Bool := f.hits x.ctx.lin x.ctx.sup

/-- A context on the tile is marked, if it is of the family. -/
def Strand.markIf (x : Strand) (t : Nat) (f : Filter) : Strand :=
  if x.tile = t ∧ f.takes x = true ∧ x.marked = none then { x with marked := some f.id } else x

/-- Mark the family's contexts on a tile, take them out of its watch table and hold list, and install the filter. -/
def State.markFamily (s : State) (t : Nat) (f : Filter) : State :=
  let mine (u : Nat) : Bool := match s.strand u with | some x => f.takes x | none => true
  let s := s.onTile t (fun x => { x with filters := x.filters ++ [f] })
  State.forget { s with strands := s.strands.map (fun e => (e.1, e.2.markIf t f)) } t mine

/-- The family's fetch commands of a tile land nothing more and end with status 1 (R134, R186). -/
def State.killFetch (s : State) (t : Nat) (f : Filter) : State :=
  (List.range 8).foldl (fun s ch =>
    ((s.chan t ch).cmds.filter (fun c => f.hits c.lin c.sup && !c.killed)).foldl (fun s c =>
      (s.onCmd t ch c.id (fun c => { c with killed := true })).abortCmd t ch { c with killed := true }) s) s

/-- The family's exchange channels of a tile close without waiting for landing; a slot in progress is abandoned (R134,
R239). -/
def State.killXch (s : State) (t : Nat) (f : Filter) : State :=
  (List.range 4).foldl (fun s ch =>
    let x := s.xchan t ch
    if !(f.hits x.lin x.sup) ∨ (x.st = 3 ∧ x.flits = 1) then s
    else if x.st = 4 then
      s.onXchan t ch (fun x => { x with closers := if x.closers.contains x.opener then x.closers else x.closers ++ [x.opener] })
    else if x.sender ∧ (x.st = 1 ∨ x.st = 3) then
      let s := s.onXch t (fun e => match e.sending with
        | some (c, _) => if c = ch then { e with sending := none } else e
        | none => e)
      ((s.onXchan t ch (fun x => { x with st := 3, flits := 1 })).send t x.peer (.unbind x.peer x.pch)).schedule
        (s.now + 1) 1 (.xchSlotStart t)
    else s) s

/-- A holder is of the family. -/
def State.familyHolds (s : State) (f : Filter) (h : Option Nat) : Bool :=
  match h.bind s.strand with
  | some x => f.takes x
  | none => false

/-- An engine of the tile has not yet stopped its work for the family at its unit (R134, R265). A fetch command of the family
lands nothing more from now on, and what it has out is never answered once a filter discards it. -/
def State.familyBusy (s : State) (t : Nat) (f : Filter) : Bool :=
  ((s.matrix t).phase == 2 && s.familyHolds f (s.matrix t).holder)
    || (List.range 4).any (fun c =>
      let v := s.vunit t c
      s.familyHolds f v.holder && (decide (s.now < v.busy) || decide (s.now < v.memBusy)))

/-- A matrix claim goes: queued and running commands are discarded with their sides. -/
def State.dropMatrix (s : State) (t : Nat) : State :=
  (match (s.matrix t).queue with
    | [] => s
    | c :: _ => s.dropSides t .matrix c.sides).releaseMatrix t

/-- The family's claims on a tile are released. -/
def State.dropClaims (s : State) (t : Nat) (f : Filter) : State :=
  let s := if s.familyHolds f (s.matrix t).holder then s.dropMatrix t else s
  (List.range 4).foldl (fun s c => if s.familyHolds f (s.vunit t c).holder then s.releaseUnit t c else s) s

/-- Send an acknowledgement to the issuing tile at a cycle. -/
def State.tellLead (s : State) (t lead due : Nat) (p : Packet) : State :=
  if t = lead then s.schedule due 0 (packetEvent p).2 else s.schedule due 1 (.inject t lead p)

/-- The tile acknowledges once its engines have stopped; until then it looks again in each cycle. -/
def State.cancelStop (s : State) (t id : Nat) (p : Proto) : State :=
  let f := p.filter id
  if s.familyBusy t f then s.schedule (s.now + 1) 1 (.cancelFlitArrival ⟨id, t + 4096⟩)
  else (s.dropClaims t f).tellLead t p.lead (s.now + 4) (.cancelAck id)

/-- A cancel flit arrives, or the tile looks again at its engines (R134). -/
def State.cancelArrives (s : State) (r : Round) : State :=
  match s.proto r.id with
  | none => s
  | some p =>
    if 4096 ≤ r.tile then s.cancelStop (r.tile - 4096) r.id p
    else
      let f := p.filter r.id
      (((s.markFamily r.tile f).killFetch r.tile f).killXch r.tile f).cancelStop r.tile r.id p

/-- `cancelFlitArrival` (R134). -/
def execCancelFlitArrival (s : State) : Host.Outcome State Fault Refusal :=
  onEvent (fun e => match e with | .cancelFlitArrival r => some (s.cancelArrives r) | _ => none) s

/-! ## Sweep and drain (R134) -/

/-- `cancelStopAck`: after the last, the issuing tile sends the sweep (R134). -/
def execCancelStopAck (s : State) : Host.Outcome State Fault Refusal :=
  onEvent (fun e => match e with
    | .cancelStopAck id => some (match s.proto id with
      | none => s
      | some p =>
        let n := p.acks + 1
        if n < p.n then s.onProto id (fun p => { p with acks := n })
        else (s.onProto id (fun p => { p with acks := 0, phase := 2 })).announce p.lead (s.tilesOf p.part)
          (fun t => .sweep ⟨id, t⟩))
    | _ => none) s

/-- A marked context of the family on a tile. -/
def State.doomed (s : State) (t : Nat) (f : Filter) : List (Nat × Strand) :=
  List.filter (fun e => e.2.tile == t && e.2.marked.isSome && f.takes e.2) s.strands

/-- A peer operation of a strand is not yet acknowledged or answered (R134). -/
def State.peerOut? (s : State) (u : Nat) (x : Strand) : Bool :=
  x.posted.any (fun p => p.cls == 2) || s.peerTags.any (fun e => match e.2.1 with
    | .reg v _ _ _ => v == u
    | .word v _ => v == u
    | .line v _ => v == u
    | .op v => v == u
    | _ => false)

/-- Nothing of a context remains: its source keeps its birth no longer, its slot frees, and its command and its locks let
it go (R134). -/
def State.killStrand (s : State) (u : Nat) (x : Strand) : State :=
  let s := match x.birth with
    | .stepped _ => s
    | b => s.settleBirth u b
  let s := (s.remove u).handlerEnds x
  { s with locks := s.locks.filter (fun l => l.2 != u) }

/-- The tags that the family's fetch commands on a tile hold: of reads, and of writes. -/
def State.killedTags (s : State) (t : Nat) (f : Filter) (m : SMap Tag) : List (Nat × Tag) :=
  List.filter (fun e => match (s.chan t e.2.ch).cmds.find? (fun c => c.id == e.2.id) with
    | some c => c.killed && f.hits c.lin c.sup
    | none => false) m

/-- A burst that a command of the family has read is on its way back to the tile. -/
def State.killedBack (s : State) (t : Nat) (f : Filter) : Bool :=
  let l := (s.killedTags t f (s.fetch t).reads).map (·.1)
  s.agenda.any (fun e => match e.ev with
    | .burstLandBuffer b => b.tile == t && l.contains b.tag
    | .burstLandMulticast b => b.tile == t && l.contains b.tag
    | .burstLandCb b => b.tile == t && l.contains b.tag
    | .burstLandHandler b => b.tile == t && l.contains b.tag
    | .fetchTableEntryArrival u _ g _ => u == t && l.contains g
    | _ => false)

/-- What the family's fetch commands have out is discarded, never to be answered: their tags and landing slots are free, and
they end with status 1 (R134, R186). -/
def State.endKilled (s : State) (t : Nat) (f : Filter) : State :=
  let rs := s.killedTags t f (s.fetch t).reads
  let ws := s.killedTags t f (s.fetch t).writes
  let s := rs.foldl (fun s e => match s.cmd t e.2.ch e.2.id with
    | some c => if e.2.table then s else s.giveLanding t c
    | none => s) s
  let s := s.onFetch t (fun e =>
    { e with reads := e.reads.filter (fun x => !(rs.any (fun y => y.1 == x.1))),
             writes := e.writes.filter (fun x => !(ws.any (fun y => y.1 == x.1))) })
  (List.range 8).foldl (fun s ch =>
    State.schedule (s.onChan t ch (fun c => { c with cmds := c.cmds.map (fun k =>
      if k.killed && f.hits k.lin k.sup then
        { k with reads := 0, writes := 0, walks := 0, asked := none, arriving := false, again := [] }
      else k) })) s.now 1 (.fetchCompletionPoint t ch)) s

/-- The tile frees the family's contexts, sixteen in a cycle, removes its filter, and acknowledges (R134, R135). -/
def State.drain (s : State) (t id : Nat) (p : Proto) : State :=
  let f := p.filter id
  let l := s.doomed t f
  if l.any (fun e => s.peerOut? e.1 e.2) ∨ s.killedBack t f = true then s.schedule (s.now + 1) 1 (.markerFlitArrival ⟨id, t + 4096⟩)
  else
    let s := (l.foldl (fun s e => s.killStrand e.1 e.2) s).endKilled t f
    let s := s.onTile t (fun x => { x with filters := x.filters.filter (fun g => g.id != id) })
    s.tellLead t p.lead (s.now + (l.length + 15) / 16) (.cancelFinal id)

/-- One of the N − 1 markers, or the tile's own sweep, is in: after all, the tile drains. -/
def State.markerIn (s : State) (t id : Nat) (p : Proto) : State :=
  let n := SMap.getD p.counts t 0 + 1
  let s := s.onProto id (fun p => { p with counts := SMap.put p.counts t n })
  if n < p.n then s else s.drain t id p

/-- `sweepFlitArrival`: a marker flit to every other tile (R134). -/
def execSweepFlitArrival (s : State) : Host.Outcome State Fault Refusal :=
  onEvent (fun e => match e with
    | .sweepFlitArrival r => some (match s.proto r.id with
      | none => s
      | some p =>
        let others := (s.tilesOf p.part).filter (· != r.tile)
        (s.announce r.tile others (fun t => .marker ⟨r.id, t⟩)).markerIn r.tile r.id p)
    | _ => none) s

/-- `markerFlitArrival` (R134). -/
def execMarkerFlitArrival (s : State) : Host.Outcome State Fault Refusal :=
  onEvent (fun e => match e with
    | .markerFlitArrival r => some (match s.proto r.id with
      | none => s
      | some p => if 4096 ≤ r.tile then s.drain (r.tile - 4096) r.id p else s.markerIn r.tile r.id p)
    | _ => none) s

/-! ## Complete (R134) -/

/-- The cancellation is over: its strand, if it still waits for it, continues at pc + 4. -/
def State.cancelDone (s : State) (id : Nat) (p : Proto) : State :=
  let s := { s with protos := SMap.erase s.protos id }
  match s.strand p.uid with
  | none => s
  | some x =>
    if x.run = .waiting .cancel ∧ x.prog.val = BitVec.ofNat 64 id ∧ x.marked = none then s.retireWaiting p.uid else s

/-- `cancelFinalAck` (R134). -/
def execCancelFinalAck (s : State) : Host.Outcome State Fault Refusal :=
  onEvent (fun e => match e with
    | .cancelFinalAck id => some (match s.proto id with
      | none => s
      | some p =>
        let n := p.acks + 1
        if n < p.n then s.onProto id (fun p => { p with acks := n }) else s.cancelDone id p)
    | _ => none) s

end Sys2Proof.Machine
end

