-- ==== Sys2Proof/Machine/Records.lean ====
section
/-! DEFINITION. The records of a save area as bytes: what each engine writes there, and what a restore reads back (R157,
R186, R214, R239, R265, R266). Where the manual names a field without its offset, the model lays it out (log entry 13); a
byte whose contents it does not name is a free value. -/

namespace Sys2Proof.Machine
open Sys2Proof

/-! ## Bytes -/

/-- Bytes of a record, none where the manual does not say what they hold. -/
abbrev Rec := List (Option Byte)

def Rec.known (bs : List Byte) : Rec := bs.map some
def Rec.blank (n : Nat) : Rec := List.replicate n none
def Rec.word (w : Word) : Rec := Rec.known (bytesOf 8 w)
/-- A record of `n` bytes. -/
def Rec.sized (n : Nat) (r : Rec) : Rec := r.take n ++ Rec.blank (n - r.length)

/-- The 32-bit value at an offset of bytes read back. -/
def halfAt (bs : List Byte) (o : Nat) : Half := BitVec.ofNat 32 (leValue ((bs.drop o).take 4))
/-- The doubleword at an offset of bytes read back. -/
def longAt (bs : List Byte) (o : Nat) : Word := wordOf ((bs.drop o).take 8)
/-- The doublewords of bytes read back. -/
def longs : Nat → List Byte → List Word
  | 0, _ => []
  | n + 1, bs => wordOf (bs.take 8) :: longs n (bs.drop 8)
/-- The 32-bit values of bytes read back. -/
def halves : Nat → List Byte → List Half
  | 0, _ => []
  | n + 1, bs => BitVec.ofNat 32 (leValue (bs.take 4)) :: halves n (bs.drop 4)

/-- `n` bytes from a byte's number on, by the cells that are listed there. -/
def spanBytes : Nat → Nat → SMap Byte → List Byte
  | 0, _, _ => []
  | n + 1, k, [] => emptyByte :: spanBytes n (k + 1) []
  | n + 1, k, c :: cs =>
    if c.1 = k then c.2 :: spanBytes n (k + 1) cs else emptyByte :: spanBytes n (k + 1) (c :: cs)

def State.spanAt (s : State) (k n : Nat) : List Byte := spanBytes n k (SMap.inRange s.mem k (k + n))

/-- An uncorrectable sector among `n` bytes (R62). -/
def State.spanBad (s : State) (k n : Nat) : Bool := s.poison.any (fun e => decide (k < e.1 + 64) && decide (e.1 < k + n))

/-- Bytes of a record as they are read back: those of an uncorrectable sector are free values (R62). -/
def State.spanRead (s : State) (k n : Nat) : List Byte × State :=
  let bs := s.spanAt k n
  if !(s.spanBad k n) then (bs, s)
  else (((List.range n).zip bs).map (fun e =>
    if s.poisoned (k + e.1) then BitVec.ofNat 8 (Config.free .record (s.ctr + e.1)) else e.2), { s with ctr := s.ctr + n })

/-- The sectors of a range pass through the tile's cache (R60). -/
def State.touchSpan (s : State) (k n : Nat) (write : Bool) : State :=
  (List.range (n / 64)).foldl (fun s i => (s.touch (k + 64 * i) write).2) s

/-- Write a record: whole sectors, through the tile's cache, waking the watchers of words that change (R60, R62, R122). -/
def State.writeSpan (s : State) (k : Nat) (r : Rec) : State :=
  let n := r.length
  let old := s
  let s := s.touchSpan k n true
  let cells := ((List.range n).zip r).filterMap (fun e =>
    let b := e.2.getD (BitVec.ofNat 8 (Config.free .record (s.ctr + e.1)))
    if b = emptyByte then none else some (k + e.1, b))
  let s := { s with ctr := s.ctr + n,
                    mem := s.mem.filter (fun c => decide (c.1 < k)) ++ cells ++ s.mem.filter (fun c => decide (k + n ≤ c.1)),
                    poison := s.poison.filter (fun c => decide (c.1 < k) || decide (k + n ≤ c.1)) }
  State.wakeChanged old s (s.real (cellTile k))

/-! ## Strands (R66, R265, R266) -/

/-- Contexts that a user core's record has room for, under two depths (R265). -/
def roomOf (kd kl : Nat) : Nat := 16 + kd + kl
/-- The bytes of a user core's strand record with room for `n` contexts (R265). -/
def coreBytes (n : Nat) : Nat := 64 + 320 * n
/-- Contexts that a user core's record has room for (R265). -/
def State.contexts (s : State) (t : Nat) : Nat := roomOf (s.regs t).kdepth (s.regs t).klend

/-- The kind of a wait, the handle or channel it names, and its transfer id or owner, as the entry state holds them. -/
def Wait.code : Wait → Nat × Nat × Nat
  | .supervisor => (1, 0, 0)
  | .vclaim => (2, 0, 0)
  | .mclaim => (3, 0, 0)
  | .mwait => (4, 0, 0)
  | .mrel => (5, 0, 0)
  | .cbwait h => (6, h, 0)
  | .cbspace h => (7, h, 0)
  | .fwait ch id => (8, ch, id.toNat)
  | .xclose ch => (9, ch, 0)
  | .cancel => (10, 0, 0)
  | .park o w => (11, if w then 1 else 0, o)

/-- The wait of a code. -/
def waitOf (code a b : Nat) : Option Wait :=
  match code with
  | 1 => some .supervisor
  | 2 => some .vclaim
  | 3 => some .mclaim
  | 4 => some .mwait
  | 5 => some .mrel
  | 6 => some (.cbwait a)
  | 7 => some (.cbspace a)
  | 8 => some (.fwait a (BitVec.ofNat 32 b))
  | 9 => some (.xclose a)
  | 10 => some .cancel
  | 11 => some (.park b (a == 1))
  | _ => none

/-- Where a strand stands in the order of its wait, in what its tile has saved (R155, R222). -/
def Saved.order (v : Saved) (c u : Nat) : Wait → Nat
  | .vclaim => (((SMap.getD v.vunits c VUnit.reset).waiters).takeWhile (· != u)).length
  | .mclaim => (v.matrix.waiters.takeWhile (· != u)).length
  | _ => 0

/-- The 64 bytes of entry state of a context of core `c` (R266): ready or not and the kind of wait, what it waits for, its place
in that wait's order, and the effective class; then a transfer id; then the cycle of admission. Code 12 is a context that waits
to return home (R142). -/
def entryRec (v : Saved) (c u : Nat) (x : Strand) : Rec :=
  let w : Nat × Nat × Nat × Nat := match x.run with
    | .waiting w => (w.code.1, w.code.2.1, w.code.2.2, v.order c u w)
    | .held => (12, 0, 0, 0)
    | _ => (0, 0, 0, 0)
  Rec.sized 64 (Rec.word (BitVec.ofNat 64 ((if w.1 = 0 then 1 else 0) + w.1 * 2 ^ 8 + w.2.1 * 2 ^ 16 + w.2.2.2 % 2 ^ 16 * 2 ^ 32
      + x.ecls * 2 ^ 56)) ++ Rec.word (BitVec.ofNat 64 w.2.2.1) ++ Rec.word (BitVec.ofNat 64 x.since))

/-- The header of a core's record: how many contexts of the kennel and how many lent ones follow, and the depths under which the
record is laid out (DESIGN CHOICE, log entry 13). -/
def coreHeader (front lent kd kl : Nat) : Rec :=
  Rec.sized 64 (Rec.word (BitVec.ofNat 64 (front + lent * 2 ^ 16 + kd * 2 ^ 32 + kl * 2 ^ 48)))

/-- The record of user core `c`: its header, then for each context its 256 bytes (R66) and its entry state. -/
def State.strandRec (s : State) (t c : Nat) (v : Saved) : Rec :=
  let r := s.regs t
  let front := SMap.getD v.kennel c []
  let lent := SMap.getD v.lent c []
  Rec.sized (coreBytes (s.contexts t)) (coreHeader front.length lent.length r.kdepth r.klend
    ++ (front ++ lent).flatMap (fun u => match s.strand u with
      | some x => Rec.known x.ctx.bytes ++ entryRec v c u x
      | none => Rec.blank 320))

/-- A context read back from its record; sid, sup, cur and prev with it (R66, R267). -/
def Ctx.ofRecord (c : Ctx) (ws : List Word) : Ctx :=
  let w (i : Nat) : Word := ws.getD i 0
  { c.ofWords ws with sid := (w 25).setWidth 32, sup := (w 26).getLsbD 58, cur := (w 29).setWidth 12,
                      prev := (w 29).extractLsb' 12 12 }

/-- Whether an entry state has its strand ready, and what it waits for. One that waits to return home does so if its packet is
known. -/
def Strand.runOf (x : Strand) (e : List Word) : Run :=
  let w := e.getD 0 0
  if bits w 8 8 = 12 ∧ x.packet.isSome = true then .held
  else match waitOf (bits w 8 8) (bits w 16 16) (e.getD 1 0).toNat with
    | some w => .waiting w
    | none => .ready

/-- A strand read back from its context and its entry state. What neither holds stays as it was known, unless the strand does
something else now. -/
def Strand.ofRecord (x : Strand) (ws e : List Word) : Strand :=
  let r := x.runOf e
  let y := { x with ctx := x.ctx.ofRecord ws, ecls := bits (e.getD 0 0) 56 2, since := (e.getD 2 0).toNat }
  if r = x.run then y else { y with run := r, prog := Prog.none, packet := none, asked := false, watch := none }

/-! ## Vector units (R157) -/

/-- A bit map as bytes, bit n in byte n div 8 at n mod 8. -/
def bitBytes (n : Nat) (p : Nat → Bool) : List Byte :=
  (List.range (n / 8)).map (fun i => BitVec.ofNat 8 ((List.range 8).foldl (fun a j => if p (8 * i + j) then a + 2 ^ j else a) 0))

/-- A holder's sid, or all ones where there is none. -/
def State.holderWord (s : State) : Option Nat → Word
  | some u => toWord (s.sidOf u)
  | none => -1

/-- The record of a vector unit (R157). -/
def State.vectorRec (s : State) (v : VUnit) : Rec :=
  let elems := v.v.toList.flatMap (fun r => r.toList.flatMap (fun e => leBytes 4 e.toNat))
  Rec.known elems ++ Rec.word (BitVec.ofNat 64 (v.rows * 256 + v.lanes)) ++ Rec.word (s.holderWord v.holder)
    ++ Rec.known (List.replicate 48 0 ++ bitBytes 8192 (fun n => (SMap.find? v.poison n).isSome))

/-- A vector unit read back: exactly the elements whose bits are set are poisoned (R156, R157). -/
def VUnit.ofRecord (v : VUnit) (bs : List Byte) : VUnit :=
  let es := halves 8192 bs
  let shape := longAt bs 32768
  let bit (n : Nat) : Bool := ((bs.drop (32832 + n / 8)).headD 0).getLsbD (n % 8)
  { v with v := Vector.ofFn (fun i : Fin 8 => (Vector.ofFn (fun j : Fin 1024 => es.getD (1024 * i.val + j.val) 0))),
           rows := clamp 1 16 (bits shape 8 5), lanes := clamp 1 64 (bits shape 0 7),
           poison := ((List.range 8192).filter bit).map (fun n => (n, (SMap.find? v.poison n).getD (7, elementForm n))) }

/-! ## The fetch engine (R186) -/

/-- The handlers of a tile whose bursts lie in its landing area. -/
def State.unborn (s : State) (t key : Nat) : List (Nat × Strand) :=
  List.filter (fun e => match e.2.birth, e.2.place with
    | .handler t' _ _, .saved _ 4 k _ => t' == t && k == key
    | _, _ => false) s.strands

/-- The burst of a handler: g8 to g15 (R181). -/
def burstOf (x : Strand) : List Byte := ((x.ctx.g.toList.drop 8).take 8).flatMap (bytesOf 8)

/-- A channel's 576 bytes: its commands, then the next iteration vector, the bursts delivered, the status and the stopped
flag, its transfer ids and how many commands it holds, in this order from +512 (DESIGN CHOICE, log entry 13). -/
def Chan.record (c : Chan) : Rec :=
  let cmds := c.cmds.flatMap (fun k => k.w.toList.flatMap Rec.word)
  let k := c.cmds.headD default
  Rec.sized 576 (Rec.sized 512 cmds ++ Rec.word (k.vector k.next) ++ Rec.word (BitVec.ofNat 64 k.delivered)
    ++ Rec.word (BitVec.ofNat 64 k.status) ++ Rec.word (if c.stopped.isSome then 1 else 0) ++ Rec.word (c.fdone ++ c.fid)
    ++ Rec.word (BitVec.ofNat 64 c.cmds.length))

/-- The record of a fetch engine: the landing area, three words for each of its slots, and the channels (R186). -/
def State.fetchRec (s : State) (t key : Nat) (f : Fetch) : Rec :=
  let us := s.unborn t key
  Rec.sized 65536 (us.flatMap (fun e => Rec.known (burstOf e.2)))
    ++ us.flatMap (fun e => Rec.word (e.2.ctx.g[1]) ++ Rec.word (e.2.ctx.g[3]) ++ Rec.word (e.2.ctx.g[2] ||| (1#64 <<< 63)))
    ++ (List.replicate (1024 - us.length) (Rec.blank 16 ++ Rec.word 0)).flatten
    ++ f.chans.toList.flatMap Chan.record

/-- The linear index of an iteration vector. -/
def FCmd.indexOf (c : FCmd) (v : Word) : Nat :=
  let n (i : Nat) : Nat := bits (c.w[1]?.getD 0) (16 * i) 16
  bits v 0 16 + n 0 * (bits v 16 16 + n 1 * (bits v 32 16 + n 2 * bits v 48 16))

/-- A command as its channel is known to hold it under a transfer id, with the words of its record. -/
def Chan.command (c : Chan) (id : BitVec 32) (w : Vector Word 8) : FCmd :=
  { (c.cmds.find? (·.id == id)).getD (newCmd w id default) with w := w }

/-- A stopped command stays stopped; what the flag says goes before what is known, and a stop of which nothing more is known has
kind and cause 0 (R186). -/
def FCmd.flagged (k : FCmd) (stopped first : Bool) : FCmd :=
  if !stopped then { k with stop := none }
  else if first && k.stop.isNone then { k with stop := some ⟨0, 0, 0, k.k⟩ }
  else k

/-- A channel read back: its commands by their transfer ids, the oldest as far as it had come (R186). -/
def Chan.ofRecord (c : Chan) (bs : List Byte) : Chan :=
  let word (i j : Nat) : Word := longAt bs (64 * i + 8 * j)
  let fid : BitVec 32 := (word 8 4).setWidth 32
  let n := min 8 (bits (word 8 5) 0 4)
  let stopped := (word 8 3).getLsbD 0
  let cmds := (List.range n).map (fun i =>
    c.command (fid - BitVec.ofNat 32 (n - 1 - i)) (Vector.ofFn (fun j : Fin 8 => word i j.val)))
  let known := cmds.any (·.stop.isSome)
  { c with fid := fid, fdone := (word 8 4).extractLsb' 32 32, cmds := match cmds with
    | [] => []
    | k :: ks =>
      let k := { k with k := if k.redo.isEmpty then k.indexOf (word 8 0) else k.k, delivered := (word 8 1).toNat,
                        status := (word 8 2).toNat }
      k.flagged stopped (!known) :: ks.map (·.flagged stopped false) }

/-- A fetch engine read back from its record; its handlers' bursts are in theirs. -/
def Fetch.ofRecord (f : Fetch) (bs : List Byte) : Fetch :=
  { f with chans := Vector.ofFn (fun i : Fin 8 => f.chans[i].ofRecord ((bs.drop (90112 + 576 * i.val)).take 576)) }

/-- A handler with the burst and the coordinates of a landing slot (R181, R186). -/
def Strand.landedAt (x : Strand) (bs : List Byte) (i : Nat) : Strand :=
  let g := x.ctx.g
  let slot (j : Nat) : Word := longAt bs (65536 + 24 * i + 8 * j)
  { x with ctx := { x.ctx with g := Vector.ofFn (fun r : Fin 24 =>
      if r.val = 1 then slot 0
      else if r.val = 2 then slot 2 &&& 0x7FFFFFFFF
      else if r.val = 3 then slot 1
      else if 8 ≤ r.val ∧ r.val < 16 then longAt bs (64 * i + 8 * (r.val - 8))
      else g[r]) } }

/-- A command has `n` handlers more, or fewer. -/
def Fetch.handlersBy (f : Fetch) (ch : Nat) (id : BitVec 32) (g : Nat → Nat) : Fetch :=
  { f with chans := f.chans.setIfInBounds ch (match f.chans[ch]? with
    | some c => { c with cmds := c.cmds.map (fun k => if k.id == id then { k with handlers := g k.handlers } else k) }
    | none => default) }

/-- Landing slot `i` is read back: the burst of the handler `e` that was known to wait there, or of a new one, whose frame, pc
and class come from its command (R181, R186). -/
def State.readSlot (s : State) (t key : Nat) (bs : List Byte) (f : Fetch) (i : Nat) (e : Option (Nat × Strand)) : Fetch × State :=
  let w := longAt bs (65536 + 24 * i + 16)
  let ch := bits w 32 3
  let id : BitVec 32 := w.setWidth 32
  let out : Fetch × State := match e with
    | some (u, x) => (match x.handler with | some h => f.handlersBy h.2.1 h.2.2 (· - 1) | none => f,
        { s with strands := SMap.erase s.strands u })
    | none => (f, s)
  if !(w.getLsbD 63) then out
  else match e with
    | some (u, x) =>
      if x.handler = some (t, ch, id) then (f, s.onStrand u (fun x => x.landedAt bs i)) else out
    | none => match (f.chans[ch]?.bind (fun c => c.cmds.find? (·.id == id))) with
      | none => (f, s)
      | some c =>
        let n := s.newSid t
        let x : Strand := Strand.fresh (c.heir t n.1 (c.word 5).toNat (handlerRegs c ch 0 0 [])) t (.handler t ch id)
        (f.handlersBy ch id (· + 1), (n.2.addStrand { x.landedAt bs i with
          handler := some (t, ch, id), place := .saved t 4 key false }).2)

/-- The landing area is read back, and the slots in use are counted (R186). -/
def State.readLanding (s : State) (t key : Nat) (bs : List Byte) (f : Fetch) : Fetch × State :=
  let us := s.unborn t key
  let r := (List.range 1024).foldl (fun (a : Fetch × State) i => a.2.readSlot t key bs a.1 i us[i]?) (f, s)
  let uses (e : Nat × Strand) : Bool := match e.2.birth with
    | .handler u _ _ => u == t
    | .stepped u => u == t
    | _ => false
  ({ r.1 with landing := (r.2.strands.filter uses).length }, r.2)

/-! ## The matrix engine and the handles (R214) -/

/-- A format context's 128 bytes, laid out as R223 lays its record out. -/
def MCtx.record (c : MCtx) : Rec :=
  let book (l : List (BitVec 16)) : List Byte := l.flatMap (fun e => leBytes 2 e.toNat)
  Rec.sized 128 (Rec.word (BitVec.ofNat 64 (c.fa + 16 * c.fb)) ++ Rec.known (book c.ca ++ book c.cb))

def MCtx.ofRecord (bs : List Byte) : MCtx :=
  let b := (bs.headD 0).toNat
  let book (o : Nat) : List (BitVec 16) := (List.range 16).map (fun i => BitVec.ofNat 16 (leValue ((bs.drop (o + 2 * i)).take 2)))
  ⟨b % 16, b / 16, book 8, book 40⟩

/-- A queue entry: the command's words, then its context. -/
def MCmd.record (c : MCmd) : Rec :=
  Rec.word c.w0 ++ Rec.word c.rsc ++ Rec.word c.csc ++ Rec.known (List.replicate 40 0) ++ c.ctx.record

/-- The holder of a side as a number: 0 none, 1 a fetch channel, 2 the matrix engine, 3 an exchange channel. -/
def engCode : Option Eng → Nat
  | none => 0
  | some (.fetch ch _) => 1 + 4 * ch
  | some .matrix => 2
  | some (.xch ch) => 3 + 4 * ch

/-- The transfer id of a side's holder, where a fetch channel holds it. -/
def engId : Option Eng → BitVec 32
  | some (.fetch _ id) => id
  | _ => 0

/-- The holder of a side by its number. -/
def engOf (code : Nat) (id : BitVec 32) : Option Eng :=
  match code % 4 with
  | 0 => none
  | 1 => some (.fetch (code / 4) id)
  | 2 => some .matrix
  | _ => some (.xch (code / 4))

/-- A handle's 64 bytes: its descriptor (R198), both counters, both positions, the holders of its sides, and the transfer ids of
those that are fetch channels. -/
def Cb.record (c : Cb) : Rec :=
  Rec.word (BitVec.ofNat 64 (c.base + c.size * 2 ^ 32 + c.count * 2 ^ 48))
    ++ Rec.word (BitVec.ofNat 64 (c.fmt + c.rows * 2 ^ 8 + c.cols * 2 ^ 16)) ++ Rec.word (toWord c.c0) ++ Rec.word 0
    ++ Rec.word (c.consumed ++ c.produced) ++ Rec.word (BitVec.ofNat 64 (c.ppos + c.cpos * 2 ^ 32))
    ++ Rec.word (BitVec.ofNat 64 (engCode c.prodBy + engCode c.consBy * 2 ^ 32)) ++ Rec.word (engId c.consBy ++ engId c.prodBy)

/-- A handle read back; the engines that wait for its sides stay as they are known. -/
def Cb.ofRecord (c : Cb) (bs : List Byte) : Cb :=
  let w (i : Nat) : Word := longAt bs (8 * i)
  { c with base := bits (w 0) 0 22, size := bits (w 0) 32 9, count := bits (w 0) 48 9, fmt := bits (w 1) 0 4,
           rows := bits (w 1) 8 7, cols := bits (w 1) 16 7, c0 := (w 2).setWidth 32, produced := (w 4).setWidth 32,
           consumed := (w 4).extractLsb' 32 32, ppos := bits (w 5) 0 32, cpos := bits (w 5) 32 32,
           prodBy := engOf (bits (w 6) 0 32) ((w 7).setWidth 32), consBy := engOf (bits (w 6) 32 32) ((w 7).extractLsb' 32 32) }

/-- The record of a matrix engine and of the tile's handles; an unset handle's bytes are zero (R214). -/
def State.matrixRec (s : State) (m : Matrix) (cbs : SMap Cb) : Rec :=
  Rec.known (m.acc.toList.flatMap (fun a => a.toList.flatMap (fun e => leBytes 4 e.toNat)))
    ++ m.ctxs.toList.flatMap MCtx.record
    ++ Rec.sized 3072 (m.queue.flatMap MCmd.record)
    ++ (List.range 16).flatMap (fun h => match SMap.find? cbs h with
      | some c => c.record
      | none => Rec.known (List.replicate 64 0))
    ++ Rec.sized 64 (Rec.word m.status ++ Rec.word (s.holderWord m.holder) ++ Rec.word (BitVec.ofNat 64 m.step))

/-- A matrix engine read back: the queue and what it does by the status word (R213, R214). An accumulator element that is found
uncorrectable as it is read, `bad`, is so. -/
def Matrix.ofRecord (m : Matrix) (bs : List Byte) (bad : Nat → Bool) : Matrix :=
  let es := halves 16384 bs
  let st := longAt bs 70144
  let entry (e : Nat) : MCmd :=
    let o := 66048 + 192 * e
    ⟨longAt bs o, longAt bs (o + 8), longAt bs (o + 16), MCtx.ofRecord (bs.drop (o + 64))⟩
  { m with acc := Vector.ofFn (fun i : Fin 4 => (Vector.ofFn (fun j : Fin 4096 => es.getD (4096 * i.val + j.val) 0))),
           poison := (List.range 16384).filter (fun n => m.poison.contains n || bad n),
           ctxs := Vector.ofFn (fun i : Fin 4 => MCtx.ofRecord (bs.drop (65536 + 128 * i.val))),
           queue := (List.range (min 16 (bits st 0 5))).map entry, phase := bits st 5 1, step := (longAt bs 70160).toNat,
           cause := bits st 40 8, hdl := bits st 36 4, kind := bits st 33 3, stop := st.getLsbD 32, acc0 := bits st 12 2,
           op := bits st 8 4 }

/-- The handles read back from the matrix record; one of size 0 is unset. -/
def cbsOfRecord (cbs : SMap Cb) (bs : List Byte) : SMap Cb :=
  (List.range 16).filterMap (fun h =>
    let c := Cb.ofRecord (SMap.getD cbs h default) ((bs.drop (69120 + 64 * h)).take 64)
    if c.size = 0 then none else some (h, c))

/-! ## The exchange engine (R239) -/

/-- A channel's 64 bytes: state, ends, handles, `sbytes` and the three counters, a word each in this order, and what else its
binding keeps (DESIGN CHOICE, log entry 13). -/
def XChan.record (x : XChan) : Rec :=
  let k (n : Nat) : Rec := Rec.word (BitVec.ofNat 64 n)
  k (x.st + (if x.sender then 16 else 0) + (if x.err then 32 else 0) + x.ek.toNat * 64 + (if x.resync then 256 else 0))
    ++ k (x.peer + x.pch * 2 ^ 12) ++ k (x.h + x.ih * 2 ^ 4) ++ k x.sbytes
    ++ Rec.word (toWord x.shipped) ++ Rec.word (toWord x.landed) ++ Rec.word (toWord x.consumed)
    ++ k (x.count + x.flits * 2 ^ 16 + x.lin.toNat * 2 ^ 32 + if x.sup then 2 ^ 48 else 0)

/-- A channel read back. -/
def XChan.ofRecord (x : XChan) (bs : List Byte) : XChan :=
  let w (i : Nat) : Word := longAt bs (8 * i)
  { x with st := bits (w 0) 0 4, sender := (w 0).getLsbD 4, err := (w 0).getLsbD 5, ek := (w 0).extractLsb' 6 2,
           resync := (w 0).getLsbD 8, peer := bits (w 1) 0 12, pch := bits (w 1) 12 4, h := bits (w 2) 0 4, ih := bits (w 2) 4 4,
           sbytes := (w 3).toNat, shipped := (w 4).setWidth 32, landed := (w 5).setWidth 32, consumed := (w 6).setWidth 32,
           count := bits (w 7) 0 16, flits := bits (w 7) 16 16, lin := (w 7).extractLsb' 32 16, sup := (w 7).getLsbD 48 }

def Xch.record (e : Xch) : Rec := e.chans.toList.flatMap XChan.record
def Xch.ofRecord (e : Xch) (bs : List Byte) : Xch :=
  { e with chans := Vector.ofFn (fun i : Fin 4 => e.chans[i].ofRecord ((bs.drop (64 * i.val)).take 64)) }

/-! ## A tile's area (R265) -/

/-- The bytes of a user core's strand record (R265). -/
def State.coreSize (s : State) (t : Nat) : Nat := coreBytes (s.contexts t)

/-- Where the records of a tile's engines lie in its area, whose core records have room for `n` contexts: the strand records of
its user cores in order, the vector records, then fetch, matrix and exchange (DESIGN CHOICE, log entry 13). -/
def vectorAt (t n i : Nat) : Nat := (Config.userCores t).length * coreBytes n + 33856 * i
def fetchAt (t n : Nat) : Nat := vectorAt t n (Config.userCores t).length
def areaBytes (t n : Nat) : Nat := fetchAt t n + 94720 + 70208 + 256

/-- The bytes of a tile's save area (R265). -/
def State.areaSize (s : State) (t : Nat) : Nat := areaBytes t (s.contexts t)
def State.fetchOff (s : State) (t : Nat) : Nat := fetchAt t (s.contexts t)

/-- Write a tile's records into its area, from byte number `k` on (R264). -/
def State.writeArea (s : State) (t k : Nat) (v : Saved) : State :=
  let cores := Config.userCores t
  s.writeSpan k (Rec.sized (s.areaSize t)
    (cores.flatMap (fun c => s.strandRec t c v)
      ++ cores.flatMap (fun c => s.vectorRec (SMap.getD v.vunits c VUnit.reset))
      ++ s.fetchRec t v.key v.fetch ++ s.matrixRec v.matrix v.cbs ++ v.xch.record))

/-- The room for which an area is laid out, by the header of its first core; by the depths that stand now where that cannot be
read. -/
def State.roomAt (s : State) (t k : Nat) : Nat :=
  let w := longAt (s.spanAt k 8) 0
  if s.poisoned k then s.contexts t else roomOf (min 256 (bits w 32 16)) (min 16384 (bits w 48 16))

/-- The strand that a context read back on a tile is: the one that the save lists there, `e`, or another saved one of its
sid, or a new one (log entry 13). -/
def State.recordStrand (s : State) (t : Nat) (e : Option Nat) (sid : BitVec 32) (taken : List Nat) : Nat × State :=
  let fits (u : Nat) : Bool := !(taken.contains u) && (match s.strand u with
    | some x => !x.ctx.sup && x.ctx.sid == sid && (match x.place with | .saved a c _ _ => a == t && decide (c < 4) | _ => false)
    | none => false)
  match (e.toList ++ s.strands.map (·.1)).find? fits with
  | some u => (u, s)
  | none => s.addStrand (Strand.fresh default t .none)

/-- What a restore has read of a core's record: its kennel and lent entries, the places in the orders of waits, and the
commands whose handlers it has found lost. -/
structure CoreRead where
  front : List Nat
  lent : List Nat
  order : List (Nat × Nat)
  gone : List (Nat × Nat × BitVec 32)
  deriving DecidableEq, Repr

/-- A saved command of a tile has a handler less. -/
def State.savedHandlerEnds (s : State) (h : Nat × Nat × BitVec 32) : State :=
  { s with saved := s.saved.map (fun e =>
    if e.1 / 2 ^ 23 = h.1 ∧ e.2.out then (e.1, { e.2 with fetch := e.2.fetch.handlersBy h.2.1 h.2.2 (· - 1) }) else e) }

/-- A context whose record cannot be read is lost (R89). -/
def State.lostRecord (s : State) (u : Nat) (r : CoreRead) : CoreRead × State :=
  match (s.strand u).bind (·.handler) with
  | some h => ({ r with gone := h :: r.gone }, (s.loseContext u).savedHandlerEnds h)
  | none => (r, s.loseContext u)

/-- Context `j` of a core's record at byte `k` is read back: the strand `e` is the one that the save lists there. One whose
record cannot be read is lost (R89; DEDUCED, log entry 13), and one for which the record had no room is as it was saved. -/
def State.readContext (s : State) (t c key k n j : Nat) (lent : Bool) (e : Option Nat) (taken : List Nat) (r : CoreRead) :
    CoreRead × State :=
  let put (u : Nat) : CoreRead := if lent then { r with lent := r.lent ++ [u] } else { r with front := r.front ++ [u] }
  let o := k + 64 + 320 * j
  if n ≤ j then (match e with | some u => put u | none => r, s)
  else if s.spanBad o 320 then (match e with | some u => s.lostRecord u r | none => (r, s))
  else
    let ws := longs 32 (s.spanAt o 256)
    let st := longs 3 (s.spanAt (o + 256) 24)
    let a := s.recordStrand t e ((ws.getD 25 0).setWidth 32) (r.front ++ r.lent ++ taken)
    ({ put a.1 with order := (bits (st.getD 0 0) 32 16, a.1) :: r.order },
     a.2.onStrand a.1 (fun x => { x.ofRecord ws st with tile := t, place := .saved t c key lent }))

/-- A core's record is read back: as many contexts as its header says, or, where that cannot be read, as the save lists. -/
def State.readCore (s : State) (t c key k n : Nat) (front lent taken : List Nat) : CoreRead × State :=
  let w := longAt (s.spanAt k 8) 0
  let f := if s.poisoned k then front.length else bits w 0 16
  let l := if s.poisoned k then lent.length else bits w 16 16
  let us := front ++ lent
  (List.range (min (f + l) (max n us.length))).foldl (fun (a : CoreRead × State) j =>
    a.2.readContext t c key k n j (decide (f ≤ j)) us[j]? taken a.1) (⟨[], [], [], []⟩, s)

/-- Who holds a claim, by the holder's sid in a record of the tile (R157, R214). -/
def State.holderOf (s : State) (t : Nat) (w : Word) : Option Nat :=
  if w = -1 then none
  else (List.find? (fun e => e.2.tile == t && e.2.ctx.sid == w.setWidth 32 && (match e.2.place with
    | .saved _ c _ _ => decide (c < 4)
    | .source _ => false
    | _ => e.2.ctx.sup)) s.strands).map (·.1)

/-- Insert by place. -/
def insertPlace (e : Nat × Nat) : List (Nat × Nat) → List (Nat × Nat)
  | [] => [e]
  | x :: xs => if e.1 < x.1 then e :: x :: xs else x :: insertPlace e xs

/-- The strands that wait for a claim, in the order that their entry states give; a supervisor's, which is never saved,
keeps its place (R266, R267). -/
def State.waitersOf (s : State) (w : Wait) (order : List (Nat × Nat)) (old : List Nat) : List Nat :=
  let kept := ((List.range old.length).zip old).filter (fun e => (s.strand e.2).any (·.ctx.sup))
  let back := order.filter (fun e => (s.strand e.2).any (fun x => x.run == .waiting w))
  ((kept ++ back).foldr insertPlace []).map (·.2)

/-- The strands that wait in `xclose` on a channel (R237). -/
def State.closersOf (s : State) (us : List Nat) (ch : Nat) : List Nat :=
  us.filter (fun u => (s.strand u).any (fun x => x.run == .waiting (.xclose ch)))

/-- The strand records of a tile's area are read back, core by core; a context that no record holds any more is gone. -/
def State.readStrands (s : State) (t n : Nat) (v : Saved) : SMap CoreRead × State :=
  let cores := Config.userCores t
  let r := ((List.range cores.length).zip cores).foldl (fun (a : SMap CoreRead × State) e =>
    let x := a.2.readCore t e.2 v.key (v.cell + coreBytes n * e.1) n (SMap.getD v.kennel e.2 []) (SMap.getD v.lent e.2 [])
      (a.1.flatMap (fun e => e.2.front ++ e.2.lent))
    (SMap.put a.1 e.2 x.1, x.2)) ([], s)
  let back := r.1.flatMap (fun e => e.2.front ++ e.2.lent)
  (r.1, { r.2 with strands := r.2.strands.filter (fun e => match e.2.place with
    | .saved a c key _ => !(a == t && decide (c < 4) && key == v.key && !(back.contains e.1))
    | _ => true) })

/-- Read a tile's records back from its area (R267): the contexts and their waits, then the engines with their holders. What the
records do not hold is as `v` knows it. -/
def State.readArea (s : State) (t : Nat) (v : Saved) : Saved × State :=
  let n := s.roomAt t v.cell
  let s := s.touchSpan v.cell (areaBytes t n) false
  let r := s.readStrands t n v
  let order := r.1.flatMap (fun e => e.2.order)
  let fo := v.cell + fetchAt t n
  let fb := r.2.spanRead fo 94720
  let mb := fb.2.spanRead (fo + 94720) 70208
  let xb := mb.2.spanRead (fo + 94720 + 70208) 256
  let cores := Config.userCores t
  let vs := ((List.range cores.length).zip cores).foldl (fun (a : SMap VUnit × State) e =>
    let b := a.2.spanRead (v.cell + vectorAt t n e.1) 33856
    let old := SMap.getD v.vunits e.2 VUnit.reset
    let mine := ((SMap.find? r.1 e.2).map (·.order)).getD []
    (SMap.put a.1 e.2 { old.ofRecord b.1 with
      holder := b.2.holderOf t (longAt b.1 32776), waiters := b.2.waitersOf .vclaim mine old.waiters }, b.2)) ([], xb.2)
  let s := vs.2
  let gone := (r.1.flatMap (fun e => e.2.gone)).filter (fun h => h.1 == t)
  let known := gone.foldl (fun f h => f.handlersBy h.2.1 h.2.2 (· - 1)) v.fetch
  let lf := s.readLanding t v.key fb.1 (known.ofRecord fb.1)
  let us := r.1.flatMap (fun e => e.2.front ++ e.2.lent)
  let xch := v.xch.ofRecord xb.1
  ({ v with
      kennel := r.1.map (fun e => (e.1, e.2.front)), lent := r.1.map (fun e => (e.1, e.2.lent)), fetch := lf.1,
      matrix := { v.matrix.ofRecord mb.1 (fun i => s.poisoned (fo + 94720 + 4 * i)) with
        holder := s.holderOf t (longAt mb.1 70152), waiters := s.waitersOf .mclaim order v.matrix.waiters },
      cbs := cbsOfRecord v.cbs mb.1, vunits := vs.1,
      xch := { xch with chans := Vector.ofFn (fun i : Fin 4 =>
        let c := xch.chans[i]
        { c with closers := s.closersOf us i.val }) } }, lf.2)

end Sys2Proof.Machine
end

