-- ==== Sys2Proof/Machine/Preempt.lean ====
section
/-! DEFINITION. Pre-emption: `preempt` (R278), stopping and saving a tile (R264 to R266), restoring (R267), resetting and
stopping a partition (R254, R268), and time slices (R269, R270). -/

namespace Sys2Proof.Machine
open Sys2Proof

/-! ## Times and sizes (R265, R270) -/

/-- The largest single-flit time between two tiles of a list (R135). -/
def xMax (tiles : List Nat) : Nat :=
  let ds := (tiles.map Config.dieOf).eraseDups
  (ds.flatMap (fun a => ds.map (fun b => Config.oneWay (Config.tile0 a) (Config.tile0 b)))).foldl max 12

/-- T_resp (R265). The signed configuration says which partitions hold a link set (log entry 69). -/
def State.tResp (s : State) (part : Nat) (tiles : List Nat) : Nat :=
  if s.linkParts.contains part && !s.linkSets.isEmpty then 792
  else 2 * xMax tiles + (if tiles.any (fun t => !(Config.isM t)) then 188 else 118) + 4

/-- The longest save or restore time of a tile's engines (R265). -/
def State.saveTime (s : State) (t : Nat) : Nat := max (5 * s.contexts t) 1480

/-- The longest stop bound plus save time of a tile's engines (R265). -/
def State.stopAndSave (s : State) (resp x t : Nat) : Nat :=
  max (max (resp + 5 * s.contexts t) (resp + 1480)) (max (resp + 4 + 529)
    (max ((if Config.isM t then 256 else 128) + 1097) (x + 5)))

/-- The bound of a pre-emption (R264, R270). -/
def State.preemptBound (s : State) (part : Nat) : Nat :=
  let tiles := s.tilesOf part
  2 * (tiles.length - 1 + xMax tiles) + (tiles.map (s.stopAndSave (s.tResp part tiles) (xMax tiles))).foldl max 0

/-- T_sr (R270). -/
def State.tSr (s : State) (part : Nat) : Nat :=
  let tiles := s.tilesOf part
  s.preemptBound part + (tiles.length - 1 + xMax tiles) + (tiles.map s.saveTime).foldl max 0

/-- An area fits on a tile (R278). -/
def State.areaFits (s : State) (area t : Nat) : Bool :=
  decide (area % 4096 = 0) && decide (area + s.areaSize t ≤ Config.memSize t - Config.poolSize)

/-- Whose records are saved: those of the area that `preempt` names, a function's, or a stopped partition's (R268, R269,
R278). -/
def opKey (area : Nat) : Nat := area / 4096 % 2 ^ 21
def fnKey (fn : Nat) : Nat := 2 ^ 21 + fn
def stopKey : Nat := 2 ^ 22

/-- The key is that of an area that `preempt` names. -/
def isOp (key : Nat) : Bool := decide (key < 2 ^ 21)

/-- Where a save area begins on a tile: where `preempt` says, or where the firmware keeps the areas of functions and of stopped
partitions, which the manual leaves open (R264, R268, R269). -/
def State.areaCell (s : State) (t key : Nat) : Nat :=
  cellNo t false (4096 * (if isOp key then key
    else Config.area key % ((Config.memSize t - Config.poolSize - s.areaSize t) / 4096 + 1)))

/-- The issuer number of a protocol that no strand has issued. -/
def noIssuer : Nat := 2 ^ 64

/-! ## Stopping a tile (R265, R266) -/

/-- A refused context goes back to its instruction (R90, R266); the child of a `spawnat` is given up. A context that
waits to return home keeps waiting (R142). -/
def State.restartHeld (s : State) (u : Nat) (x : Strand) : State :=
  let again (x : Strand) : Strand := { x with run := .ready, packet := none, asked := false, prog := Prog.none }
  match x.packet with
  | some (.mig _) => s.onStrand u (fun x => { again x with ctx := x.undepart })
  | some (.parkCtx _) => s.onStrand u (fun x => { again x with watch := none })
  | some (.spawnat _) =>
    let s' := match s.spawner u with
      | some p => s.onStrand p again
      | none => s
    { s' with strands := SMap.erase s'.strands u }
  | _ => s

/-- User contexts of a tile. -/
def State.usersOf (s : State) (t : Nat) : List (Nat × Strand) :=
  List.filter (fun e => e.2.tile == t && !e.2.ctx.sup && (match e.2.place with | .saved _ _ _ _ => false | _ => true)) s.strands

def State.restartRefused (s : State) (t : Nat) : State :=
  ((s.usersOf t).filter (fun e => e.2.asked && e.2.packet.isSome)).foldl (fun s e => s.restartHeld e.1 e.2) s

/-- What a strand takes at the boundary at which it is stopped: deferred refusals, a deferred engine trap, then a poison
trap, since the start of pre-emption is one of the places where it is taken, once (R116, R260). A strand that waits for the
supervisor keeps them all (R116, R263). -/
def State.takeOne (s : State) (u : Nat) (x : Strand) : State :=
  match x.refusals, x.engTrap, x.anyPoison with
  | (n, va) :: rest, _, _ => (s.onStrand u (fun x => { x with refusals := rest })).takeRefusal u n va
  | [], some (c, v), _ => (s.onStrand u (fun x => { x with engTrap := none })).takeTrap u c v false
  | [], none, some (c, v) => if x.struck then s else (s.onStrand u (fun x => { x with struck := true })).takeTrap u c v false
  | [], none, none => s

/-- The strands of a tile that stand at a boundary take what is pending there. -/
def State.takePending (s : State) (t : Nat) : State :=
  ((s.usersOf t).filter (fun e => e.2.prog.phase == 0 && e.2.run != .waiting .supervisor)).foldl
    (fun s e => s.takeOne e.1 e.2) s

/-- A strand whose contexts are saved and reset: no supervisor's. -/
def State.isUser (s : State) (u : Nat) : Bool := match s.strand u with | some y => !y.ctx.sup | none => true

/-- A pre-empt flit reaches a tile: its strands stop at their boundaries, its watchers wake, its hold list empties, slots
reserved for what it called are free, and its engines stop at their units (R239, R265, R266). -/
def State.halt (s : State) (t : Nat) : State :=
  let user := s.isUser
  let s := s.onTile t (fun x => { x with halted := true, hold := x.hold.filter (fun h => !(user h.uid)) })
  let s := ((s.tile t).calls.filter (fun c => user c.1)).foldl (fun s c => s.dropCall t c.1) s
  let s := s.onXch t (fun e => { e with sending := none })
  s.wakeWhere t (fun _ => true)

/-- A context is at a boundary and nothing due to it is still out (R265, R266). -/
def Strand.settled (x : Strand) : Bool :=
  let returning := match x.packet with | some (.ctxReturn _) => x.asked | some _ => false | none => true
  let source := match x.place with | .source _ => true | _ => false
  let inSlot := match x.place, x.run with
    | .slot _ _ _, .waiting _ => false
    | .slot _ _ _, _ => true
    | _, _ => false
  let waits := x.run == .waiting .supervisor
  x.pending.isEmpty && x.posted.isEmpty && (waits || (x.refusals.isEmpty && x.engTrap.isNone)) && !x.walking && returning
    && (!source || x.asked) && (!inSlot || x.prog.phase == 0)

/-- The tile that an exchange packet reaches. -/
def xchDst : Event → Option Nat
  | .xchBindArrival b => some b.dst
  | .xchBindReply r => some r.tile
  | .xchDataFlitArrival f => some f.dst
  | .xchResyncFlitArrival t _ => some t
  | .xchErrorFlitArrival t _ _ => some t
  | .xchCloseRequestArrival t _ => some t
  | .xchUnbindArrival t _ => some t
  | .xchUnbindReply t _ => some t
  | _ => none

/-- An exchange packet between tiles of the tile's partition is on its way, or waits for its pair's window: every one that has
been sent is performed before an end of its binding is saved (R239). -/
def State.xchInFlight (s : State) (t : Nat) : Bool :=
  let here (d : Option Nat) : Bool := d.any (fun d => s.partOfTile (s.real d) == s.partOfTile t)
  s.agenda.any (fun e => here (match e.ev with
    | .inject _ _ p => xchDst (packetEvent p).2
    | .diePortFlitArrival f => xchDst (packetEvent f.pkt).2
    | ev => xchDst ev))
  || List.any s.pairs (fun e => e.2.queue.any (fun p => here (xchDst (packetEvent p).2)))

/-- A context is on its way to the tile. -/
def State.ctxInFlight (s : State) (t : Nat) : Bool :=
  s.strands.any (fun e => !e.2.asked && e.2.run == .held && (match e.2.packet with
    | some p => s.real (packetDst p) == t
    | none => false))

/-- Every engine of the tile has stopped at its unit (R157, R186, R214, R239). -/
def State.enginesStopped (s : State) (t : Nat) : Bool :=
  let f := s.fetch t
  (s.matrix t).phase != 2 && f.reads.isEmpty
    && f.chans.toList.all (fun c => c.cmds.all (fun k => k.asked.isNone && k.walks == 0 && k.writes == 0 && !k.arriving))
    && (Config.userCores t).all (fun c =>
      let v := s.vunit t c
      v.loads == 0 && decide (v.busy ≤ s.now) && decide (v.memBusy ≤ s.now) && !v.anyPending)
    && !(s.xchInFlight t)

/-- A context stands at the place of a core of the tile. -/
def Place.on (p : Place) (t c : Nat) : Bool :=
  match p with
  | .slot a b _ => a == t && b == c
  | .kennel a b => a == t && b == c
  | .lent a b => a == t && b == c
  | _ => false

/-- Every slot of the tile's user cores holds a context that stands there: none is kept for one that has left and whose
destination has not yet answered (R73, R266). -/
def State.noGhosts (s : State) (t : Nat) : Bool :=
  (Config.userCores t).all (fun c =>
    let k := s.core t c
    (k.slots.map (·.2) ++ k.kennel ++ k.lent).all (fun u => match s.strand u with
      | some x => x.place.on t c
      | none => false))

/-- The tile may be saved. A supervisor's strands that park on it stay there (R278). -/
def State.tileSettled (s : State) (t : Nat) (p : Proto) : Bool :=
  p.tiles.length == p.n && (s.usersOf t).all (fun e => e.2.settled) && s.noGhosts t && s.enginesStopped t && !(s.ctxInFlight t)
    && !((s.tile t).watch.any (fun w => s.isUser w.uid)) && !((s.tile t).waking.any (fun w => s.isUser w.2.2))
    && (Config.userCores t).all (fun c => (s.core t c).moving.isEmpty)
    && !(s.protos.any (fun e => e.2.kind == 0 && e.2.part == p.part))

/-! ## Saving (R265, R266) -/

/-- What a context keeps in its record: `hleft` stands still. -/
def State.intoArea (s : State) (u t c key : Nat) (lent : Bool) : State :=
  s.onStrand u (fun x =>
    { x with place := .saved t c key lent, run := if x.run = .stalled then .ready else x.run, fault := none, pinEnd := 0,
             ctx := { x.ctx with hleft := s.hleft x } })

/-- The contexts of a user core: those in slots and in the kennel, then the lent ones; one that has left is not among them. -/
def State.saveCore (s : State) (t key c : Nat) : (List Nat × List Nat) × State :=
  let k := s.core t c
  let stands (u : Nat) : Bool := (s.strand u).any (fun x => x.place.on t c)
  let front := (k.slots.map (·.2) ++ k.kennel).filter stands
  let lent := k.lent.filter stands
  let s := front.foldl (fun s u => s.intoArea u t c key false) s
  let s := lent.foldl (fun s u => s.intoArea u t c key true) s
  ((front, lent), s.onCore t c (fun k => { Core.reset with rot := k.rot, issued := k.issued }))

/-- Births that their sources keep are saved with them; a launch stays in its queue (R266). -/
def State.saveBirths (s : State) (t key : Nat) : State :=
  (s.usersOf t).foldl (fun s e => match e.2.place, e.2.birth with
    | .source _, .launch _ _ _ => { s with strands := SMap.erase s.strands e.1 }
    | .source _, _ => s.intoArea e.1 t 4 key false
    | _, _ => s) s

/-- The engines and handles of a tile stand as at reset (R268). The vector unit of a supervisor core is kept. -/
def State.clearEngines (s : State) (t : Nat) : State :=
  { s with fetches := SMap.erase s.fetches t, matrices := SMap.erase s.matrices t, xchs := SMap.erase s.xchs t,
           vunits := s.vunits.filter (fun e => !((Config.userCores t).any (fun c => coreNo t c == e.1))),
           cbs := SMap.dropRange s.cbs (cbNo t 0) (cbNo t 16) }

/-- Contexts whose records another save overwrites are no more. -/
def State.overwritten (s : State) (t key : Nat) : State :=
  { s with strands := s.strands.filter (fun e => match e.2.place with
    | .saved a _ k _ => !(a == t && k == key)
    | _ => true) }

/-- Save a tile's records under a key, and leave its cores and engines empty. -/
def State.saveTile (s : State) (t key cell : Nat) : State :=
  let s := s.overwritten t key
  let r := (Config.userCores t).foldl (fun (a : (SMap (List Nat) × SMap (List Nat)) × State) c =>
    let k := a.2.saveCore t key c
    ((SMap.put a.1.1 c k.1.1, SMap.put a.1.2 c k.1.2), k.2)) (([], []), s)
  let s := r.2.saveBirths t key
  let v : Saved :=
    { key := key, cell := cell, out := true, kennel := r.1.1, lent := r.1.2, fetch := s.fetch t, matrix := s.matrix t, xch := s.xch t,
      vunits := (Config.userCores t).filterMap (fun c => (SMap.find? s.vunits (coreNo t c)).map (fun v => (c, v))),
      cbs := (List.range 16).filterMap (fun h => (s.cb t h).map (fun c => (h, c))), ops := [],
      fixes := [], wakes := [] }
  State.clearEngines { s with saved := SMap.put s.saved (savedNo t key) v } t

/-- Save a tile: its records stand in its area, and its cores and engines are empty (R264). -/
def State.saveRecords (s : State) (t : Nat) (p : Proto) : State :=
  let s := s.saveTile t p.key (s.areaCell t p.key)
  match SMap.find? s.saved (savedNo t p.key) with
  | some v => s.writeArea t v.cell v
  | none => s

/-- A tile acknowledges to the collector of its die at a cycle (R264). -/
def State.collect (s : State) (t id due : Nat) : State :=
  s.tellLead t (Config.tile0 (Config.dieOf t)) due (.preemptAck ⟨id, t⟩)

/-- A partition that stops for an error may wait for what the discarded flit carried, which never arrives: it is saved as it is
once its stop has run past the bound of a pre-emption (R254, R268; DESIGN CHOICE, log entry 89). -/
def State.givesUp (s : State) (p : Proto) : Bool :=
  (s.part p.part).reason != 0 && p.tiles.length == p.n && decide (p.va.toNat + s.preemptBound p.part < s.now)

/-- A stopping tile: saved once it is settled, else it looks again in the next cycle. -/
def State.stopStep (s : State) (t id : Nat) (p : Proto) : State :=
  let s := (s.restartRefused t).takePending t
  if s.tileSettled t p || s.givesUp p then (s.saveRecords t p).collect t id (s.now + s.saveTime t)
  else s.schedule (s.now + 1) 1 (.preemptFlitArrival ⟨id, t + 4096⟩)

/-- A tile forgets every user context, its handles and its engines' work, and runs again; a supervisor's strands that park on it
or hold slots there stay (R268, R278). -/
def State.resetTile (s : State) (t : Nat) : State :=
  let user := s.isUser
  let mine (x : Strand) : Bool := !x.ctx.sup && (x.tile == t || (match x.place with | .saved u _ _ _ => u == t | _ => false))
  let s := { s with strands := s.strands.filter (fun e => !(mine e.2)),
                    saved := SMap.dropRange s.saved (savedNo t 0) (savedNo (t + 1) 0) }
  let s := (Config.userCores t).foldl (fun s c => s.onCore t c (fun k => { Core.reset with rot := k.rot, issued := k.issued })) s
  ((s.forget t user).onTile t (fun x =>
    { x with halted := false, waking := x.waking.filter (fun w => !(user w.2.2)) })).clearEngines t

/-- A pre-empt flit, or another look of a stopping tile (R264, R268, R278). -/
def State.preemptArrives (s : State) (r : Round) : State :=
  match s.proto r.id with
  | none => s
  | some p =>
    if p.kind = 7 then (s.resetTile r.tile).collect r.tile r.id s.now
    else if 4096 ≤ r.tile then s.stopStep (r.tile - 4096) r.id p
    else
      let s := (s.halt r.tile).onProto r.id (fun p => { p with tiles := p.tiles ++ [r.tile] })
      s.stopStep r.tile r.id { p with tiles := p.tiles ++ [r.tile] }

/-- `preemptFlitArrival` (R264). -/
def execPreemptFlitArrival (s : State) : Host.Outcome State Fault Refusal :=
  onEvent (fun e => match e with | .preemptFlitArrival r => some (s.preemptArrives r) | _ => none) s

/-! ## Restoring (R267) -/

/-- A saved context is back in its kennel or lent entry; a rule pin runs on, and its class goes on rising, one `agestep` from
now at first (R76; DESIGN CHOICE, log entry 70). A context that waits to return home, whose hold-list entry the save has
emptied, is sent again with the age that its packet carried (R266; DESIGN CHOICE, log entry 85). -/
def State.outOfArea (s : State) (t u : Nat) (place : Place) : State :=
  match s.strand u with
  | none => s
  | some x =>
    let stop := if x.ctx.rpin then s.now + x.ctx.hleft.toNat else 0
    let due := s.now + (s.regs t).agestep
    let s := s.onStrand u (fun x => { x with place := place, complete := s.now, nextAt := s.now, pinEnd := stop, tick := due, struck := false })
    let s := if x.ctx.rpin then s.schedule stop 0 (.pinHoldExpiry u stop) else s
    let s := s.schedule due 0 (.classAgeTick u due)
    match x.packet with
    | some p => s.resend u t (fun _ => p)
    | none => s

/-- The user cores' entries come back in the order they were saved, lent entries last, each into an area of the pool (R77,
R267). -/
def State.restoreCores (s : State) (t : Nat) (v : Saved) : State :=
  (Config.userCores t).foldl (fun s c =>
    let k := SMap.getD v.kennel c []
    let l := SMap.getD v.lent c []
    let s := s.onCore t c (fun x => { x with kennel := x.kennel ++ k, lent := x.lent ++ l })
    let s := k.foldl (fun s u => s.outOfArea t u (.kennel t c)) s
    l.foldl (fun s u => (s.outOfArea t u (.lent t c)).writeLent t c u) s) s

/-- Sources that keep a local birth ask again, with age 0 (R267). -/
def State.askAgain (s : State) (t key : Nat) : State :=
  (List.filter (fun e => e.2.place == .saved t 4 key false) s.strands).foldl (fun s e =>
    (s.onStrand e.1 (fun x => { x with place := .source t, age := 0, asked := false })).askBirth t e.1) s

/-- Each receive end sends a permit (R239, R267). -/
def State.firstPermits (s : State) (t : Nat) : State :=
  (List.range 4).foldl (fun s ch =>
    let x := s.xchan t ch
    if !x.sender && (x.st == 2 || x.st == 3) then s.sendPermit t ch false else s) s

/-- A channel goes on: one whose peer is gone for good is in error, a close goes on, and a resynchronisation asks again
(R235, R236, R237). -/
def State.resumeChannel (s : State) (t ch : Nat) : State :=
  let x := s.xchan t ch
  if x.st = 0 ∨ x.st = 4 then s
  else if s.gone x.peer then s.xchError t ch 3
  else
    let s := if x.sender ∧ x.resync then s.schedule s.now 1 (.xchCounterParityError t ch) else s
    if x.sender then s.tryUnbind t ch else s

/-- The engines of a tile go on: every engine looks at its work (R267). -/
def State.resumeEngines (s : State) (t : Nat) : State :=
  let s := (List.range 4).foldl (fun s ch => s.resumeChannel t ch) s
  let s := (List.range 8).foldl (fun s ch =>
    if (s.chan t ch).cmds.isEmpty then s
    else ((s.schedule s.now 1 (.fetchTableRead t ch)).schedule s.now 1 (.fetchSlotPush t ch)).schedule s.now 1
      (.fetchCompletionPoint t ch)) s
  let s := if (s.matrix t).phase = 0 ∧ (s.matrix t).queue ≠ [] then s.startNext t else s
  s.kickEngines t s.now

/-- The engines' records are back in the engines; what is saved under a key of `preempt` is out no more on this tile. -/
def State.putEngines (s : State) (t : Nat) (v : Saved) : State :=
  { s with
    saved := (SMap.put s.saved (savedNo t v.key) { v with out := false, ops := [], fixes := [], wakes := [] }).map (fun e =>
      if e.1 / 2 ^ 23 = t ∧ isOp e.2.key = true ∧ isOp v.key = true then (e.1, { e.2 with out := false }) else e),
    fetches := SMap.put s.fetches t v.fetch,
    matrices := SMap.put s.matrices t v.matrix, xchs := SMap.put s.xchs t v.xch,
    vunits := v.vunits.foldl (fun m e => SMap.put m (coreNo t e.1) e.2) s.vunits,
    cbs := v.cbs.foldl (fun m e => SMap.put m (cbNo t e.1) e.2) s.cbs }

/-- A record of a tile that has saved nothing. -/
def Saved.none (key cell : Nat) : Saved :=
  { key := key, cell := cell, out := false, kennel := [], lent := [], fetch := Fetch.reset, matrix := Matrix.reset,
    xch := Xch.reset, vunits := [], cbs := [], ops := [], fixes := [], wakes := [] }

/-- What a restore reads back on a tile: any area that `preempt` names, but of a function only what has been saved. -/
def State.savedAt (s : State) (t key : Nat) : Option Saved :=
  match SMap.find? s.saved (savedNo t key) with
  | some v => if v.out || isOp key then some v else none
  | none => if isOp key then some (Saved.none key (s.areaCell t key)) else none

/-- What `prest`, `sres` and `sredir` have recorded for saved strands takes effect (R263, R279, R280). -/
def State.recorded (s : State) (v : Saved) : State :=
  let s := v.fixes.foldl (fun s e => s.onStrand e.1 (fun x => { x with ctx := e.2, poison := [] })) s
  v.wakes.foldl (fun s e => s.onStrand e.1 (fun x => { x with ctx := { x.ctx with pc := e.2 }, run := .ready })) s

/-- Read a tile's records back from its area, in the order of R267. -/
def State.restoreRecords (s : State) (t : Nat) (v : Saved) : State :=
  let r := s.readArea t v
  let s := (((((r.2.recorded v).putEngines t r.1).firstPermits t).askAgain t v.key).restoreCores t r.1).resumeEngines t
  v.ops.foldl (fun s r => (s.channelOpArrives { r with tile := t }).2) s

/-- Put a tile's records back, and let in what has waited at its port (R267). A function that has never run has none. -/
def State.restoreTile (s : State) (t : Nat) (p : Proto) : State :=
  let s := s.onTile t (fun x => { x with halted := false })
  let s := match s.savedAt t p.key with
    | none => s
    | some v => s.restoreRecords t v
  (s.releaseHeld t).offer t (s.now + 4)

/-- A restore flit: the tile reads its records back, then runs and acknowledges (R267). -/
def State.restoreArrives (s : State) (r : Round) : State :=
  match s.proto r.id with
  | none => s
  | some p =>
    if 4096 ≤ r.tile then
      ((s.restoreTile (r.tile - 4096) p).onProto r.id (fun p => { p with va := BitVec.ofNat 64 s.now })).collect
        (r.tile - 4096) r.id s.now
    else s.schedule (s.now + s.saveTime r.tile) 1 (.restoreFlitArrival ⟨r.id, r.tile + 4096⟩)

/-- `restoreFlitArrival` (R267). -/
def execRestoreFlitArrival (s : State) : Host.Outcome State Fault Refusal :=
  onEvent (fun e => match e with | .restoreFlitArrival r => some (s.restoreArrives r) | _ => none) s

/-! ## Starting a pre-emption, a restore, a reset or a stop -/

/-- Start a partition-wide protocol of `preempt` from a lead: 4 save, 5 restore, 6 stop, 7 reset. `switch` marks the
change of functions at the end of a slice. `va` keeps the cycle in which it begins, and of a restore the one in which the
last tile so far was restored (R270). -/
def State.startPreempt (s : State) (kind part lead uid key area : Nat) (switch : Bool) : Nat × State :=
  let tiles := s.tilesOf part
  let s := s.onPart part (fun p =>
    { p with mode := if kind = 5 then .restoring else if kind = 7 then p.mode else .saving })
  let i := s.addProto { Proto.start kind part lead uid tiles.length with
    key := key, area := area, users := switch, va := BitVec.ofNat 64 s.now }
  (i.1, i.2.announce lead tiles (fun t => if kind = 5 then .restore ⟨i.1, t⟩ else .preempt ⟨i.1, t⟩))

/-- Stop a partition (R268): the tiles are saved into a stop area and stay stopped. -/
def State.startStop (s : State) (part lead : Nat) : State :=
  if s.tilesOf part = [] then s.onPart part (fun p => { p with mode := .stopped })
  else (s.startPreempt 6 part lead noIssuer stopKey 0 false).2

/-- A partition is stopped by a failed flit found at tile `t`: its die collectors are told (R254, R263, R268). -/
def State.stopPartition (s : State) (t part : Nat) (reason : BitVec 8) (lo hi : Word) : State :=
  let m : Msg := ⟨BitVec.ofNat 64 (part + reason.toNat * 256), lo, hi, m3 t 4⟩
  let s := ((s.tilesOf part).map Config.dieOf).eraseDups.foldl (fun s d => s.send t (Config.tile0 d) (.message d m false)) s
  match (s.part part).mode with
  | .running => (s.onPart part (fun p => { p with reason := reason.toNat })).startStop part (Config.tile0 (Config.dieOf t))
  | .saved => s.onPart part (fun p => { p with reason := reason.toNat, mode := .stopped })
  | _ => s.onPart part (fun p => { p with reason := reason.toNat })

/-- `flitHeaderFailure`: the flit is discarded, and the partition of the tile, or every partition with a tile on the
die, stops (R254). -/
def execFlitHeaderFailure (s : State) : Host.Outcome State Fault Refusal :=
  onEvent (fun e => match e with
    | .flitHeaderFailure t atDie r lo hi =>
      let parts := if atDie then ((Config.tilesOfDie (Config.dieOf t)).map s.partOfTile).eraseDups else [s.partOfTile t]
      some ((parts.filter (· < Config.partitions)).foldl (fun s p => s.stopPartition t p r lo hi) s)
    | _ => none) s

/-! ## Time slices (R269, R270) -/

/-- The domains and groups of a partition belong to a function while it is out (R269). -/
def State.functionOut (s : State) (part fn : Nat) : State :=
  let lead := (s.leadTile part).getD 0
  match SMap.find? s.fns fn with
  | none => s
  | some f =>
    let g : VFn := { f with ptbase := (s.regs lead).ptbase, descs := SMap.inRange s.descs (64 * part) (64 * part + 64),
                            groups := SMap.inRange s.groups (64 * part) (64 * part + 64) }
    { s with fns := SMap.put s.fns fn g }

/-- The incoming function's `ptbase`, domains and groups are written on every tile, and `tlbia` runs (R269). -/
def State.functionIn (s : State) (part fn : Nat) : State :=
  match SMap.find? s.fns fn with
  | none => s
  | some f =>
    let s := { s with
      descs := SMap.merge (SMap.dropRange s.descs (64 * part) (64 * part + 64)) f.descs,
      groups := SMap.merge (SMap.dropRange s.groups (64 * part) (64 * part + 64)) f.groups }
    (s.tilesOf part).foldl (fun s t => ((s.onTile t (fun x =>
      { x with tlb := [], icache := [], regs := x.regs.setCsr t 0x806 f.ptbase })).staleWalks t).dropFills t (fun _ => true)) s

/-- A slice begins (R270): its length from a cycle on, by the `slicemin` of the lead collector (R281), and the stretch
counter. -/
def State.startSlice (s : State) (part lead start : Nat) : State :=
  let p := s.part part
  let want := max (p.slices.getD p.cur 0) (s.regs lead).slicemin
  let sr := s.tSr part
  let due := start + max want sr
  (s.onPart part (fun p =>
    { p with sliceStamp := due, stretch := if want < sr then p.stretch + 1 else p.stretch })).schedule due 0
      (.sliceExpiry part due)

/-- A time-sliced partition that runs again begins a slice: after a restore, and after a reset too (R269, R270; log entry
46). -/
def State.sliceAgain (s : State) (part lead start : Nat) : State :=
  if s.timeSliced part then s.startSlice part lead start else s

/-- The place of the next function in a partition's order: the first bound one after the running one's (R269). -/
def State.nextTurn (s : State) (part : Nat) : Nat :=
  let p := s.part part
  let n := p.fns.length
  (((List.range n).map (fun i => (p.cur + 1 + i) % n)).find? (fun i => s.boundTo part (p.fns.getD i 0))).getD p.cur

/-- A pre-emption that has run past its bound counts (R270). -/
def State.countOverrun (s : State) (part : Nat) (p : Proto) : State :=
  if s.preemptBound part < s.now - p.va.toNat then s.onPart part (fun x => { x with overrun := x.overrun + 1 }) else s

/-- The outgoing function is saved: the next one's turn comes (R269, R270). -/
def State.switchFunction (s : State) (part : Nat) (p : Proto) : State :=
  let s := s.functionOut part (s.part part).turn
  let next := s.nextTurn part
  let s := s.onPart part (fun x => { x with cur := next })
  let fn := (s.part part).turn
  ((s.functionIn part fn).startPreempt 5 part p.lead noIssuer (fnKey fn) 0 true).2

/-- The lead collector of a partition that is time-sliced: tile 0 of the die of its lowest tile (R264, R270). -/
def State.leadCollector (s : State) (part : Nat) : Nat := Config.tile0 (Config.dieOf ((s.leadTile part).getD 0))

/-- `sliceExpiry`: the partition is pre-empted into the outgoing function's areas, if it is time-sliced still (R272). It waits
for a cancellation or a `domset`, and while a strand changes one of its multicast groups (R193, R264, R278). -/
def State.sliceEnds (s : State) (part stamp : Nat) : State :=
  let p := s.part part
  if p.sliceStamp ≠ stamp ∨ p.mode ≠ .running ∨ s.timeSliced part = false ∨ s.tilesOf part = [] then s
  else if s.protos.any (fun e => e.2.part == part && (e.2.kind == 0 || e.2.kind == 3)) || s.locks.any (fun l => l.1 / 64 == part) then
    s.schedule (s.now + 1) 0 (.sliceExpiry part stamp)
  else
    (s.startPreempt 4 part (s.leadCollector part) noIssuer (fnKey p.turn) 0 true).2

/-- `sliceExpiry` (R270). -/
def execSliceExpiry (s : State) : Host.Outcome State Fault Refusal :=
  onEvent (fun e => match e with | .sliceExpiry p n => some (s.sliceEnds p n) | _ => none) s

/-! ## Acknowledgements (R264) -/

/-- The partition's dispatcher looks at its queues again. -/
def State.dispatchAgain (s : State) (part : Nat) : State := s.schedule s.now 1 (.launchDispatch part)

/-- The lead holds every acknowledgement. -/
def State.preemptDone (s : State) (id : Nat) (p : Proto) : State :=
  let part := p.part
  let stopped := (s.part part).reason ≠ 0
  let mode (m : PartMode) (s : State) : State := s.onPart part (fun x => { x with mode := m })
  let ended (s : State) : State := s.protoDone id p 0
  if p.kind = 4 then
    let s := s.countOverrun part p
    if stopped then ended (mode .stopped s)
    else if p.users then (ended (mode .saved s)).switchFunction part p
    else ended (mode .saved s)
  else if p.kind = 5 then
    let s := (ended (mode .running s)).dispatchAgain part
    if stopped then s.startStop part p.lead else s.sliceAgain part p.lead p.va.toNat
  else if p.kind = 6 then ended (mode .stopped (s.countOverrun part p))
  else
    let s := { s with groups := SMap.dropRange s.groups (64 * part) (64 * part + 64) }
    ((ended ((mode .running s).onPart part (fun x => { x with reason := 0 }))).dispatchAgain part).sliceAgain part p.lead s.now

/-- An acknowledgement at a die's collector, which waits while its core is stopped, or at the lead (R258, R264). -/
def State.preemptAcked (s : State) (r : Round) : State :=
  match s.proto r.id with
  | none => s
  | some p =>
    if 4096 ≤ r.tile then
      let n := p.acks + 1
      let s := s.onProto r.id (fun p => { p with acks := n })
      if n < p.n then s else s.preemptDone r.id p
    else
      let c := Config.tile0 (Config.dieOf r.tile)
      if (s.core c 0).stopped then s.schedule (s.now + 1) 1 (.preemptTileAck r)
      else s.tellLead c p.lead s.now (.preemptAck ⟨r.id, r.tile + 4096⟩)

/-- `preemptTileAck` (R264). -/
def execPreemptTileAck (s : State) : Host.Outcome State Fault Refusal :=
  onEvent (fun e => match e with | .preemptTileAck r => some (s.preemptAcked r) | _ => none) s

/-! ## preempt (R278) -/

/-- A partition without tiles is saved, restored or reset at once. -/
def State.emptyPart (s : State) (kind part : Nat) : State :=
  s.onPart part (fun p => if kind = 4 then { p with mode := .saved } else { p with mode := .running, reason := 0 })

/-- `preempt` waits for a cancellation and for a `domset` of the partition, then checks, then runs its protocol. -/
def preemptWith (d a b : Reg) (check : State → Nat → Nat → Nat) (kind : Nat) (s : State) : Host.Outcome State Fault Refusal :=
  issueSup [a, b] [d] (fun u x s =>
    let part := bits (x.reg a) 0 6
    let area := (x.reg b).toNat
    if x.prog.phase = 2 then writeBack u d x.prog.val s
    else if bits (x.reg a) 8 2 = 3 then writeBack u d 4 s
    else if s.protos.any (fun e => e.2.part == part && (e.2.kind == 0 || e.2.kind == 3)) then waitAct s
    else match check s part area with
      | 0 =>
        if s.tilesOf part = [] then writeBack u d 0 (s.emptyPart kind part)
        else
          let r := s.startPreempt kind part x.tile u (opKey area) area false
          .ok (r.2.onStrand u (fun x => x.awaiting r.1))
      | c => writeBack u d (BitVec.ofNat 64 c) s) s

/-- What op 0 requires: a running partition, and an area that fits on each tile. -/
def saveCheck (s : State) (part area : Nat) : Nat :=
  if (s.part part).mode ≠ .running then 1 else if (s.tilesOf part).all (s.areaFits area) then 0 else 2

/-- What op 1 requires: a saved partition, and an area in each tile's memory, from which its records are read (R267). -/
def restoreCheck (s : State) (part area : Nat) : Nat :=
  if (s.part part).mode = .saved ∧ area % 4096 = 0
    ∧ (s.tilesOf part).all (fun t => decide (area < Config.memSize t - Config.poolSize)) then 0 else 1

/-- What op 2 requires: a saved or stopped partition. -/
def resetCheck (s : State) (part _area : Nat) : Nat :=
  if (s.part part).mode = .saved ∨ (s.part part).mode = .stopped then 0 else 1

/-- `preempt` op 0 (R278). -/
def execPreemptSave (d a b : BitVec 5) (s : State) : Host.Outcome State Fault Refusal := preemptWith d a b saveCheck 4 s
/-- `preempt` op 1 (R278). -/
def execPreemptRestore (d a b : BitVec 5) (s : State) : Host.Outcome State Fault Refusal := preemptWith d a b restoreCheck 5 s
/-- `preempt` op 2 (R278). -/
def execPreemptReset (d a b : BitVec 5) (s : State) : Host.Outcome State Fault Refusal := preemptWith d a b resetCheck 7 s

end Sys2Proof.Machine
end

