-- ==== Sys2Proof/Machine/Service.lean ====
section
/-! DEFINITION. The launch queues and their dispatchers (R291), the service table and its registration (R286, R287), and
the frames of the Ethernet ports (R285, R288 to R290). -/

namespace Sys2Proof
open Machine

/-! ## Fields of a service-table entry (R286) -/

def SvcWords.port (w : SvcWords) : Nat := bits w.w0 54 2
def SvcWords.part (w : SvcWords) : Nat := bits w.w0 48 6
def SvcWords.vid (w : SvcWords) : Nat := bits w.w0 32 12
def SvcWords.svc (w : SvcWords) : Nat := bits w.w0 16 16
def SvcWords.udp (w : SvcWords) : Nat := bits w.w0 0 16
def SvcWords.slots (w : SvcWords) : Nat := bits w.w2 0 17
def SvcWords.slotSize (w : SvcWords) : Nat := 64 * bits w.w2 32 8
def SvcWords.cls (w : SvcWords) : Nat := bits w.w3 48 2
def SvcWords.t0 (w : SvcWords) : Nat := bits w.w4 16 12
def SvcWords.tn (w : SvcWords) : Nat := bits w.w4 28 12
def SvcWords.ringBytes (w : SvcWords) : Nat := 64 + w.slotSize * w.slots

/-- The pages of 2 MiB that hold an entry's ring. -/
def SvcWords.ringPages (w : SvcWords) : List Nat :=
  let first := w.w1.toNat / 2 ^ 21
  (List.range ((w.w1.toNat + w.ringBytes - 1) / 2 ^ 21 - first + 1)).map (first + ·)

/-- The address of a byte of an entry's ring. -/
def SvcWords.va (w : SvcWords) (off : Nat) : Word := w.w1 + BitVec.ofNat 64 off

/-- The words with one of the five that the host writes replaced; v is kept apart. -/
def SvcWords.put (w : SvcWords) (n : Nat) (v : Word) : SvcWords :=
  if n = 0 then { w with w0 := v &&& ~~~(1#64 <<< 63) } else if n = 1 then { w with w1 := v }
  else if n = 2 then { w with w2 := v } else if n = 3 then { w with w3 := v } else if n = 4 then { w with w4 := v } else w

/-- Two entries that match the same frames (R287). -/
def SvcWords.same (a b : SvcWords) : Bool := a.port == b.port && a.vid == b.vid && a.udp == b.udp && a.svc == b.svc

end Sys2Proof

namespace Sys2Proof.Machine
open Sys2Proof

/-! ## Launch queues (R291) -/

def Part.queue (p : Part) (q : Nat) : List Launch := p.queues[q]?.getD []

def State.service (s : State) (i : Nat) : Svc := SMap.getD s.svc i Svc.reset
def State.onService (s : State) (i : Nat) (f : Svc → Svc) : State := { s with svc := SMap.put s.svc i (f (s.service i)) }

/-- Requests that a port has accepted for a queue and is writing: their places in the queue are kept (R290). -/
def State.accepted (s : State) (part q : Nat) : Nat :=
  (List.filter (fun e => match e.2.who with
    | .frame i 1 => match (s.service i).live with
      | some w => w.part == part && w.cls == q
      | none => false
    | _ => false) s.jobs).length

/-- A launch queue without a free place. -/
def State.queueFull (s : State) (part q : Nat) : Bool := decide (1024 ≤ ((s.part part).queue q).length + s.accepted part q)

/-- A record's range of tiles is of the partition, and lies on one die. -/
def State.rangeOk (s : State) (part t0 tn : Nat) : Bool :=
  decide (1 ≤ tn) && decide (tn ≤ 128) && (List.range tn).all (fun i =>
    decide (t0 + i < Config.tiles) && s.partOfTile (t0 + i) == part && Config.dieOf (t0 + i) == Config.dieOf t0)

/-- Append a launch record to the queue of its class. -/
def State.appendLaunch (s : State) (part : Nat) (l : Launch) : State :=
  (s.onPart part (fun p =>
    { p with queues := p.queues.setIfInBounds l.cls.toNat (p.queue l.cls.toNat ++ [l]) })).dispatchAgain part

/-- Resident, kenneled and lent user strands of a tile (R291). -/
def State.load (s : State) (t : Nat) : Nat :=
  (List.filter (fun e => e.2.tile == t && !e.2.ctx.sup && (match e.2.place with
    | .slot _ _ _ => true | .kennel _ _ => true | .lent _ _ => true | _ => false)) s.strands).length

/-- The tile of a list with the least load, the first among equals. -/
def State.leastLoaded (s : State) : List Nat → Nat → Nat
  | [], best => best
  | t :: ts, best => s.leastLoaded ts (if s.load (s.real t) < s.load (s.real best) then t else best)

/-- The tile that a record is placed on (R291). -/
def State.launchTile (s : State) (l : Launch) : Nat :=
  s.leastLoaded ((List.range (l.tn - 1)).map (fun i => l.t0 + 1 + i)) l.t0

/-- The next record that a die's dispatcher serves: of the highest class with one for the die, the first (R291). -/
def Part.nextFor (p : Part) (d : Nat) : Option (Nat × Launch) :=
  [3, 2, 1, 0].findSome? (fun q => ((p.queue q).find? (fun l => Config.dieOf l.t0 == d)).map (fun l => (q, l)))

/-- A birth that a dispatcher has placed and its tile has not admitted yet (R78, R291). -/
def State.placing (s : State) (part q d : Nat) : Bool :=
  s.strands.any (fun e => e.2.birth == .launch part q d)

/-- The dispatcher of a die places its next record; the record stays in its queue until it is admitted (R78, R291). -/
def State.dispatchDie (s : State) (part d : Nat) : State :=
  match (s.part part).nextFor d with
  | none => s
  | some (q, l) =>
    if s.placing part q d || !(s.rangeOk part l.t0 l.tn) then s
    else
      let t := s.real (s.launchTile l)
      let a := s.launchStrand t l (.launch part q d)
      a.2.askBirth t a.1

/-- The dies that hold the first tile of a queued record. -/
def Part.launchDies (p : Part) : List Nat :=
  ([0, 1, 2, 3].flatMap (fun q => (p.queue q).map (fun l => Config.dieOf l.t0))).eraseDups

/-- Every die's dispatcher looks at a running partition's queues (R291). -/
def State.dispatchLaunch (s : State) (part : Nat) : State :=
  if (s.part part).mode ≠ .running then s
  else (s.part part).launchDies.foldl (fun s d => s.dispatchDie part d) s

/-- `launchDispatch` (R291). -/
def execLaunchDispatch (s : State) : Host.Outcome State Fault Refusal :=
  onEvent (fun e => match e with | .launchDispatch p => some (s.dispatchLaunch p) | _ => none) s

/-! ## The service table (R286, R287) -/

/-- A field of an entry is outside its range (R286). -/
def State.svcRange (s : State) (w : SvcWords) : Bool :=
  let su := bits w.w2 32 8
  let n := w.slots
  bits w.w0 56 7 != 0 || bits w.w0 44 4 != 0 || decide (48 ≤ w.part) || bits w.w1 0 6 != 0
    || bits w.w2 17 15 != 0 || bits w.w2 40 24 != 0 || decide (su < 2) || decide (141 < su)
    || !((List.range 17).any (fun k => n == 2 ^ k))
    || bits w.w3 0 2 != 0 || bits w.w3 50 14 != 0 || bits w.w4 40 24 != 0 || !(s.rangeOk w.part w.t0 w.tn)

/-- The I/O die checks an entry whose v is set: 1 a field out of range, 4 a ring outside the partition's memory; then it
translates every page of the ring under the partition's table (R286, R287). -/
def State.registerSvc (s : State) (i : Nat) : State :=
  let w := (s.service i).w
  let refuse (r : Nat) : State := s.onService i (fun e => { e with v := false, task := none, reg := r })
  if s.svcRange w then refuse 1
  else if bits w.w1 56 8 ≠ 0 ∨ 2 ^ 56 < w.w1.toNat + w.ringBytes then refuse 4
  else match s.leadTile w.part with
    | none => refuse 1
    | some lead =>
      let id := s.uids
      let steps := w.ringPages.map (fun n =>
        (⟨BitVec.ofNat 64 (max w.w1.toNat (n * 2 ^ 21)), none, permRW, none⟩ : JobStep))
      (s.onService i (fun e => { e with v := true, task := some id, reg := 0 })).startJob s.now
        ⟨.register i, lead, none, false, 0, steps, none, [], []⟩

/-- The (domain, offset) of the page that holds a translated byte (R287). -/
def pageOf : Target → Nat × Nat
  | .md _ d o => (d, o / 2 ^ 21 * 2 ^ 21)
  | _ => (0, 0)

/-- Another valid entry, registered or set before the task `id` began, matches the same frames (R287). -/
def Svc.blocks (o : Svc) (id : Nat) (w : SvcWords) : Bool :=
  o.v && (match o.task with
    | none => o.live.any (·.same w)
    | some k => decide (k < id) && o.w.same w)

/-- The translation is over: 2 one failed, 3 an earlier valid entry matches the same frames; else the entry takes frames
from now on, by the words that it has now, once those that it has taken are done with (R287; log entry 73). -/
def State.registered (s : State) (id i : Nat) (got : List Answer) (tgts : List Target) : State :=
  let e := s.service i
  let done (f : Svc → Svc) : State := s.onService i (fun e => f { e with task := none })
  if e.task ≠ some id then s
  else if !got.isEmpty then done (fun e => { e with v := false, reg := 2 })
  else if s.svc.any (fun o => o.1 != i && o.2.blocks id e.w) then
    done (fun e => { e with v := false, reg := 3 })
  else done (fun e =>
    { e with live := some e.w, pages := (e.w.ringPages.zip tgts).map (fun x => (x.1, pageOf x.2)), produced := 0, consumed := 0 })

/-- The host writes words of an entry; v changes only with word 0 (R286, R287). -/
def State.writeService (s : State) (i : Nat) (l : List (Nat × Word)) : State :=
  let s := s.onService i (fun e => l.foldl (fun e x =>
    { e with w := e.w.put x.1 x.2, v := if x.1 = 0 then x.2.getLsbD 63 else e.v }) e)
  if (l.any (fun x => x.1 == 0)) = false then s
  else if (s.service i).v then s.registerSvc i
  else s.onService i (fun e => { e with task := none })

/-- The module holds 256 entries (R286). -/
def svcEntries : Nat := 256

/-- `serviceEntryRegister` (R287). -/
def execServiceEntryRegister (s : State) : Host.Outcome State Fault Refusal :=
  onEvent (fun e => match e with
    | .serviceEntryRegister i w => some (if i < svcEntries then s.writeService i w else s)
    | _ => none) s

/-- `serviceEntryClear` (R287). -/
def execServiceEntryClear (s : State) : Host.Outcome State Fault Refusal :=
  onEvent (fun e => match e with
    | .serviceEntryClear i =>
      some (if i < svcEntries then s.onService i (fun e => { e with v := false, task := none }) else s)
    | _ => none) s

/-! ## Frames (R285, R288 to R290) -/

def State.ethPort (s : State) (n : Nat) : EthPort := SMap.getD s.ports n EthPort.reset

/-- The payload begins with a Ralvos header of a service (R288). -/
def ralvos (p : List Byte) (svc : Nat) : Bool :=
  decide (16 ≤ p.length) && leValue (p.take 2) == svc && p.getD 2 0 == 1 && p.getD 3 0 == 0
    && ((p.drop 8).take 8).all (· == 0)

/-- The VLAN id of an entry is the frame's; 0 matches untagged frames only (R286). -/
def tagMatches (tag : Option Nat) (vid : Nat) : Bool :=
  match tag with
  | none => vid == 0
  | some v => vid != 0 && v == vid

/-- A frame matches an entry that is registered, at a port with these addresses (R288). -/
def Svc.takes (e : Svc) (ips : List IpAddr) (f : EthFrame) : Bool :=
  e.v && e.task.isNone && (match e.live, f.datagram with
    | some w, some d => f.port == w.port && tagMatches f.tag w.vid && ips.contains d.dst && d.dport == w.udp
        && ralvos d.payload w.svc
    | _, _ => false)

/-- A piece of an entry's ring, by the pages of its registration (R58, R287). -/
def Svc.target (e : Svc) (w : SvcWords) (off : Nat) : Option Target :=
  let va := w.w1.toNat + off
  (SMap.find? e.pages (va / 2 ^ 21)).map (fun p => .md w.part p.1 (p.2 + va % 2 ^ 21))

/-- An access of the port to a ring. -/
def Svc.step (e : Svc) (w : SvcWords) (off : Nat) (op : ReqOp) : JobStep := ⟨w.va off, e.target w off, permRW, some op⟩

/-- Bytes cut into blocks of 64, each with its offset. -/
def blocks64 (off : Nat) (bs : List Byte) : List (Nat × List Byte) :=
  (List.range ((bs.length + 63) / 64)).map (fun i => (off + 64 * i, (bs.drop (64 * i)).take 64))

/-- The slots that are filled, as the port has seen them (R290). -/
def Svc.full (e : Svc) (w : SvcWords) : Bool := decide (w.slots ≤ (e.produced - e.consumed).toNat)

/-- The oldest frame of an entry is done with. -/
def State.framePop (s : State) (i drops : Nat) : State :=
  s.onService i (fun e => { e with frames := e.frames.drop 1, drops := e.drops + BitVec.ofNat 64 drops })

/-- Where the port's accesses for an entry are translated and start: nothing is left to translate. -/
def State.frameJob (s : State) (i phase part : Nat) (l : List JobStep) : State :=
  s.startJob s.now ⟨.frame i phase, (s.leadTile part).getD 0, none, false, 0, l, none, [], []⟩

/-- What an accepted frame writes: its slot, then the count (R290). -/
def Svc.writes (e : Svc) (w : SvcWords) (r : Request) : List JobStep :=
  (blocks64 (64 + w.slotSize * (e.produced.toNat % w.slots)) (r.block ++ r.payload)).map (fun b => e.step w b.1 (.write b.2))
    ++ [e.step w 0 (.write (bytesOf 4 (toWord (e.produced + 1))))]

/-- The oldest frame of an entry: with its ring full, the count consumed is read once (`read` says that it has been); it is
dropped, or accepted and written (R290). A frame that its slot cannot hold is dropped first. -/
def State.frameNext (s : State) (i : Nat) : Bool → Nat → State
  | _, 0 => s
  | read, fuel + 1 =>
    let e := s.service i
    match e.frames, e.live with
    | r :: _, some w =>
      if w.slotSize - 64 < r.payload.length then (s.framePop i 1).frameNext i false fuel
      else if e.full w && !read then s.frameJob i 0 w.part [e.step w 8 (.load 4)]
      else if e.full w || s.queueFull w.part w.cls then (s.framePop i 1).frameNext i false fuel
      else s.frameJob i 1 w.part (e.writes w r)
    | _, _ => s

/-- The launch record of an accepted request (R290). -/
def Svc.launch (e : Svc) (w : SvcWords) (r : Request) : Launch :=
  { part := w.part, pc := w.w3.setWidth 48, g0 := w.va (128 + w.slotSize * (e.produced.toNat % w.slots)),
    g1 := BitVec.ofNat 64 r.payload.length, g2 := toWord e.produced,
    cls := BitVec.ofNat 2 w.cls, lin := w.w4.setWidth 16, t0 := w.t0, tn := w.tn }

/-- The port's accesses for the oldest frame are over: the count consumed is in, or the slot and the count produced are
written and the record is queued; then comes the next frame (R290). One whose writes fail is dropped. -/
def State.frameDone (s : State) (i phase : Nat) (got : List Answer) : State :=
  let e := s.service i
  match phase, e.live, e.frames with
  | 0, _, _ =>
    let s := match got with
      | [.data bs] => s.onService i (fun e => { e with consumed := BitVec.ofNat 32 (leValue bs) })
      | _ => s
    s.frameNext i true (e.frames.length + 1)
  | _, some w, r :: _ =>
    if allDone got then
      let s := (s.framePop i 0).onService i (fun e => { e with produced := e.produced + 1 })
      (s.appendLaunch w.part (e.launch w r)).frameNext i false e.frames.length
    else (s.framePop i 1).frameNext i false e.frames.length
  | _, _, _ => s

/-- A frame that an entry takes waits for those before it (R288, R290). -/
def State.accept (s : State) (i : Nat) (d : Datagram) : State :=
  let fresh := (s.service i).frames.isEmpty
  let s := s.onService i (fun e => { e with frames := e.frames ++ [⟨d.block i s.now, d.payload⟩] })
  if fresh then s.frameNext i false 2 else s

/-- A frame arrives: dropped and counted, matched, or queued for the host (R285, R288). -/
def State.frameIn (s : State) (f : EthFrame) : State :=
  if f.faulty then { s with badFrames := s.badFrames + 1 }
  else match List.find? (fun e => e.2.takes (s.ethPort f.port).ips f) s.svc, f.datagram with
    | some e, some d => s.accept e.1 d
    | _, _ => { s with physQueue := s.physQueue ++ [f] }

/-- `ethernetFrameArrival` (R290). -/
def execEthernetFrameArrival (s : State) : Host.Outcome State Fault Refusal :=
  onEvent (fun e => match e with | .ethernetFrameArrival f => some (s.frameIn f) | _ => none) s

end Sys2Proof.Machine
end

