-- ==== Sys2Proof/Machine/Host.lean ====
section
/-! DEFINITION. `psend` (R292), the host link (R293), tile maps (R269), retired tiles (R82), and what the accesses of a unit
that is no strand lead to. -/

namespace Sys2Proof.Machine
open Sys2Proof

/-! ## psend (R292) -/

/-- The first word of a command that breaks the table (R292). -/
def psendBadWord (w : Vector Word 8) (ch : Nat) : Option Nat :=
  let g (i : Nat) : Word := w[i]?.getD 0
  if (g 0).toNat % 8 ≠ 0 then some 0
  else if (g 1).toNat < 1 ∨ 8952 < (g 1).toNat then some 1
  else if (g 2).toNat % 64 ≠ 0 ∨ (ch = 4 ∧ g 2 ≠ 0) then some 2
  else if (g 3).toNat % 8 ≠ 0 then some 3
  else [4, 5, 6, 7].find? (fun i => g i != 0)

/-- A payload cut where 4 KiB units end, so that each piece has one owner. -/
def pagePieces (a n : Nat) : List (Nat × Nat) :=
  (List.range ((a % 4096 + n + 4095) / 4096)).map (fun i =>
    let lo := max a ((a / 4096 + i) * 4096)
    (lo, min (a + n) ((a / 4096 + i + 1) * 4096) - lo))

/-- Translate an address that may not be peer memory. -/
def ownTarget (u : Nat) (x : Strand) (a : Word) (p : Perm) (s : State) : Except Stop (Target × State) := do
  let r ← s.translate u x a p
  match r.1.target with
  | some (t, _) => .ok (t, r.2)
  | none => .error (.trap r.2 3 a false)

/-- Translate the pieces of a payload. -/
def payTargets (u : Nat) (x : Strand) : List (Nat × Nat) → State → Except Stop (List (Target × Nat) × State)
  | [], s => .ok ([], s)
  | q :: qs, s => do
    let r ← ownTarget u x (BitVec.ofNat 64 q.1) permR s
    let rest ← payTargets u x qs r.2
    .ok ((r.1, q.2) :: rest.1, rest.2)

/-- Translate an address that is given, or none. -/
def optTarget (u : Nat) (x : Strand) (a : Word) (p : Perm) (given : Bool) (s : State) : Except Stop (Option Target × State) :=
  if given then do
    let r ← ownTarget u x a p s
    .ok (some r.1, r.2)
  else .ok (none, s)

/-- The number of a send queue. -/
def sendNo (part ch : Nat) : Nat := 8 * part + ch

/-- Queue a send, or find its queue of 64 full. -/
def queueSend (p : Pred) (ch : Nat) (q : Psend) (u : Nat) (x : Strand) (s : State) : Act :=
  let part := s.partOfTile x.tile
  let l := SMap.getD s.psendq (sendNo part ch) []
  if 64 ≤ l.length then .ok ((s.onStrand u (fun y => y.setPred p true)).retire u)
  else
    let s := { s with psendq := SMap.put s.psendq (sendNo part ch) (l ++ [q]) }
    let s := if l = [] then s.schedule (s.now + 1) 1 (.psendTransmit part ch) else s
    .ok ((s.onStrand u (fun y => y.setPred p false)).retire u)

/-- `psend` (R292). -/
def execPsend (r : BitVec 5) (p : BitVec 4) (c : BitVec 4) (s : State) : Host.Outcome State Fault Refusal :=
  issueWith (eightFrom r) [] (eightFrom r) (fun u x s =>
    let w := x.eight r
    let g (i : Nat) : Word := w[i]?.getD 0
    match psendBadWord w c.toNat with
    | some i => trapAct s 0x0E (BitVec.ofNat 64 i)
    | none => do
      let pay ← payTargets u x (pagePieces (g 0).toNat (g 1).toNat) s
      let blk ← optTarget u x (g 2) permR (c != 4) pay.2
      let meet ← optTarget u x (g 3) permRW (g 3 != 0) blk.2
      if x.posted.any (fun q => q.cls != 2) || meet.2.vectorMemBusy u x then waitAct meet.2
      else queueSend p c.toNat ⟨x.tile, pay.1, blk.1, meet.1⟩ u x meet.2) s

/-- The function that a partition's host messages go to: the one whose turn it is, else the one bound (R292). -/
def State.currentFn (s : State) (part : Nat) : Option Nat :=
  let p := s.part part
  if s.timeSliced part then some p.turn else (List.find? (fun e => e.2.part == part) s.fns).map (·.1)

/-- Pieces of a range that do not cross a block of 64 bytes. -/
def pieces64 (a n : Nat) : List (Nat × Nat) :=
  (List.range ((a % 64 + n + 63) / 64)).map (fun i =>
    let lo := max a ((a / 64 + i) * 64)
    (lo, min (a + n) ((a / 64 + i + 1) * 64) - lo))

/-- A target some bytes on, within its 4 KiB unit. -/
def targetPlus (tgt : Target) (n : Nat) : Target :=
  match tgt with
  | .md p d o => .md p d (o + n)
  | .ls t o => .ls t (o + n)
  | .tm p t o => .tm p t (o + n)

/-- What a send reads: its address block, then its payload, as requests of its tile (R60, R292). -/
def Psend.reads (q : Psend) : List JobStep :=
  let read (tgt : Target) (n : Nat) : JobStep := ⟨0, some tgt, permR, some (.load n)⟩
  (q.block.toList.map (fun b => read b 64)) ++
    q.pay.flatMap (fun e => (pieces64 0 e.2).map (fun r => read (targetPlus e.1 r.1) r.2))

/-- The oldest send is read (R292). -/
def State.transmit (s : State) (part ch : Nat) : State :=
  match SMap.getD s.psendq (sendNo part ch) [] with
  | [] => s
  | q :: _ => s.startJob s.now ⟨.psend part ch 0, q.tile, none, true, 0, q.reads, none, [], []⟩

/-- `psendTransmit` (R292). -/
def execPsendTransmit (s : State) : Host.Outcome State Fault Refusal :=
  onEvent (fun e => match e with | .psendTransmit p c => some (s.transmit p c) | _ => none) s

/-- A send leaves over its Ethernet port, or into the ring of its partition's function (R292). -/
def State.sendOut (s : State) (part ch : Nat) (q : Psend) (bs : List Byte) : State :=
  if ch < 4 then
    let f : EthFrame := ⟨ch, sentBytes (s.ethPort ch).mac (Config.ipOpen s.ctr) (bs.take 64) (bs.drop (if q.block.isSome then 64 else 0))⟩
    { s with sentFrames := s.sentFrames ++ [f], ctr := s.ctr + 1 }
  else match s.currentFn part with
    | some fn => { s with fns := SMap.adjust s.fns fn (fun f => { f with ring := f.ring ++ [bs] }) }
    | none => s

/-- The oldest send has been read: it leaves, its arrival is posted, and the next is read (R292). One whose bytes cannot be
read does not leave (DESIGN CHOICE, log entry 74). -/
def State.psendRead (s : State) (part ch : Nat) (got : List Answer) : State :=
  match SMap.getD s.psendq (sendNo part ch) [] with
  | [] => s
  | q :: rest =>
    let s := { s with psendq := SMap.put s.psendq (sendNo part ch) rest }
    let s := if allDone got then s.sendOut part ch q (bytesGot got) else s
    let s := match q.meet with
      | some m => s.startJob s.now ⟨.psend part ch 1, q.tile, none, true, 0,
          [⟨0, some m, permRW, some (.rmw .arrive 8 0 0)⟩], none, [], []⟩
      | none => s
    if rest = [] then s else s.schedule (s.now + 1) 1 (.psendTransmit part ch)

/-! ## The host link (R293) -/

/-- `hostLaunchAppend`: a bound function appends to its partition's queue, which takes 1024; a range of tiles as R286 asks is
asked here too (R291, R293; log entry 75). -/
def execHostLaunchAppend (s : State) : Host.Outcome State Fault Refusal :=
  onEvent (fun e => match e with
    | .hostLaunchAppend fn l => some (match SMap.find? s.fns fn with
      | some f =>
        if s.queueFull f.part l.cls.toNat || !(s.rangeOk f.part l.t0 l.tn) then s
        else s.appendLaunch f.part { l with part := f.part }
      | none => s)
    | _ => none) s

/-- A host access, a block of 64 at a time, by the function's page table; a function that is not bound reads all ones and
discards writes (R293). -/
def State.hostAccess (s : State) (a : HostAccess) : State :=
  let n := if a.write then a.bytes.length else a.len
  match (SMap.find? s.fns a.fn).bind (fun f => s.leadTile f.part) with
  | none => if a.write then s else { s with hostReads := s.hostReads ++ [List.replicate n 0xFF] }
  | some lead =>
    let step (q : Nat × Nat) : JobStep :=
      if a.write then ⟨BitVec.ofNat 64 q.1, none, permW, some (.write ((a.bytes.drop (q.1 - a.va.toNat)).take q.2))⟩
      else ⟨BitVec.ofNat 64 q.1, none, permR, some (.load q.2)⟩
    s.startJob s.now ⟨.host a.va.toNat n a.write, lead, some a.fn, false, 0, (pieces64 a.va.toNat n).map step, none, [], []⟩

/-- `hostMemoryAccess` (R293). -/
def execHostMemoryAccess (s : State) : Host.Outcome State Fault Refusal :=
  onEvent (fun e => match e with | .hostMemoryAccess a => some (s.hostAccess a) | _ => none) s

/-- What the host reads: all ones where its window has nothing (R293). -/
def State.hostDone (s : State) (va n : Nat) (write : Bool) (got : List Answer) : State :=
  if write then s
  else
    let bs := ((pieces64 va n).zip got).flatMap (fun e => match e.2 with
      | .data bs => bs
      | .fail _ => List.replicate e.1.2 0xFF)
    { s with hostReads := s.hostReads ++ [bs] }

/-- The order and lengths of a partition's slices: those that the host programs, then the bound functions that it leaves out.
The running function runs on, and a partition with two or more is time-sliced from now on (R269; DESIGN CHOICE, log entry
46). -/
def State.programSlices (s : State) (part : Nat) (order slices : List Nat) : State :=
  let p := s.part part
  let bound := (List.filter (fun e => e.2.part == part) s.fns).map (·.1)
  let fns := order ++ bound.filter (fun f => !(order.contains f))
  let s := s.onPart part (fun x =>
    { x with fns := fns, slices := slices.take order.length, cur := if fns.contains p.turn then fns.idxOf p.turn else 0, sliceStamp := 0 })
  if s.timeSliced part then s.startSlice part (s.leadCollector part) s.now else s

/-- The numbers of a binding that exist: 1024 functions and 48 partitions (R12, R293). -/
def bindable (b : Binding) : Bool :=
  decide (b.fn < Config.functions) && b.order.all (fun f => decide (f < Config.functions))
    && (match b.part with | some p => decide (p < Config.partitions) | none => true)

/-- The host binds a function to a partition or unbinds it, and programs slices; without an order the bound functions take turns
in the order in which they were bound, with slices of 0 (R269, R293; DESIGN CHOICE, log entry 46). -/
def State.bindFn (s : State) (b : Binding) : State :=
  if !(bindable b) then s
  else match b.part with
    | none => { s with fns := SMap.erase s.fns b.fn }
    | some p =>
      let ring := ((SMap.find? s.fns b.fn).map (·.ring)).getD []
      let sliced := s.timeSliced p
      let s := { s with fns := SMap.put s.fns b.fn ⟨p, b.ptbase, [], [], ring⟩ }
      if b.order ≠ [] then s.programSlices p b.order b.slices
      else
        let fns := (s.part p).fns
        let all := if fns.contains b.fn then fns else fns ++ [b.fn]
        if sliced then s.onPart p (fun x => { x with fns := all }) else s.programSlices p all (s.part p).slices

/-- `virtualFunctionBinding` (R293). -/
def execVirtualFunctionBinding (s : State) : Host.Outcome State Fault Refusal :=
  onEvent (fun e => match e with | .virtualFunctionBinding b => some (s.bindFn b) | _ => none) s

/-! ## Accesses of units that are no strand (R60) -/

/-- What a unit does once its accesses are over. -/
def State.jobDone (s : State) (id : Nat) (j : Job) : State :=
  let s' := { s with jobs := SMap.erase s.jobs id }
  match j.who with
  | .peer m src t tag posted sent =>
    let s' := if sent.isSome then s' else s'.nextOfPair m src
    match j.got with
    | a :: _ => s'.peerAnswer m t tag posted a
    | [] => s'
  | .ring d phase => s'.ringDone d phase j.got
  | .register i =>
    if (s.service i).frames.isEmpty then s'.registered id i j.got j.tgts else s.schedule (s.now + 1) 1 (.job id)
  | .frame i phase => s'.frameDone i phase j.got
  | .psend part ch phase => if phase = 0 then s'.psendRead part ch j.got else s'
  | .host va n write => s'.hostDone va n write j.got

/-- A unit goes on: with its next access, or with what comes after the last. An access of a peer module waits while one
of its pair before it has not left (R250). -/
def State.jobRun (s : State) (id : Nat) : State :=
  match SMap.find? s.jobs id with
  | none => s
  | some j => match j.todo with
    | st :: _ => if s.behind id j then s else s.jobStep id j st
    | [] => s.jobDone id j

/-! ## Tile maps and retired tiles (R82, R269) -/

/-- A partition is pre-empted or stopped. -/
def State.isOut (s : State) (part : Nat) : Bool :=
  let m := (s.part part).mode
  m == .saved || m == .stopped

/-- A partition's tile map is written, while every partition that it touches is out (R269). -/
def State.writeTileMap (s : State) (part : Nat) (tiles : List Nat) : State :=
  let touched := part :: tiles.map s.partOfTile
  if Config.partitions ≤ part ∨ tiles.any (fun t => decide (Config.tiles ≤ t)) = true
      ∨ touched.any (fun p => p != noPart && !(s.isOut p)) = true then s
  else
    let gone := (s.tilesOf part).filter (fun t => !(tiles.contains t))
    let m := gone.foldl (fun m t => SMap.put m t noPart) s.partOf
    { s with partOf := tiles.foldl (fun m t => SMap.put m t part) m }

/-- `tileMapWrite` (R269). -/
def execTileMapWrite (s : State) : Host.Outcome State Fault Refusal :=
  onEvent (fun e => match e with | .tileMapWrite p l => some (s.writeTileMap p l) | _ => none) s

/-- What two tiles have saved by number: the second's own where it has any. -/
def unlessOwn {α : Type} (own : α → Bool) (v w : SMap α) : SMap α :=
  v.foldl (fun m e => match SMap.find? m e.1 with
    | some x => if own x then m else SMap.put m e.1 e.2
    | none => SMap.put m e.1 e.2) w

/-- The core of a replacement that takes a core's contexts: the same, or its first when it has no such user core. -/
def coreOn (r c : Nat) : Nat := if (Config.userCores r).contains c then c else (Config.userCores r).headD 0

/-- Lists by core, with another tile's behind them. -/
def joinCores (r : Nat) (v w : SMap (List Nat)) : SMap (List Nat) :=
  v.foldl (fun m e => SMap.put m (coreOn r e.1) (SMap.getD m (coreOn r e.1) [] ++ e.2)) w

/-- A saved record of a retired tile joins what its replacement `r` has saved under the same key. An engine, a channel or a
handle that the replacement uses itself stays its own (R269; DESIGN CHOICE, log entry 76). -/
def Saved.onto (r : Nat) (v w : Saved) : Saved :=
  { key := w.key, cell := w.cell, out := true, kennel := joinCores r v.kennel w.kennel, lent := joinCores r v.lent w.lent,
    fetch := { w.fetch with chans := Vector.ofFn (fun i : Fin 8 =>
      if w.fetch.chans[i].cmds.isEmpty then v.fetch.chans[i] else w.fetch.chans[i]) },
    matrix := if w.matrix.holder.isSome then w.matrix else v.matrix,
    xch := { w.xch with chans := Vector.ofFn (fun i : Fin 4 =>
      if w.xch.chans[i].st = 0 then v.xch.chans[i] else w.xch.chans[i]) },
    vunits := unlessOwn (fun x => x.holder.isSome) (v.vunits.map (fun e => (coreOn r e.1, e.2))) w.vunits,
    cbs := unlessOwn (fun _ => true) v.cbs w.cbs,
    ops := w.ops ++ v.ops.map (fun o => { o with tile := r }),
    fixes := v.fixes.foldl (fun m e => SMap.put m e.1 e.2) w.fixes, wakes := v.wakes.foldl (fun m e => SMap.put m e.1 e.2) w.wakes }

/-- A tile's number, or its replacement's. -/
def moved (t r u : Nat) : Nat := if u = t then r else u

/-- A birth's source on a replacement. -/
def Birth.moved (t r : Nat) : Birth → Birth
  | .handler u ch id => .handler (Machine.moved t r u) ch id
  | .stepped u => .stepped (Machine.moved t r u)
  | b => b

/-- What a strand keeps of a tile whose records have moved to its replacement. -/
def Strand.moved (t r : Nat) (x : Strand) : Strand :=
  { x with tile := Machine.moved t r x.tile, home := Machine.moved t r x.home, birth := x.birth.moved t r,
           handler := x.handler.map (fun h => (Machine.moved t r h.1, h.2)),
           place := match x.place with
             | .saved u c key l => if u = t then .saved r (if c < 4 then coreOn r c else c) key l else .saved u c key l
             | p => p }

/-- A record joins what the replacement has saved under the same key, and both are written into the replacement's area, which
lies at the same place on its tile (R269). -/
def State.joinRecord (s : State) (r : Nat) (v : Saved) : State :=
  let b := match SMap.find? s.saved (savedNo r v.key) with
    | some w => if w.out then s.readArea r w else (Saved.none v.key w.cell, s)
    | none => (Saved.none v.key (cellNo r false (cellOff v.cell)), s)
  let joined := v.onto r b.1
  State.writeArea { b.2 with saved := SMap.put b.2.saved (savedNo r v.key) joined } r joined.cell joined

/-- The records of a retired tile that are yet to be restored go onto its replacement (R269). -/
def State.moveSaved (s : State) (t r : Nat) : State :=
  let a := ((SMap.inRange s.saved (savedNo t 0) (savedNo (t + 1) 0)).filter (fun e => e.2.out)).foldl
    (fun (a : List Saved × State) e =>
    let x := a.2.readArea t e.2
    (a.1 ++ [x.1], x.2)) ([], s)
  a.1.foldl (fun s v => s.joinRecord r v)
    { a.2 with saved := SMap.dropRange a.2.saved (savedNo t 0) (savedNo (t + 1) 0),
               strands := a.2.strands.map (fun e => (e.1, e.2.moved t r)) }

/-- Exchange channels whose peer is gone for good end in error (R236). -/
def State.peersGone (s : State) : State :=
  s.xchs.foldl (fun s e => (List.range 4).foldl (fun s ch =>
    let x := s.xchan e.1 ch
    if x.st ≠ 0 ∧ x.st ≠ 4 ∧ s.gone x.peer = true then s.xchError e.1 ch 3 else s) s) s

/-- A retirement that the module can hold: of a tile that is there, without a replacement or with one of its partition; a die's
crossbar holds eight forwarding entries (R12, R82). -/
def State.retirable (s : State) (t : Nat) (r : Option Nat) : Bool :=
  decide (t < Config.tiles) && (match r with
    | none => true
    | some x => decide (x < Config.tiles) && x != t && s.partOfTile x == s.partOfTile t
        && decide ((s.retired.filter (fun e => e.2.isSome && e.1 != t && Config.dieOf e.1 == Config.dieOf t)).length < 8))

/-- A tile is retired, with a forwarding entry or without, while its partition is out (R82, R269). -/
def State.retireTile (s : State) (t : Nat) (r : Option Nat) : State :=
  if !(s.retirable t r) ∨ s.partOfTile t ≠ noPart ∧ s.isOut (s.partOfTile t) = false then s
  else match r with
    | none => State.peersGone { s with retired := SMap.put s.retired t none }
    | some x => State.moveSaved { s with retired := SMap.put s.retired t (some x) } t x

/-- `forwardingEntryInstall` (R82). -/
def execForwardingEntryInstall (s : State) : Host.Outcome State Fault Refusal :=
  onEvent (fun e => match e with | .forwardingEntryInstall t r => some (s.retireTile t r) | _ => none) s

end Sys2Proof.Machine
end

