-- ==== Sys2Proof/Machine/Boot.lean ====
section
/-! DEFINITION. Boot (R294), measurement (R295), the supervisor core's restart (R258), quotes (R295), and thermal limits
(R296). -/

namespace Sys2Proof.Machine
open Sys2Proof

/-! ## SHA-384 (R294, R295): the secure hash standard, FIPS 180-4 -/

def shaK0 : List Word :=
  [
   0x428A2F98D728AE22, 0x7137449123EF65CD, 0xB5C0FBCFEC4D3B2F, 0xE9B5DBA58189DBBC,
   0x3956C25BF348B538, 0x59F111F1B605D019, 0x923F82A4AF194F9B, 0xAB1C5ED5DA6D8118,
   0xD807AA98A3030242, 0x12835B0145706FBE, 0x243185BE4EE4B28C, 0x550C7DC3D5FFB4E2,
   0x72BE5D74F27B896F, 0x80DEB1FE3B1696B1, 0x9BDC06A725C71235, 0xC19BF174CF692694,
   0xE49B69C19EF14AD2, 0xEFBE4786384F25E3, 0x0FC19DC68B8CD5B5, 0x240CA1CC77AC9C65 ]
def shaK1 : List Word :=
  [
   0x2DE92C6F592B0275, 0x4A7484AA6EA6E483, 0x5CB0A9DCBD41FBD4, 0x76F988DA831153B5,
   0x983E5152EE66DFAB, 0xA831C66D2DB43210, 0xB00327C898FB213F, 0xBF597FC7BEEF0EE4,
   0xC6E00BF33DA88FC2, 0xD5A79147930AA725, 0x06CA6351E003826F, 0x142929670A0E6E70,
   0x27B70A8546D22FFC, 0x2E1B21385C26C926, 0x4D2C6DFC5AC42AED, 0x53380D139D95B3DF,
   0x650A73548BAF63DE, 0x766A0ABB3C77B2A8, 0x81C2C92E47EDAEE6, 0x92722C851482353B ]
def shaK2 : List Word :=
  [
   0xA2BFE8A14CF10364, 0xA81A664BBC423001, 0xC24B8B70D0F89791, 0xC76C51A30654BE30,
   0xD192E819D6EF5218, 0xD69906245565A910, 0xF40E35855771202A, 0x106AA07032BBD1B8,
   0x19A4C116B8D2D0C8, 0x1E376C085141AB53, 0x2748774CDF8EEB99, 0x34B0BCB5E19B48A8,
   0x391C0CB3C5C95A63, 0x4ED8AA4AE3418ACB, 0x5B9CCA4F7763E373, 0x682E6FF3D6B2B8A3,
   0x748F82EE5DEFB2FC, 0x78A5636F43172F60, 0x84C87814A1F0AB72, 0x8CC702081A6439EC ]
def shaK3 : List Word :=
  [
   0x90BEFFFA23631E28, 0xA4506CEBDE82BDE9, 0xBEF9A3F7B2C67915, 0xC67178F2E372532B,
   0xCA273ECEEA26619C, 0xD186B8C721C0C207, 0xEADA7DD6CDE0EB1E, 0xF57D4F7FEE6ED178,
   0x06F067AA72176FBA, 0x0A637DC5A2C898A6, 0x113F9804BEF90DAE, 0x1B710B35131C471B,
   0x28DB77F523047D84, 0x32CAAB7B40C72493, 0x3C9EBE0A15C9BEBC, 0x431D67C49C100D4C,
   0x4CC5D4BECB3E42B6, 0x597F299CFC657E2A, 0x5FCB6FAB3AD6FAEC, 0x6C44198C4A475817 ]
/-- The eighty round constants. -/
def shaK : List Word := shaK0 ++ shaK1 ++ shaK2 ++ shaK3
/-- The initial hash value of SHA-384. -/
def shaH : List Word :=
  [
   0xCBBB9D5DC1059ED8, 0x629A292A367CD507, 0x9159015A3070DD17, 0x152FECD8F70E5939,
   0x67332667FFC00B31, 0x8EB44A8768581511, 0xDB0C2E0D64F98FA7, 0x47B5481DBEFA4FA4 ]

def rotr (x : Word) (n : Nat) : Word := x.rotateRight n

/-- The message schedule, newest word first, extended by `n` words. -/
def shaSchedule : Nat → List Word → List Word
  | 0, w => w
  | n + 1, w =>
    let a := w.getD 1 0
    let b := w.getD 14 0
    let s1 := rotr a 19 ^^^ rotr a 61 ^^^ a >>> 6
    let s0 := rotr b 1 ^^^ rotr b 8 ^^^ b >>> 7
    shaSchedule n ((s1 + w.getD 6 0 + s0 + w.getD 15 0) :: w)

/-- One round on the eight working words. -/
def shaRound (v : List Word) (kw : Word × Word) : List Word :=
  let g (i : Nat) : Word := v.getD i 0
  let e := g 4
  let a := g 0
  let t1 := g 7 + (rotr e 14 ^^^ rotr e 18 ^^^ rotr e 41) + ((e &&& g 5) ^^^ (~~~e &&& g 6)) + kw.1 + kw.2
  let t2 := (rotr a 28 ^^^ rotr a 34 ^^^ rotr a 39) + ((a &&& g 1) ^^^ (a &&& g 2) ^^^ (g 1 &&& g 2))
  [t1 + t2, a, g 1, g 2, g 3 + t1, e, g 5, g 6]

/-- A big-endian word. -/
def beWord (bs : List Byte) : Word := BitVec.ofNat 64 (leValue bs.reverse)

/-- Sixteen words of a block, newest first. -/
def blockWords (bs : List Byte) : List Word := ((List.range 16).map (fun i => beWord ((bs.drop (8 * i)).take 8))).reverse

/-- Compress the blocks of a padded message. -/
def shaBlocks : Nat → List Byte → List Word → List Word
  | 0, _, h => h
  | n + 1, bs, h =>
    let w := (shaSchedule 64 (blockWords (bs.take 128))).reverse
    let v := (shaK.zip w).foldl shaRound h
    shaBlocks n (bs.drop 128) (List.zipWith (· + ·) h v)

/-- The padded message. -/
def shaPad (m : List Byte) : List Byte :=
  m ++ [0x80] ++ List.replicate ((239 - m.length % 128) % 128) 0 ++ beBytes 16 (8 * m.length)

/-- SHA-384. -/
def sha384 (m : List Byte) : List Byte :=
  let p := shaPad m
  ((shaBlocks (p.length / 128) p shaH).take 6).flatMap (fun w => beBytes 8 w.toNat)

/-! ## Measurement and boot (R294, R295) -/

/-- m := SHA-384(m followed by d) in a measurement register (R295). -/
def Die.extend (x : Die) (i : Nat) (d : List Byte) : Die :=
  { x with meas := x.meas.setIfInBounds i (sha384 ((x.meas[i]?.getD []) ++ d)) }

/-- The image and its signature pass the check against the root key (R294). -/
def imageOk (bytes sig : List Byte) : Bool := Config.rootSigned (sha384 bytes) sig

/-- The context of a supervisor strand at pc 0 on tile 0, its registers zero. -/
def rootCtx : Ctx :=
  { g := Vector.replicate 24 0, pred := 1, pc := 0, pseq := 0, lin := 0, sid := 0, rpin := false, xpin := false,
    sup := true, cls := 0, tcause := 0, tvec := 0, tseq := 0, tpc := 0, tval := 0, nstop := 0, alt := 0, prev := 0,
    cur := 0, pmin := 16, plim := 4, hleft := 0, phold := 4096 }

/-- The supervisor strand that runs the firmware of a die, on core 0 of its die-local tile 0 (R11, R294). -/
def firmwareStrand (s : State) (d : Nat) (sid : BitVec 32) (image : List Byte) : Strand :=
  let t := Config.tile0 d
  let r := s.regs t
  let c : Ctx := { rootCtx with pc := Config.firmwareEntry image, sid := sid, tvec := r.dtvec, pmin := r.dpinmin,
                                plim := r.dpinlim, phold := r.dpinhold, prev := BitVec.ofNat 12 t, cur := BitVec.ofNat 12 t }
  Strand.fresh c t .none

/-- The die stays in reset, and the failure is reported through its slot of the mailbox (R294). -/
def State.bootFails (s : State) (d : Nat) : State :=
  let s := s.onDie d (fun x => { x with failed := true, booted := false })
  { s with mailbox := SMap.put s.mailbox d [BitVec.ofNat 64 d] }

/-- The image that a boot ROM reads: the carrier flash's, or the host's where the flash holds none (R294). -/
def State.bootImage (s : State) : Option Firmware :=
  match s.flash with
  | some f => some f
  | none => s.hostImage

/-- The four steps of the boot ROM of a compute-side die and the measurement of the configuration records (R294). -/
def State.bootDie (s : State) (d : Nat) : State :=
  match s.bootImage with
  | none => s.bootFails d
  | some f =>
    let s := s.onDie d (fun x => x.extend 0 (sha384 f.bytes))
    if !(imageOk f.bytes f.sig) then s.bootFails d
    else
      let s := s.onDie d (fun x => f.config.foldl (fun x c => x.extend 1 (sha384 c.1)) { x with booted := true, failed := false, image := f.bytes })
      let i := s.newSid (Config.tile0 d)
      let a := i.2.addStrand (firmwareStrand s d i.1 f.bytes)
      a.2.askBirth (Config.tile0 d) a.1

/-- What a signed configuration record sets (R294). What names a tile, a partition, a die, a link or a port that is not there
sets nothing. The manual gives no register or record that names the exported partition (R59); here such a record does, at boot
(DESIGN CHOICE, log entry 83). -/
def State.setting (s : State) : Setting → State
  | .modnum n => { s with modnum := n }
  | .harvest d m => if d < Config.dies then { s with harvest := SMap.put s.harvest d m } else s
  | .retire t r => if s.retirable t r then { s with retired := SMap.put s.retired t r } else s
  | .member t p => if t < Config.tiles ∧ p ≤ noPart then { s with partOf := SMap.put s.partOf t p } else s
  | .linkSet m l => { s with linkSets := SMap.put s.linkSets m (l.filter (· < Config.links)) }
  | .linkPart p => if p < Config.partitions then { s with linkParts := p :: s.linkParts.filter (· != p) } else s
  | .trim l n v => if l < Config.links then { s with trims := SMap.put s.trims (8 * l + n % 8) v } else s
  | .exported p => if p < Config.partitions then { s with exportPart := some p } else s
  | .port n m ips => if n < 4 then { s with ports := SMap.put s.ports n ⟨m, ips⟩ } else s

/-- The firmware reads the configuration records in order; one whose check passes sets what its bytes say (R294; log entry
71). -/
def State.configure (s : State) (f : Firmware) : State :=
  f.config.foldl (fun s c => if imageOk c.1 c.2 then (Config.settings c.1).foldl State.setting s else s) s

/-- The firmware writes zero to every byte of the die's memory and local store (R294). -/
def State.clearMemory (s : State) (d : Nat) : State :=
  let mine (k : Nat) : Bool := cellTile k < Config.tiles && Config.dieOf (cellTile k) == d
  { s with mem := s.mem.filter (fun c => !(mine c.1)), poison := s.poison.filter (fun c => !(mine c.1)),
           backing := s.backing.filter (fun c => !(mine c.1)) }

/-- `powerOnReset`: a die boots; verified firmware applies the configuration and clears memory (R294). An I/O die has no
supervisor core, and nothing of it boots (R12; DESIGN CHOICE, log entry 3). -/
def State.powerOn (s : State) (d : Nat) : State :=
  if Config.dies ≤ d then s
  else
    let s := s.bootDie d
    match s.bootImage with
    | some f => if (s.die d).booted then (s.configure f).clearMemory d else s
    | none => s

/-- The measurement registers of a die that is reset (R258, R295). -/
def State.clearMeasures (s : State) (d : Nat) : State :=
  s.onDie d (fun x => { x with meas := Vector.replicate 8 (List.replicate 48 0) })

/-- The host supplies an image through the physical function: the dies that stay in reset, where the flash holds none, boot from
it (R294; log entry 3). -/
def State.hostSupplies (s : State) (f : Firmware) : State :=
  let s := { s with hostImage := some f }
  if s.flash.isSome then s
  else (List.range Config.dies).foldl (fun s d => if (s.die d).failed then (s.clearMeasures d).powerOn d else s) s

/-- `powerOnReset` (R294). -/
def execPowerOnReset (s : State) : Host.Outcome State Fault Refusal :=
  onEvent (fun e => match e with | .powerOnReset d => some (s.powerOn d) | _ => none) s

/-- The supervisor strands of a die: those whose core is its tile 0's, wherever their context is (R11, R142). -/
def State.supervisors (s : State) (d : Nat) : List (Nat × Strand) :=
  List.filter (fun e => e.2.ctx.sup && e.2.home == Config.tile0 d) s.strands

/-- A supervisor strand of tile `t` is discarded: its claims, with what they have queued and the sides it holds, and whatever a
tile keeps for it (R258). -/
def State.discard (s : State) (t u : Nat) (x : Strand) : State :=
  let s := if s.mclaims t u then s.dropMatrix t else s
  let s := if (s.vunit t 0).holder = some u then s.releaseUnit t 0 else s
  let s := (s.tiles.map (·.1)).foldl (fun s a => s.forget a (· == u)) s
  s.killStrand u x

/-- `supervisorCoreRestart`: the core's strands go with their claims; the die measures itself again and boots; every
other thing on its tiles stands (R258). A core whose image fails its check stays stopped (R294). -/
def State.restartCore (s : State) (d : Nat) : State :=
  if Config.dies ≤ d then s
  else
    let t := Config.tile0 d
    let inReset := (s.die d).failed
    let s := (s.supervisors d).foldl (fun s e => s.discard t e.1 e.2) s
    let s := (s.clearMeasures d).bootDie d
    (s.onCore t 0 (fun k => { k with stopped := !(s.die d).booted })).onDie d (fun x => { x with failed := inReset })

/-- `supervisorCoreRestart` (R258). -/
def execSupervisorCoreRestart (s : State) : Host.Outcome State Fault Refusal :=
  onEvent (fun e => match e with | .supervisorCoreRestart d => some (s.restartCore d) | _ => none) s

/-! ## Quotes (R295) -/

/-- The measurement registers of a die, in order. -/
def Die.registers (x : Die) : List Byte := x.meas.toList.flatten

/-- The report that I/O die 36 returns for a nonce: the die number, every register, the nonce, each die's signature of
its registers, and that of die 36 over all (R295). -/
def State.quote (s : State) (nonce : List Byte) : List Byte :=
  let dies := List.range 38
  let key (d : Nat) : List Byte := Config.deviceKey d ((s.die d).meas[0]?.getD [])
  let regs := dies.flatMap (fun d => (s.die d).registers)
  let body := [36] ++ regs ++ nonce ++ dies.flatMap (fun d => Config.sign (key d) (s.die d).registers)
  body ++ Config.sign (key 36) body

/-- `quoteRequest` (R295). -/
def execQuoteRequest (s : State) : Host.Outcome State Fault Refusal :=
  onEvent (fun e => match e with
    | .quoteRequest n => some { s with reports := s.reports ++ [s.quote n] }
    | _ => none) s

/-! ## Power and cooling (R296) -/

/-- `thermalGovernance`: matrix steps and vector issue of the die are delayed, and the delay is counted (R296). -/
def execThermalGovernance (s : State) : Host.Outcome State Fault Refusal :=
  onEvent (fun e => match e with
    | .thermalGovernance d n =>
      some (s.onDie d (fun x => { x with hot := max x.hot (s.now + n), delays := x.delays + 1 }))
    | _ => none) s

/-- `thermalShutdown`: the host is alerted, the module powers down, and memory is lost (R296). -/
def execThermalShutdown (s : State) : Host.Outcome State Fault Refusal :=
  onEvent (fun e => match e with
    | .thermalShutdown =>
      some { s with powered := false, mem := [], poison := [], cache := [], backing := [], msix := s.msix ++ [0] }
    | _ => none) s

end Sys2Proof.Machine
end

