-- ==== Sys2Proof/Machine/Errors.lean ====
section
/-! DEFINITION. Errors that cannot be corrected, wherever an access or a check meets them (R62, R64, R77, R89, R156, R213,
R254). -/

namespace Sys2Proof.Machine
open Sys2Proof

/-- The strand whose context lies in the area of a tile's pool that a sector belongs to (R77). -/
def State.lentAt (s : State) (t sector : Nat) : Option Nat :=
  let pool := (Config.memSize t - Config.poolSize) / 64
  if sector < pool then none
  else (List.find? (fun e => e.2 == (sector - pool) / 4) (s.lentAreas t)).map (·.1)

/-- A lent context that lies in a poisoned sector is lost (R89). -/
def State.loseLent (s : State) (t sector : Nat) : State :=
  match s.lentAt t sector with
  | some u => if s.poisoned (cellNo t false (64 * sector)) then s.loseContext u else s
  | none => s

/-- A sector of a tile's memory is uncorrectable: it is poisoned, and a lent context there is lost, unless the tile cache
holds the sector dirty (R60, R62, R89). -/
def State.sectorLost (s : State) (t sector : Nat) : State :=
  (s.spoilSector (cellNo t false (64 * sector))).loseLent t sector

/-- A sector that the tile cache holds is uncorrectable there, clean or dirty: it is poisoned, and what the memory behind a
dirty one holds stays as it is (R60, R62, R89). -/
def State.cachedLost (s : State) (t sector : Nat) : State :=
  let q := cellNo t false (64 * sector)
  if s.inCache q then (s.setPoison q).loseLent t sector else s

/-- `patrolScrub`: a sector is read and corrected; an uncorrectable one is marked poisoned (R62). A rate of 0 stops
patrol scrub (R272). -/
def execPatrolScrub (s : State) : Host.Outcome State Fault Refusal :=
  onEvent (fun e => match e with
    | .patrolScrub t sec bad =>
      some (if (s.regs t).scrubrate ≠ 0 ∧ bad = true ∧ 64 * sec < Config.memSize t then s.sectorLost t sec else s)
    | _ => none) s

/-- What is uncorrectable is poisoned; a packet's payload is treated at its destination (R89, R254). -/
def State.uncorrectable (s : State) : ErrorAt → State
  | .sector t n => if 64 * n < Config.memSize t then s.sectorLost t n else s
  | .cached t n => if 64 * n < Config.memSize t then s.cachedLost t n else s
  | .lsWord t n => if 8 * n < Config.lsSize t then s.setPoison (cellNo t true (8 * n)) else s
  | .element t c v n =>
    if v < 8 ∧ n < 1024 then
      s.onVunit t c (fun x => { x with poison := SMap.put x.poison (1024 * v + n) (7, elementForm (1024 * v + n)) })
    else s
  | .accum t n => if n < 16384 then s.onMatrix t (fun m => { m with poison := n :: m.poison.filter (· != n) }) else s
  | .flight n => { s with agenda := (List.range s.agenda.length).zip s.agenda |>.map (fun e =>
      if e.1 = n then { e.2 with ev := onPacket spoilPacket e.2.ev } else e.2) }

end Sys2Proof.Machine
end

