-- ==== Sys2Proof/Machine/Cycle.lean ====
section
/-! DEFINITION. What happens next: the order of events and issues within a cycle, the choice of a strand (R71, R75),
fetching, decoding, privilege and guard (R35, R36, R41), pending trap events (R260), and the passing of time. -/

namespace Sys2Proof.Machine
open Sys2Proof

/-! ## Choosing a strand (R71) -/

/-- A `spawn` child of the strand has been refused and is not yet admitted: the strand issues nothing. An instruction that
was issued before stands (R127). -/
def State.heldByChild (s : State) (x : Strand) : Bool :=
  x.prog.phase == 0 && !x.tried && (match x.child with
    | none => false
    | some c => match s.strand c with
      | none => false
      | some y => y.asked)

/-- The barrel slot `n` of core number `k`. A slot of a strand that has left stays taken until the answer (R73, R81). -/
def slotAt (k n : Nat) : Place := .slot (k / 4) (k % 4) n

/-- A strand in slot `n` of core number `k` that may go on in this cycle: `going` asks for one in the middle of an
instruction that has issued, else for one that may issue. -/
def State.mayIssue (s : State) (k n u : Nat) (going : Bool) : Bool :=
  match s.strand u with
  | none => false
  | some x => x.place == slotAt k n && x.run == .ready && x.marked.isNone && !(s.heldByChild x)
      && (if going then x.prog.phase != 0
          else decide (x.nextAt ≤ s.now) && (x.ctx.sup || !((s.tile x.tile).halted)))

/-- The order in which a core looks at its slots: after the rotation pointer, round once. -/
def rotation (rot : Nat) : List Nat := (List.range 16).map (fun i => (rot + 1 + i) % 16)

/-- The first strand of a core, in rotation, that may go on or issue. -/
def State.firstOf (s : State) (no : Nat) (k : Core) (going : Bool) : Option Nat :=
  (rotation k.rot).findSome? (fun n => match SMap.find? k.slots n with
    | some u => if s.mayIssue no n u going then some u else none
    | none => none)

/-- A core of a die that stays in reset, because its boot has failed (R294). -/
def State.inReset (s : State) (no : Nat) : Bool := (s.die (Config.dieOf (no / 4))).failed

/-- The strand that a core turns to in this cycle: an instruction in progress goes on without an issue; then the core
issues once (R71). -/
def State.coreNext (s : State) (no : Nat) (k : Core) : Option Nat :=
  if k.stopped || s.inReset no then none
  else match s.firstOf no k true with
    | some u => some u
    | none => if s.now < k.issued then none else s.firstOf no k false

/-- The strands from which the cores that have not issued in this cycle may issue. -/
def State.issuers (s : State) : List Nat := s.cores.filterMap (fun e => s.coreNext e.1 e.2)

/-- The issuing strand; among several cores the order within a cycle is open (log entry 6). -/
def State.choose (s : State) : List Nat → Option (Nat × State)
  | [] => none
  | [u] => some (u, s)
  | u :: us =>
    let f := s.free .core
    some ((u :: us).getD (f.1 % (us.length + 1)) u, f.2)

/-! ## Before an instruction executes (R35, R41, R260) -/

/-- Instructions that only supervisor mode may execute (R41, R273). -/
def supervisorOnly : Instr → Bool
  | .tret | .tlbi _ _ | .tlbia _ | .cwb _ _ | .cinv _ _ | .domset _ _ _ | .preemptSave _ _ _
  | .preemptRestore _ _ _ | .preemptReset _ _ _ | .pack _ _ _ | .prest _ _ _ | .sres _ _ | .sredir _ _
  | .mcset _ _ _ | .mcclr _ _ | .fres _ _ _ | .fabt _ _ _ => true
  | .csrr _ c | .csrw _ c | .csrs _ c | .csrc _ c => decide (0x800 ≤ c.toNat)
  | _ => false

/-- The operation of the shared word of `preempt` is named by its third operand (R278). -/
def preemptForm (i : Instr) (x : Strand) : Instr :=
  match i with
  | .preemptSave d a b =>
    if (x.reg a).extractLsb' 8 2 = 1 then .preemptRestore d a b
    else if (x.reg a).extractLsb' 8 2 = 2 then .preemptReset d a b
    else .preemptSave d a b
  | i => i

/-- Instructions that sample a value of their cycle's end: they read it after every update that the hardware makes in the
cycle in which they issue (R109, R125, R190, R192, R221, R226, R238). -/
def samples : Instr → Bool
  | .csrr _ _ | .csrs _ _ | .csrc _ _ | .rdout _ | .fid _ _ | .fdone _ _ | .fstat _ _ | .cbcnt _ _ | .mstat _
  | .xstat _ _ => true
  | _ => false

/-- Such an instruction of the strand stalls, and so leaves its core's issue to another slot: a register that it reads or writes
is pending, or it asks another tile while eight registers are pending (R71, R72). -/
def State.samplerStalls (s : State) (x : Strand) : Instr → Bool
  | .csrr d c => x.isPending d || (decide (0x800 ≤ c.toNat) && c.toNat != 0x810 && s.csrTile x c.toNat != x.tile
      && decide (8 ≤ x.pending.length))
  | .csrs a _ | .csrc a _ => x.isPending a
  | .rdout d | .fid d _ | .fdone d _ | .fstat d _ | .cbcnt d _ | .mstat d | .xstat d _ => x.isPending d
  | _ => false

/-- The strand's next work is such an instruction, and it issues: no trap event is due before it, its word is at hand, and it
does not stall. -/
def State.samplesNext (s : State) (u : Nat) : Bool :=
  match s.strand u with
  | none => false
  | some x =>
    x.refusals.isEmpty && x.engTrap.isNone && (match (s.wordAtHand x).map decode with
      | some (.ok i) => samples i && !(s.samplerStalls x i)
      | _ => false)

/-- What to do next. -/
inductive Work where
  /-- an instruction or step to execute -/
  | run (i : Instr) (s : State)
  /-- the next state -/
  | done (s : State)
  /-- nothing will ever happen -/
  | idle

/-- A strand in focus meets its word: illegal, privileged, guarded off, or executed. -/
def State.dispatch (s : State) (u t c n : Nat) (x : Strand) (w : Half) : Work :=
  let s := { s with word := w }
  let going := x.prog.phase != 0
  match decode w with
  | .error _ => .done (finish u t c n going (trapAct s 1 (toWord w)))
  | .ok i =>
    if supervisorOnly i && !x.ctx.sup then .done (finish u t c n going (trapAct s 1 (toWord w)))
    else if !(unguarded w) && !(guardHolds (guardOf w) x.ctx) then .done (finish u t c n going (.ok (s.retire u)))
    else .run (preemptForm i x) s

/-- The strand `u` takes its turn: a pending trap event first, else its next instruction (R260). -/
def State.turn (s : State) (u : Nat) : Work :=
  match s.strand u with
  | none => .done s
  | some x => match x.place with
    | .slot t c n =>
      let s := { s with focus := u }
      if x.refusals ≠ [] then .run .deferredRefusalTrap { s with event := .deferredRefusalTrap u }
      else if x.engTrap.isSome then .run .deferredEngineTrap { s with event := .deferredEngineTrap u }
      else match s.fetchWord u x with
        | .error e => .done (finish u t c n (x.prog.phase != 0) (.error e))
        | .ok (w, s) => s.dispatch u t c n x w
    | _ => .done s

/-! ## Time -/

/-- The first cycle after this one in which a strand of a core may issue or tries again. -/
def State.coreWake (s : State) (no : Nat) (k : Core) : Option Nat :=
  if k.stopped || s.inReset no then none
  else (k.slots.filterMap (fun e => match s.strand e.2 with
    | none => none
    | some x =>
      if x.place != slotAt no e.1 || x.marked.isSome || s.heldByChild x then none
      else if x.run = .stalled then some (s.now + 1)
      else if x.run = .ready then some (if x.prog.phase != 0 then s.now + 1 else max x.nextAt (s.now + 1))
      else none)).min?

/-- The next cycle in which something may happen. -/
def State.nextCycle (s : State) : Option Nat :=
  ((match s.agenda with | e :: _ => [max e.due (s.now + 1)] | [] => []) ++ s.cores.filterMap (fun e => s.coreWake e.1 e.2)).min?

/-- Strands that were stalled try again. -/
def State.retry (s : State) : State :=
  { s with strands := s.strands.map (fun e =>
      (e.1, if e.2.run = .stalled then { e.2 with run := .ready } else e.2)) }

/-- Time passes. -/
def State.advance (s : State) (t : Nat) : State := State.retry { s with now := t }

/-! ## The next piece of work -/

/-- An event is taken from the agenda. The events of no row of the table are performed here. -/
def State.take (s : State) (e : Entry) (rest : List Entry) : Work :=
  let s := { s with agenda := rest, event := e.ev, arr := e.arr, tie := e.tie }
  match e.ev with
  | .inject a b p => .done (s.inject a b p)
  | .ask t u => .done (s.askBirth t u)
  | .vpiece t c u => .done (s.storeNext t c u)
  | .seat t c u => .done (s.takeSeat t c u)
  | .egress t m x => .done (s.atEgress t m x)
  | .job id => .done (s.jobRun id)
  | .launchLine l => .done (s.launchNow l)
  | .hostFirmware f => .done (s.hostSupplies f)
  | .uncorrectable e => .done (s.uncorrectable e)
  | ev => .run ev.instr s

/-- Events due up to a place within the cycle. -/
def State.dueEvent (s : State) (phase : Nat) : Option (Entry × List Entry) :=
  match s.agenda with
  | e :: rest => if e.due < s.now ∨ (e.due = s.now ∧ e.phase ≤ phase) then some (e, rest) else none
  | [] => none

/-- Within a cycle: answers and engines, then issues, then arrivals from other tiles (R112), then the issues that sample
what the cycle leaves (R109), then time passes. -/
def State.nextWork (s : State) : Work :=
  match s.dueEvent 1 with
  | some (e, rest) => s.take e rest
  | none => match s.choose (s.issuers.filter (fun u => !(s.samplesNext u))) with
    | some (u, s) => s.turn u
    | none => match s.dueEvent 4 with
      | some (e, rest) => s.take e rest
      | none => match s.choose s.issuers with
        | some (u, s) => s.turn u
        | none => match s.nextCycle with
          | some t => .done (s.advance t)
          | none => .idle

/-! ## Placing a word (log entry 3) -/

/-- A strand on tile 0 in slot 0 of its supervisor core. -/
def rootStrand : Strand :=
  { Strand.fresh rootCtx 0 .none with place := .slot 0 0 0, run := .ready }

/-- The state in which a word is the next to be fetched and executed. -/
def State.placeWord (s : State) (w : Half) : State :=
  let bytes := bytesOfWord w ++ List.replicate 60 0
  State.onTile
    { s with strands := SMap.put s.strands 0 rootStrand,
             agenda := s.agenda.filter (fun e => decide (s.now < e.due)),
             cores := [(0, { Core.reset with slots := [(0, 0)] })] }
    0 (fun x => { x with icache := SMap.put x.icache 0 ⟨0, false, bytes⟩,
                         regs := { x.regs with ptbase := x.regs.ptbase ||| 1 } })

end Sys2Proof.Machine
end

