-- ==== Sys2Proof/Machine/Fabric.lean ====
section
/-! DEFINITION. The checks and the order of a die's port (R246, R247, R249, R254), Gorrex frames, links and their faults
(R251 to R253), and background activity (R255). -/

namespace Sys2Proof.Machine
open Sys2Proof

/-! ## Order across the torus (R249) -/

/-- Replace a held count of 8 or 16 bits by a later one (R14). -/
def laterN {n : Nat} (held new : BitVec n) : BitVec n := if (new - held).toNat < 2 ^ (n - 1) then new else held

/-- The port tells the source tile the pair's delivered total, by a single flit that may be deflected as any other
(R245, R249). -/
def State.sendOrderCount (s : State) (src dst : Nat) : State :=
  let q := s.pair src dst
  let f := s.free .deflect
  (f.2.onPair src dst (fun q => { q with told := q.delivered })).schedule (s.now + Config.oneWay dst src + 16 * f.1) 0
    (.orderCountArrival src dst q.delivered)

/-- The last flit of a packet is ejected: the packet, spoilt if one of its flits was (R254), goes toward its tile through
the crossbar in 12 cycles, after the one before it, and on to a replacement (R82, R244, R249). -/
def State.eject (s : State) (f : PortFlit) (age : BitVec 8) : State :=
  let q := s.pair f.src f.dst
  let last := max (s.now + 12) (q.last + 1)
  let s := s.onPair f.src f.dst (fun q =>
    { q with expected := q.expected + 1, fi := 0, age := 0, bad := false, delivered := q.delivered + 1, stamp := s.now,
             last := last })
  let p := if q.bad then spoilPacket f.pkt else f.pkt
  let s := s.deliverAt (last + s.transit f.dst) (withAge p age.toNat)
  let s := s.schedule (s.now + 64) 0 (.orderCountTimer f.src f.dst s.now)
  if (s.pair f.src f.dst).delivered.toNat % 32 = 0 then s.sendOrderCount f.src f.dst else s

/-- A flit whose header fails its checks is discarded, and every partition with a tile on the die stops (R254). -/
def State.portFails (s : State) (f : PortFlit) (reason : BitVec 8) : State :=
  let h := headerBits f.hdr
  let parts := ((Config.tilesOfDie (Config.dieOf f.dst)).map s.partOfTile).eraseDups
  (parts.filter (· < Config.partitions)).foldl (fun s p =>
    s.stopPartition f.dst p reason (h.extractLsb' 0 64) (h.extractLsb' 64 64)) s

/-- A flit at its destination die's port (R246, R247, R249): checked; the one that its pair expects is ejected, and any
other is re-injected at 16 cycles. -/
def State.portArrives (s : State) (f : PortFlit) : State :=
  let q := s.pair f.src f.dst
  let reason := headerFails f.hdr
  if reason ≠ 0 then s.portFails f reason
  else if q.expected = f.hdr.seq ∧ q.fi = f.hdr.fi then
    let age := if q.age.toNat < (headerAge f.hdr).toNat then headerAge f.hdr else q.age
    if f.hdr.fi = f.hdr.nf then s.eject f age
    else s.onPair f.src f.dst (fun q => { q with fi := q.fi + 1, age := age, bad := q.bad || packetBad f.pkt })
  else s.schedule (s.now + 16) 0 (.diePortFlitArrival { f with extra := f.extra + 1 })

/-- `diePortFlitArrival` (R249). -/
def execDiePortFlitArrival (s : State) : Host.Outcome State Fault Refusal :=
  onEvent (fun e => match e with | .diePortFlitArrival f => some (s.portArrives f) | _ => none) s

/-- `orderCountTimer`: 64 cycles after a pair's last delivery, if the count has changed since it was sent (R249). -/
def execOrderCountTimer (s : State) : Host.Outcome State Fault Refusal :=
  onEvent (fun e => match e with
    | .orderCountTimer a b stamp => some (
      let q := s.pair a b
      if q.stamp = stamp ∧ q.told ≠ q.delivered then s.sendOrderCount a b else s)
    | _ => none) s

/-- Send what a pair holds at its source, while its window allows. -/
def State.release (s : State) (src dst : Nat) : State :=
  let held := (s.pair src dst).queue
  held.foldl (fun s p => s.inject src dst p) (s.onPair src dst (fun q => { q with queue := [] }))

/-- `orderCountArrival` (R249). -/
def execOrderCountArrival (s : State) : Host.Outcome State Fault Refusal :=
  onEvent (fun e => match e with
    | .orderCountArrival a b n => some ((s.onPair a b (fun q => { q with seen := laterN q.seen n })).release a b)
    | _ => none) s

/-! ## Links (R251 to R253) -/

/-- A step of a link that is there: the module has 32 (R251). -/
def State.atLink (s : State) (l : Nat) (f : State → State) : State := if l < Config.links then f s else s

/-- What a refused message leaves in its pair's order: one that says nothing (DESIGN CHOICE, log entry 77). -/
def voidMsg : PeerMsg := .ack 0

/-- What waits for a module with an empty set is refused (R59, R251). -/
def State.refuseWaiting (s : State) (m : Nat) : State :=
  let mine := s.peerOut.filter (fun x => x.2.1 == m)
  let out := s.peerOut.filterMap (fun x =>
    if x.2.1 ≠ m then some x else if x.2.2.1.isSome then some (x.1, m, x.2.2.1, voidMsg) else none)
  mine.foldl (fun s x => s.refuseMsg m x.2.2.2) { s with peerOut := out }

/-- The module whose set a link belongs to (R250). -/
def State.moduleOf (s : State) (l : Nat) : Option Nat := (List.find? (fun e => e.2.contains l) s.linkSets).map (·.1)

/-- What waits for the modules: it goes over the links that are left, or is refused with the set empty (R251). -/
def State.afterLoss (s : State) (l : Nat) : State :=
  match s.moduleOf l with
  | none => s
  | some m => if s.peerGone m then s.refuseWaiting m else s.peerFlushAll

/-- The mode of one direction of a link. -/
def Link.withMode (k : Link) (rx : Bool) (m : LinkMode) : Link := if rx then { k with rmode := m } else { k with mode := m }
def Link.modeOf (k : Link) (rx : Bool) : LinkMode := if rx then k.rmode else k.mode

/-- A direction of a link goes down, and the link leaves its set; what its unacknowledged frames hold is sent again over
other links, and the frames keep their numbers (R251, R252, R256). -/
def State.linkDown (s : State) (l : Nat) (rx : Bool) : State :=
  let s' := s.onLink l (fun k =>
    { k.withMode rx .down with training := false, store := k.store.map (fun (f : Frame) => { f with msgs := [] }) })
  let s' := match s.moduleOf l with
    | none => s'
    | some m =>
      let again := (s.link l).store.flatMap (fun (f : Frame) =>
        f.msgs.map (fun (x : Nat × BitVec 8 × PeerMsg) => (x.1, m, some x.2.1, x.2.2)))
      { s' with peerOut := again ++ s'.peerOut }
  s'.afterLoss l

/-- A link retrains: 4,500 cycles without frames (R251). -/
def State.retrain (s : State) (l : Nat) (f : Link → Link) : State :=
  (s.onLink l (fun k => { f k with training := true, trainEnd := s.now + 4500 })).schedule (s.now + 4500) 0
    (.gorrexRetrainDone l (s.now + 4500))

/-- A direction of a link takes a mode: down, or after a retrain (R251). -/
def State.newMode (s : State) (l : Nat) (rx : Bool) (m : LinkMode) : State :=
  if m = .down then s.linkDown l rx else s.retrain l (fun k => k.withMode rx m)

/-- One row down the table of R251. -/
def lowerMode : LinkMode → LinkMode
  | .full => .nrz
  | .nrz => .half
  | .half => .halfNrz
  | .halfNrz => .down
  | .down => .down

/-- `gorrexLaneFailure` (R251). -/
def execGorrexLaneFailure (s : State) : Host.Outcome State Fault Refusal :=
  onEvent (fun e => match e with
    | .gorrexLaneFailure l rx => some (s.atLink l (fun s => s.newMode l rx (lowerMode ((s.link l).modeOf rx))))
    | _ => none) s

/-- A link that carries frames now. -/
def Link.ready (k : Link) : Bool := k.up && !k.training

/-- An idle frame, when the link carries frames. -/
def State.idleFrame (s : State) (l : Nat) (c : FrameCtl) : State := if (s.link l).ready then s.sendIdle l c else s

/-- The timeout of a link runs from now (R252). -/
def State.linkTimer (s : State) (l : Nat) : State :=
  (s.onLink l (fun k => { k with timer := s.now })).schedule (s.now + 2048) 0 (.gorrexReplayTimeout l s.now)

/-- Send again every frame of the replay store, in order (R252). -/
def State.replay (s : State) (l : Nat) : State :=
  if (s.link l).store.isEmpty then s else ((s.link l).store.foldl (fun s f => s.transmitFrame l f) s).linkTimer l

/-- A resynchronisation's request leaves; it is sent again until the answer comes (R253). -/
def State.askResync (s : State) (l : Nat) : State := (s.idleFrame l .request).linkTimer l

/-- What a link does that carries frames again, or has had no progress for 2048 cycles: it asks for the peer's count, or
sends its frames again (R251 to R253). -/
def State.linkAgain (s : State) (l : Nat) : State := if (s.link l).resync then s.askResync l else s.replay l

/-- `gorrexRetrainDone`: unacknowledged frames are replayed, and an acknowledgement that is owed leaves (R251, R252). -/
def execGorrexRetrainDone (s : State) : Host.Outcome State Fault Refusal :=
  onEvent (fun e => match e with
    | .gorrexRetrainDone l n => some (
      let k := s.link l
      if k.training ∧ k.trainEnd = n then
        let s := (s.onLink l (fun k => { k with training := false, out := false })).linkAgain l
        (if (s.link l).owed = 0 then s else s.idleFrame l .none).peerFlushAll
      else s)
    | _ => none) s

/-- `supervisorStartedRetrain`: the supervisor may raise a mode (R251). -/
def execSupervisorStartedRetrain (s : State) : Host.Outcome State Fault Refusal :=
  onEvent (fun e => match e with
    | .supervisorStartedRetrain l rx m => some (s.atLink l (fun s => s.newMode l rx m))
    | _ => none) s

/-- Frames from an acknowledgement on. -/
def keepFrom (a : BitVec 16) (l : List Frame) : List Frame := l.filter (fun f => decide ((f.seq - a).toNat < 2 ^ 15))

/-- The sender takes an acknowledgement, and frees the frames below it (R252). -/
def State.takeAck (s : State) (l : Nat) (a : BitVec 16) : State :=
  let k := s.link l
  let a' := laterN k.ack a
  if a' = k.ack then s
  else
    let s := s.onLink l (fun k => { k with ack := a', store := keepFrom a' k.store, timer := s.now })
    (if (s.link l).store.isEmpty then s else s.linkTimer l).peerFlushAll

/-- The answer of a resynchronisation: ack := next := expected, and every frame of the replay store from there is sent
again (R253), after a retrain that is under way. -/
def State.resyncAnswered (s : State) (l : Nat) (x : BitVec 16) : State :=
  if (s.link l).resync = false then s
  else
    let s := s.onLink l (fun k =>
      let st := keepFrom x k.store
      { k with ack := x, store := st, next := x + BitVec.ofNat 16 st.length, resync := false })
    if (s.link l).ready then (s.replay l).peerFlushAll else s

/-- A frame in order at the receiver: its number is taken, and an acknowledgement is owed within 256 cycles (R252). -/
def State.frameTaken (s : State) (l : Nat) (f : Frame) : State :=
  let first := (s.link l).owed = 0
  let s := s.onLink l (fun k =>
    { k with expected := k.expected + 1, expected2 := k.expected + 1, owed := if first then s.now + 1 else k.owed })
  let s := if first then s.schedule (s.now + 256) 0 (.gorrexIdleFrameTimer l (s.now + 1)) else s
  s.peerAccept f.peer f.msgs

/-- A frame at the receiver: one whose check fails is discarded. Its acknowledgement is taken, what it says of a
resynchronisation is done, and it is accepted if its number is the expected one (R252 to R254). -/
def State.frameArrives (s : State) (l : Nat) (f : Frame) : State :=
  if !f.ok || !(s.link l).ready then s
  else
    let s := if (s.link l).resync then s else s.takeAck l f.ack
    let s := match f.ctl with
      | .none => s
      | .request => s.sendIdle l .answer
      | .answer => s.resyncAnswered l f.ack
    if f.idle ∨ f.seq ≠ (s.link l).expected then s else s.frameTaken l f

/-- `gorrexFrameArrival` (R252). -/
def execGorrexFrameArrival (s : State) : Host.Outcome State Fault Refusal :=
  onEvent (fun e => match e with
    | .gorrexFrameArrival l f => some (s.atLink l (fun s => s.frameArrives l f))
    | _ => none) s

/-- `gorrexIdleFrameTimer`: an idle frame, when no frame has carried the acknowledgement; in a retrain it waits for the end
(R252). -/
def execGorrexIdleFrameTimer (s : State) : Host.Outcome State Fault Refusal :=
  onEvent (fun e => match e with
    | .gorrexIdleFrameTimer l n => some (if (s.link l).owed = n then s.idleFrame l .none else s)
    | _ => none) s

/-- `gorrexReplayTimeout`: no acknowledgement has advanced for 2048 cycles (R252). -/
def execGorrexReplayTimeout (s : State) : Host.Outcome State Fault Refusal :=
  onEvent (fun e => match e with
    | .gorrexReplayTimeout l n => some (if (s.link l).timer = n ∧ (s.link l).ready then s.linkAgain l else s)
    | _ => none) s

/-- `gorrexCounterParityError`: the sender starts no new frame and asks for expected (R253). -/
def execGorrexCounterParityError (s : State) : Host.Outcome State Fault Refusal :=
  onEvent (fun e => match e with
    | .gorrexCounterParityError l =>
      some (s.atLink l (fun s => (s.onLink l (fun k => { k with resync := true })).askResync l))
    | _ => none) s

/-- `gorrexResyncAnswer` (R253). -/
def execGorrexResyncAnswer (s : State) : Host.Outcome State Fault Refusal :=
  onEvent (fun e => match e with
    | .gorrexResyncAnswer l x => some (s.atLink l (fun s => s.resyncAnswered l x))
    | _ => none) s

/-- `gorrexExpectedParityError`: one copy is repaired from the other; both wrong, the link is down and out of its set until it
has retrained (R253). -/
def execGorrexExpectedParityError (s : State) : Host.Outcome State Fault Refusal :=
  onEvent (fun e => match e with
    | .gorrexExpectedParityError l both => some (s.atLink l (fun s =>
      if both then (s.retrain l (fun k => { k with out := true })).afterLoss l
      else s.onLink l (fun k => { k with expected := k.expected2 })))
    | _ => none) s

/-- `gorrexLaneRecalibration`: one lane for 2,250 cycles, and again 100 ms later (R255). The link's rate meanwhile is
below what a cycle of this model shows. -/
def execGorrexLaneRecalibration (s : State) : Host.Outcome State Fault Refusal :=
  onEvent (fun e => match e with
    | .gorrexLaneRecalibration l => some (s.atLink l (fun s => (s.onLink l (fun k => { k with recal := k.recal + 1 })).schedule
        (s.now + 225000000) 0 (.gorrexLaneRecalibration l)))
    | _ => none) s

/-- `telemetrySample`: a packet over service port 0 every millisecond (R255). -/
def execTelemetrySample (s : State) : Host.Outcome State Fault Refusal :=
  onEvent (fun e => match e with
    | .telemetrySample d => some ((s.onDie d (fun x => { x with telemetry := x.telemetry + 1 })).schedule
        (s.now + 2250000) 0 (.telemetrySample d))
    | _ => none) s

end Sys2Proof.Machine
end

