-- ==== Sys2Proof/Machine/Scalar.lean ====
section
/-! DEFINITION. System, integer, compare, predicate, constant, control and f32 instructions (R92 to R107, R126). -/

namespace Sys2Proof.Machine
open Sys2Proof

/-! ## System (R92 to R96, R126) -/

/-- `nop` (R92). -/
def execNop (s : State) : Host.Outcome State Fault Refusal := issue [] [] (fun u _ s => .ok (s.retire u)) s

/-- `trap`: a precise trap with the code (R93). -/
def execTrap (c : BitVec 10) (s : State) : Host.Outcome State Fault Refusal :=
  issue [] [] (fun _ _ s => trapAct s 0x0C (toWord c)) s

/-- `brk` (R94). -/
def execBrk (s : State) : Host.Outcome State Fault Refusal := issue [] [] (fun _ _ s => trapAct s 0x0B 0) s

/-- `svc`: the strand waits for the supervisor (R96). -/
def execSvc (c : BitVec 10) (s : State) : Host.Outcome State Fault Refusal :=
  issue [] [] (fun _ _ s => trapAct s 0x10 (toWord c)) s

/-- `rdcyc`: the cycle of the issue (R95). -/
def execRdcyc (d : BitVec 5) (s : State) : Host.Outcome State Fault Refusal :=
  compute [] d (fun _ => BitVec.ofNat 64 s.now) s

/-- `rdout`: posted operations not yet acknowledged (R126). -/
def execRdout (d : BitVec 5) (s : State) : Host.Outcome State Fault Refusal :=
  compute [] d (fun x => BitVec.ofNat 64 x.posted.length) s

/-- `pseq`: the number of the next posted operation (R126). -/
def execPseq (d : BitVec 5) (s : State) : Host.Outcome State Fault Refusal :=
  compute [] d (fun x => toWord x.ctx.pseq) s

/-! ## Integer operations (R27, R97 to R99) -/

/-- A binary member: rd := f(a, b). -/
def binary (f : Word → Word → Word) (d a b : Reg) (s : State) : Host.Outcome State Fault Refusal :=
  compute [a, b] d (fun x => f (x.reg a) (x.reg b)) s

/-- A unary member: rd := f(a). -/
def unary (f : Word → Word) (d a : Reg) (s : State) : Host.Outcome State Fault Refusal :=
  compute [a] d (fun x => f (x.reg a)) s

/-- The amount of a shift or rotate: b[5:0]. -/
def amount (b : Word) : Nat := b.toNat % 64

/-- Unsigned quotient; all ones for a divisor of 0 (R27). -/
def udivW (a b : Word) : Word := if b = 0 then BitVec.allOnes 64 else a / b
/-- Signed quotient truncated; -1 for a divisor of 0 (R27). -/
def sdivW (a b : Word) : Word := if b = 0 then BitVec.allOnes 64 else BitVec.ofInt 64 (Int.tdiv a.toInt b.toInt)
/-- Unsigned remainder; the dividend for a divisor of 0 (R27). -/
def uremW (a b : Word) : Word := if b = 0 then a else a % b
/-- Signed remainder with the sign of the dividend (R27). -/
def sremW (a b : Word) : Word := if b = 0 then a else BitVec.ofInt 64 (Int.tmod a.toInt b.toInt)
/-- floor(a * b / 2^64), unsigned. -/
def mulhW (a b : Word) : Word := BitVec.ofNat 64 (a.toNat * b.toNat / 2 ^ 64)
/-- floor(a * b / 2^64), signed. -/
def mulhsW (a b : Word) : Word := BitVec.ofInt 64 (a.toInt * b.toInt / 2 ^ 64)
def minW (a b : Word) : Word := if b.ult a then b else a
def minsW (a b : Word) : Word := if b.slt a then b else a
def maxW (a b : Word) : Word := if a.ult b then b else a
def maxsW (a b : Word) : Word := if a.slt b then b else a
/-- Leading zero bits of the low `n` bits. -/
def clzN (a : Nat) : Nat → Nat
  | 0 => 0
  | n + 1 => if a.testBit n then 0 else 1 + clzN a n
def clzW (a : Word) : Word := BitVec.ofNat 64 (clzN a.toNat 64)
/-- Trailing zero bits among bits 64 - `n` to 63. -/
def ctzN (a : Nat) : Nat → Nat
  | 0 => 0
  | n + 1 => if a.testBit (63 - n) then 0 else 1 + ctzN a n
def ctzW (a : Word) : Word := BitVec.ofNat 64 (ctzN a.toNat 64)
def popcW (a : Word) : Word := BitVec.ofNat 64 ((List.range 64).countP (fun i => a.getLsbD i))
/-- sext of the low `n` bits. -/
def sextLow (n : Nat) (a : Word) : Word := (a.setWidth n).signExtend 64
/-- An exact signed result, saturated to 64 bits. -/
def satW (z : Int) : Word :=
  if z < -(2 ^ 63) then BitVec.intMin 64 else if 2 ^ 63 - 1 < z then BitVec.intMax 64 else BitVec.ofInt 64 z
/-- Byte i moves to byte 7 - i. -/
def bswpW (a : Word) : Word :=
  a.extractLsb' 0 8 ++ a.extractLsb' 8 8 ++ a.extractLsb' 16 8 ++ a.extractLsb' 24 8 ++ a.extractLsb' 32 8
    ++ a.extractLsb' 40 8 ++ a.extractLsb' 48 8 ++ a.extractLsb' 56 8

/-- `add`: a + b (R97). -/
def execAdd (d a b : BitVec 5) (s : State) : Host.Outcome State Fault Refusal := binary (· + ·) d a b s

/-- `sub`: a - b (R97). -/
def execSub (d a b : BitVec 5) (s : State) : Host.Outcome State Fault Refusal := binary (· - ·) d a b s

/-- `mul`: low 64 bits of a * b (R97). -/
def execMul (d a b : BitVec 5) (s : State) : Host.Outcome State Fault Refusal := binary (· * ·) d a b s

/-- `mulh`: high 64 bits, unsigned (R97). -/
def execMulh (d a b : BitVec 5) (s : State) : Host.Outcome State Fault Refusal := binary mulhW d a b s

/-- `mulhs`: high 64 bits, signed (R97). -/
def execMulhs (d a b : BitVec 5) (s : State) : Host.Outcome State Fault Refusal := binary mulhsW d a b s

/-- `div`: unsigned quotient (R97). -/
def execDiv (d a b : BitVec 5) (s : State) : Host.Outcome State Fault Refusal := binary udivW d a b s

/-- `divs`: signed quotient (R97). -/
def execDivs (d a b : BitVec 5) (s : State) : Host.Outcome State Fault Refusal := binary sdivW d a b s

/-- `rem`: unsigned remainder (R97). -/
def execRem (d a b : BitVec 5) (s : State) : Host.Outcome State Fault Refusal := binary uremW d a b s

/-- `rems`: signed remainder (R97). -/
def execRems (d a b : BitVec 5) (s : State) : Host.Outcome State Fault Refusal := binary sremW d a b s

/-- `and`: a and b (R97). -/
def execAnd (d a b : BitVec 5) (s : State) : Host.Outcome State Fault Refusal := binary (· &&& ·) d a b s

/-- `or`: a or b (R97). -/
def execOr (d a b : BitVec 5) (s : State) : Host.Outcome State Fault Refusal := binary (· ||| ·) d a b s

/-- `xor`: a xor b (R97). -/
def execXor (d a b : BitVec 5) (s : State) : Host.Outcome State Fault Refusal := binary (· ^^^ ·) d a b s

/-- `andn`: a and not b (R97). -/
def execAndn (d a b : BitVec 5) (s : State) : Host.Outcome State Fault Refusal := binary (fun a b => a &&& ~~~b) d a b s

/-- `shl`: shift left by b[5:0] (R97). -/
def execShl (d a b : BitVec 5) (s : State) : Host.Outcome State Fault Refusal := binary (fun a b => a <<< amount b) d a b s

/-- `shr`: shift right by b[5:0], zero fill (R97). -/
def execShr (d a b : BitVec 5) (s : State) : Host.Outcome State Fault Refusal := binary (fun a b => a >>> amount b) d a b s

/-- `sra`: shift right by b[5:0], sign fill (R97). -/
def execSra (d a b : BitVec 5) (s : State) : Host.Outcome State Fault Refusal := binary (fun a b => a.sshiftRight (amount b)) d a b s

/-- `rol`: rotate left by b[5:0] (R97). -/
def execRol (d a b : BitVec 5) (s : State) : Host.Outcome State Fault Refusal := binary (fun a b => a.rotateLeft (amount b)) d a b s

/-- `min`: unsigned minimum (R97). -/
def execMin (d a b : BitVec 5) (s : State) : Host.Outcome State Fault Refusal := binary minW d a b s

/-- `mins`: signed minimum (R97). -/
def execMins (d a b : BitVec 5) (s : State) : Host.Outcome State Fault Refusal := binary minsW d a b s

/-- `max`: unsigned maximum (R97). -/
def execMax (d a b : BitVec 5) (s : State) : Host.Outcome State Fault Refusal := binary maxW d a b s

/-- `maxs`: signed maximum (R97). -/
def execMaxs (d a b : BitVec 5) (s : State) : Host.Outcome State Fault Refusal := binary maxsW d a b s

/-- `clz`: leading zero bits (R97). -/
def execClz (d a : BitVec 5) (s : State) : Host.Outcome State Fault Refusal := unary clzW d a s

/-- `ctz`: trailing zero bits (R97). -/
def execCtz (d a : BitVec 5) (s : State) : Host.Outcome State Fault Refusal := unary ctzW d a s

/-- `popc`: one bits (R97). -/
def execPopc (d a : BitVec 5) (s : State) : Host.Outcome State Fault Refusal := unary popcW d a s

/-- `sxb`: sext(a, 8) (R97). -/
def execSxb (d a : BitVec 5) (s : State) : Host.Outcome State Fault Refusal := unary (sextLow 8) d a s

/-- `sxh`: sext(a, 16) (R97). -/
def execSxh (d a : BitVec 5) (s : State) : Host.Outcome State Fault Refusal := unary (sextLow 16) d a s

/-- `sxw`: sext(a, 32) (R97). -/
def execSxw (d a : BitVec 5) (s : State) : Host.Outcome State Fault Refusal := unary (sextLow 32) d a s

/-- `zxw`: zext(a, 32) (R97). -/
def execZxw (d a : BitVec 5) (s : State) : Host.Outcome State Fault Refusal := unary (fun a => toWord (a.setWidth 32)) d a s

/-- `addw`: the 32-bit sum, sign-extended (R97). -/
def execAddw (d a b : BitVec 5) (s : State) : Host.Outcome State Fault Refusal := binary (fun a b => sextLow 32 (a + b)) d a b s

/-- `subw`: the 32-bit difference, sign-extended (R97). -/
def execSubw (d a b : BitVec 5) (s : State) : Host.Outcome State Fault Refusal := binary (fun a b => sextLow 32 (a - b)) d a b s

/-- `mulw`: the 32-bit product, sign-extended (R97). -/
def execMulw (d a b : BitVec 5) (s : State) : Host.Outcome State Fault Refusal := binary (fun a b => sextLow 32 (a * b)) d a b s

/-- `adds`: signed sum, saturated (R97). -/
def execAdds (d a b : BitVec 5) (s : State) : Host.Outcome State Fault Refusal := binary (fun a b => satW (a.toInt + b.toInt)) d a b s

/-- `subs`: signed difference, saturated (R97). -/
def execSubs (d a b : BitVec 5) (s : State) : Host.Outcome State Fault Refusal := binary (fun a b => satW (a.toInt - b.toInt)) d a b s

/-- `bswp`: bytes reversed (R97). -/
def execBswp (d a : BitVec 5) (s : State) : Host.Outcome State Fault Refusal := unary bswpW d a s

/-- `addi`: a + i, i sign-extended (R98). -/
def execAddi (d a : BitVec 5) (i : BitVec 11) (s : State) : Host.Outcome State Fault Refusal :=
  unary (fun a => a + sext i) d a s

/-- `andi`: a and i, i sign-extended (R98). -/
def execAndi (d a : BitVec 5) (i : BitVec 11) (s : State) : Host.Outcome State Fault Refusal :=
  unary (fun a => a &&& sext i) d a s

/-- `ori`: a or i, i sign-extended (R98). -/
def execOri (d a : BitVec 5) (i : BitVec 11) (s : State) : Host.Outcome State Fault Refusal :=
  unary (fun a => a ||| sext i) d a s

/-- `xori`: a xor i, i sign-extended (R98). -/
def execXori (d a : BitVec 5) (i : BitVec 11) (s : State) : Host.Outcome State Fault Refusal :=
  unary (fun a => a ^^^ sext i) d a s

/-- `muli`: low 64 bits of a * i, i sign-extended (R98). -/
def execMuli (d a : BitVec 5) (i : BitVec 11) (s : State) : Host.Outcome State Fault Refusal :=
  unary (fun a => a * sext i) d a s

/-- `shli`: shift left by the immediate (R99). -/
def execShli (d a : BitVec 5) (m : BitVec 6) (s : State) : Host.Outcome State Fault Refusal :=
  unary (fun a => a <<< m.toNat) d a s

/-- `shri`: shift right, zero fill by the immediate (R99). -/
def execShri (d a : BitVec 5) (m : BitVec 6) (s : State) : Host.Outcome State Fault Refusal :=
  unary (fun a => a >>> m.toNat) d a s

/-- `srai`: shift right, sign fill by the immediate (R99). -/
def execSrai (d a : BitVec 5) (m : BitVec 6) (s : State) : Host.Outcome State Fault Refusal :=
  unary (fun a => a.sshiftRight m.toNat) d a s

/-- `roli`: rotate left by the immediate (R99). -/
def execRoli (d a : BitVec 5) (m : BitVec 6) (s : State) : Host.Outcome State Fault Refusal :=
  unary (fun a => a.rotateLeft m.toNat) d a s

/-! ## Compare and predicates (R100, R101) -/

/-- An instruction that writes predicates from the strand alone. -/
def predicate (rd : List Reg) (f : Strand → Strand) (s : State) : Host.Outcome State Fault Refusal :=
  issue rd [] (fun u _ s => .ok ((s.onStrand u f).retire u)) s

/-- pd := cond(a, b) (R100). -/
def compare (c : Cond) (p : Pred) (a b : Reg) (s : State) : Host.Outcome State Fault Refusal :=
  predicate [a, b] (fun x => x.setPred p (condHolds c (x.reg a) (x.reg b))) s

/-- pd := cond(a, imm7 sign-extended) (R100). -/
def compareImm (c : Cond) (p : Pred) (a : Reg) (i : BitVec 7) (s : State) : Host.Outcome State Fault Refusal :=
  predicate [a] (fun x => x.setPred p (condHolds c (x.reg a) (cmpImm i))) s

/-- `cmp.eq` (R100). -/
def execCmpEq (p : BitVec 4) (a b : BitVec 5) (s : State) : Host.Outcome State Fault Refusal := compare .eq p a b s

/-- `cmp.eq` with an immediate (R100). -/
def execCmpEqImm (p : BitVec 4) (a : BitVec 5) (i : BitVec 7) (s : State) : Host.Outcome State Fault Refusal :=
  compareImm .eq p a i s

/-- `cmp.ne` (R100). -/
def execCmpNe (p : BitVec 4) (a b : BitVec 5) (s : State) : Host.Outcome State Fault Refusal := compare .ne p a b s

/-- `cmp.ne` with an immediate (R100). -/
def execCmpNeImm (p : BitVec 4) (a : BitVec 5) (i : BitVec 7) (s : State) : Host.Outcome State Fault Refusal :=
  compareImm .ne p a i s

/-- `cmp.lt` (R100). -/
def execCmpLt (p : BitVec 4) (a b : BitVec 5) (s : State) : Host.Outcome State Fault Refusal := compare .lt p a b s

/-- `cmp.lt` with an immediate (R100). -/
def execCmpLtImm (p : BitVec 4) (a : BitVec 5) (i : BitVec 7) (s : State) : Host.Outcome State Fault Refusal :=
  compareImm .lt p a i s

/-- `cmp.ge` (R100). -/
def execCmpGe (p : BitVec 4) (a b : BitVec 5) (s : State) : Host.Outcome State Fault Refusal := compare .ge p a b s

/-- `cmp.ge` with an immediate (R100). -/
def execCmpGeImm (p : BitVec 4) (a : BitVec 5) (i : BitVec 7) (s : State) : Host.Outcome State Fault Refusal :=
  compareImm .ge p a i s

/-- `cmp.ltu` (R100). -/
def execCmpLtu (p : BitVec 4) (a b : BitVec 5) (s : State) : Host.Outcome State Fault Refusal := compare .ltu p a b s

/-- `cmp.ltu` with an immediate (R100). -/
def execCmpLtuImm (p : BitVec 4) (a : BitVec 5) (i : BitVec 7) (s : State) : Host.Outcome State Fault Refusal :=
  compareImm .ltu p a i s

/-- `cmp.geu` (R100). -/
def execCmpGeu (p : BitVec 4) (a b : BitVec 5) (s : State) : Host.Outcome State Fault Refusal := compare .geu p a b s

/-- `cmp.geu` with an immediate (R100). -/
def execCmpGeuImm (p : BitVec 4) (a : BitVec 5) (i : BitVec 7) (s : State) : Host.Outcome State Fault Refusal :=
  compareImm .geu p a i s

/-- `cmp.gt` (R100). -/
def execCmpGt (p : BitVec 4) (a b : BitVec 5) (s : State) : Host.Outcome State Fault Refusal := compare .gt p a b s

/-- `cmp.gt` with an immediate (R100). -/
def execCmpGtImm (p : BitVec 4) (a : BitVec 5) (i : BitVec 7) (s : State) : Host.Outcome State Fault Refusal :=
  compareImm .gt p a i s

/-- `cmp.le` (R100). -/
def execCmpLe (p : BitVec 4) (a b : BitVec 5) (s : State) : Host.Outcome State Fault Refusal := compare .le p a b s

/-- `cmp.le` with an immediate (R100). -/
def execCmpLeImm (p : BitVec 4) (a : BitVec 5) (i : BitVec 7) (s : State) : Host.Outcome State Fault Refusal :=
  compareImm .le p a i s

/-- `cmp.gtu` (R100). -/
def execCmpGtu (p : BitVec 4) (a b : BitVec 5) (s : State) : Host.Outcome State Fault Refusal := compare .gtu p a b s

/-- `cmp.gtu` with an immediate (R100). -/
def execCmpGtuImm (p : BitVec 4) (a : BitVec 5) (i : BitVec 7) (s : State) : Host.Outcome State Fault Refusal :=
  compareImm .gtu p a i s

/-- `cmp.leu` (R100). -/
def execCmpLeu (p : BitVec 4) (a b : BitVec 5) (s : State) : Host.Outcome State Fault Refusal := compare .leu p a b s

/-- `cmp.leu` with an immediate (R100). -/
def execCmpLeuImm (p : BitVec 4) (a : BitVec 5) (i : BitVec 7) (s : State) : Host.Outcome State Fault Refusal :=
  compareImm .leu p a i s

/-- `cmp.tst` (R100). -/
def execCmpTst (p : BitVec 4) (a b : BitVec 5) (s : State) : Host.Outcome State Fault Refusal := compare .tst p a b s

/-- `cmp.tst` with an immediate (R100). -/
def execCmpTstImm (p : BitVec 4) (a : BitVec 5) (i : BitVec 7) (s : State) : Host.Outcome State Fault Refusal :=
  compareImm .tst p a i s

/-- `cmp.ntst` (R100). -/
def execCmpNtst (p : BitVec 4) (a b : BitVec 5) (s : State) : Host.Outcome State Fault Refusal := compare .ntst p a b s

/-- `cmp.ntst` with an immediate (R100). -/
def execCmpNtstImm (p : BitVec 4) (a : BitVec 5) (i : BitVec 7) (s : State) : Host.Outcome State Fault Refusal :=
  compareImm .ntst p a i s

/-- `cmp.feq` (R100). -/
def execCmpFeq (p : BitVec 4) (a b : BitVec 5) (s : State) : Host.Outcome State Fault Refusal := compare .feq p a b s

/-- `cmp.flt` (R100). -/
def execCmpFlt (p : BitVec 4) (a b : BitVec 5) (s : State) : Host.Outcome State Fault Refusal := compare .flt p a b s

/-- `cmp.fle` (R100). -/
def execCmpFle (p : BitVec 4) (a b : BitVec 5) (s : State) : Host.Outcome State Fault Refusal := compare .fle p a b s

/-- `cmp.funord` (R100). -/
def execCmpFunord (p : BitVec 4) (a b : BitVec 5) (s : State) : Host.Outcome State Fault Refusal := compare .funord p a b s

/-- pd := f(P, Q) (R101). -/
def predOp (f : Bool → Bool → Bool) (d a b : Pred) (s : State) : Host.Outcome State Fault Refusal :=
  predicate [] (fun x => x.setPred d (f (x.ctx.getPred a) (x.ctx.getPred b))) s

/-- `pand`: P and Q (R101). -/
def execPand (d a b : BitVec 4) (s : State) : Host.Outcome State Fault Refusal := predOp (· && ·) d a b s

/-- `por`: P or Q (R101). -/
def execPor (d a b : BitVec 4) (s : State) : Host.Outcome State Fault Refusal := predOp (· || ·) d a b s

/-- `pxor`: P xor Q (R101). -/
def execPxor (d a b : BitVec 4) (s : State) : Host.Outcome State Fault Refusal := predOp (· ^^ ·) d a b s

/-- `pandn`: P and not Q (R101). -/
def execPandn (d a b : BitVec 4) (s : State) : Host.Outcome State Fault Refusal := predOp (fun p q => p && !q) d a b s

/-- `pnot`: not P (R101). -/
def execPnot (d a : BitVec 4) (s : State) : Host.Outcome State Fault Refusal := predOp (fun p _ => !p) d a 0 s

/-- The predicate word: bit 0 reads 1 (R101). -/
def Ctx.predWord (c : Ctx) : Word := toWord (c.pred ||| 1)

/-- `pget` (R101). -/
def execPget (d : BitVec 5) (s : State) : Host.Outcome State Fault Refusal := compute [] d (fun x => x.ctx.predWord) s

/-- `pput`: bit 0 and bits [63:16] are ignored (R101). -/
def execPput (a : BitVec 5) (s : State) : Host.Outcome State Fault Refusal :=
  predicate [a] (fun x => { x with ctx := { x.ctx with pred := (x.reg a).setWidth 16 ||| 1 } }) s

/-! ## Constants (R102) -/

/-- `movz` (R102). -/
def execMovz (d : BitVec 5) (h : BitVec 2) (i : BitVec 16) (s : State) : Host.Outcome State Fault Refusal :=
  compute [] d (fun _ => toWord i <<< (16 * h.toNat)) s

/-- `movk`: replaces one half-word of rd (R102). -/
def execMovk (d : BitVec 5) (h : BitVec 2) (i : BitVec 16) (s : State) : Host.Outcome State Fault Refusal :=
  compute [d] d (fun x => (x.reg d &&& ~~~((0xFFFF : Word) <<< (16 * h.toNat))) ||| (toWord i <<< (16 * h.toNat))) s

/-! ## Control transfer (R36, R103, R104) -/

/-- Jump to `t`, linking in `link`: misaligned, then out of the 48-bit space, then the jump (R36). -/
def jump (link : Option Reg) (t : Word) (u : Nat) (x : Strand) (s : State) : Act :=
  if t.extractLsb' 0 2 ≠ 0 then trapAct s 2 t
  else if 2 ^ 48 ≤ t.toNat then trapAct s 3 t
  else
    let s := match link with
      | some d => s.onStrand u (fun y => y.setReg d (toWord x.ctx.pc + 4))
      | none => s
    .ok (s.retireTo u (t.setWidth 48))

/-- `br` (R103). -/
def execBr (o : BitVec 21) (s : State) : Host.Outcome State Fault Refusal :=
  issue [] [] (fun u x s => jump none (branchTarget x.ctx.pc o) u x s) s

/-- `call`: links in g23 (R103). -/
def execCall (o : BitVec 21) (s : State) : Host.Outcome State Fault Refusal :=
  issue [] [23] (fun u x s => jump (some 23) (branchTarget x.ctx.pc o) u x s) s

/-- `jr` (R104). -/
def execJr (a : BitVec 5) (s : State) : Host.Outcome State Fault Refusal := issue [a] [] (fun u x s => jump none (x.reg a) u x s) s

/-- `jcall`: the target is read before rd is written (R104). -/
def execJcall (d a : BitVec 5) (s : State) : Host.Outcome State Fault Refusal :=
  issue [a] [d] (fun u x s => jump (some d) (x.reg a) u x s) s

/-! ## f32 (R22 to R31, R105 to R107) -/

/-- The f32 of a register: bits [31:0] (R20). -/
def Strand.f32 (x : Strand) (r : Reg) : Half := (x.reg r).setWidth 32

/-- A binary f32 member; bits [63:32] of the result are 0. -/
def floatBinary (f : Half → Half → Half) (d a b : Reg) (s : State) : Host.Outcome State Fault Refusal :=
  compute [a, b] d (fun x => toWord (f (x.f32 a) (x.f32 b))) s

/-- A unary f32 member. -/
def floatUnary (f : Half → Half) (d a : Reg) (s : State) : Host.Outcome State Fault Refusal :=
  compute [a] d (fun x => toWord (f (x.f32 a))) s

/-- `fadd`: a + b (R105). -/
def execFadd (d a b : BitVec 5) (s : State) : Host.Outcome State Fault Refusal := floatBinary Num.fadd d a b s

/-- `fsub`: a - b (R105). -/
def execFsub (d a b : BitVec 5) (s : State) : Host.Outcome State Fault Refusal := floatBinary Num.fsub d a b s

/-- `fmul`: a * b (R105). -/
def execFmul (d a b : BitVec 5) (s : State) : Host.Outcome State Fault Refusal := floatBinary Num.fmul d a b s

/-- `fmax`: maximum (R105). -/
def execFmax (d a b : BitVec 5) (s : State) : Host.Outcome State Fault Refusal := floatBinary Num.fmax d a b s

/-- `fmin`: minimum (R105). -/
def execFmin (d a b : BitVec 5) (s : State) : Host.Outcome State Fault Refusal := floatBinary Num.fmin d a b s

/-- `fdiv`: a / b (R105). -/
def execFdiv (d a b : BitVec 5) (s : State) : Host.Outcome State Fault Refusal := floatBinary Num.fdiv d a b s

/-- `fma`: a * b + d, one rounding; reads rd (R105). -/
def execFma (d a b : BitVec 5) (s : State) : Host.Outcome State Fault Refusal :=
  compute [d, a, b] d (fun x => toWord (Num.fma (x.f32 a) (x.f32 b) (x.f32 d))) s

/-- `fabs`: bit 31 cleared (R105). -/
def execFabs (d a : BitVec 5) (s : State) : Host.Outcome State Fault Refusal := floatUnary Num.fabs d a s

/-- `fneg`: bit 31 inverted (R105). -/
def execFneg (d a : BitVec 5) (s : State) : Host.Outcome State Fault Refusal := floatUnary Num.fneg d a s

/-- `fsqrt`: square root (R105). -/
def execFsqrt (d a : BitVec 5) (s : State) : Host.Outcome State Fault Refusal := floatUnary Num.fsqrt d a s

/-- `frsqrt`: reciprocal square root (R105). -/
def execFrsqrt (d a : BitVec 5) (s : State) : Host.Outcome State Fault Refusal := floatUnary Num.frsqrt d a s

/-- `frcp`: reciprocal (R105). -/
def execFrcp (d a : BitVec 5) (s : State) : Host.Outcome State Fault Refusal := floatUnary Num.frcp d a s

/-- `fexp2`: 2^a (R105). -/
def execFexp2 (d a : BitVec 5) (s : State) : Host.Outcome State Fault Refusal := floatUnary Num.fexp2 d a s

/-- `flog2`: log2 a (R105). -/
def execFlog2 (d a : BitVec 5) (s : State) : Host.Outcome State Fault Refusal := floatUnary Num.flog2 d a s

/-- `itof`: the signed 64-bit integer as f32 (R106). -/
def execItof (d a : BitVec 5) (s : State) : Host.Outcome State Fault Refusal :=
  unary (fun a => toWord (Num.ofInt a.toInt)) d a s

/-- `ftoi.rne`: to a 64-bit integer, saturated (R26, R106). -/
def execFtoiRne (d a : BitVec 5) (s : State) : Host.Outcome State Fault Refusal :=
  unary (fun a => Num.toInt .rne 64 (Num.ofF32 (a.setWidth 32))) d a s

/-- `ftoi.rz`: to a 64-bit integer, saturated (R26, R106). -/
def execFtoiRz (d a : BitVec 5) (s : State) : Host.Outcome State Fault Refusal :=
  unary (fun a => Num.toInt .rz 64 (Num.ofF32 (a.setWidth 32))) d a s

/-- `ftoi.dn`: to a 64-bit integer, saturated (R26, R106). -/
def execFtoiDn (d a : BitVec 5) (s : State) : Host.Outcome State Fault Refusal :=
  unary (fun a => Num.toInt .dn 64 (Num.ofF32 (a.setWidth 32))) d a s

/-- `bfpack`: two bf16 in bits [31:0] (R106). -/
def execBfpack (d a b : BitVec 5) (s : State) : Host.Outcome State Fault Refusal :=
  compute [a, b] d (fun x =>
    BitVec.ofNat 64 (Num.narrow .bf16 .ieee (x.f32 a) + 2 ^ 16 * Num.narrow .bf16 .ieee (x.f32 b))) s

/-- `bfunpk`: the f32 of the bf16 in a[15:0] (R20, R106). -/
def execBfunpk (d a : BitVec 5) (s : State) : Host.Outcome State Fault Refusal :=
  unary (fun a => toWord (Num.widen .bf16 (a.toNat % 2 ^ 16))) d a s

/-- Exact products of `n` packed elements of a format (R29). -/
def products (f : Num.Fmt) (n : Nat) (a b : Word) : List Num.Val :=
  (List.range n).map (fun i =>
    let e (w : Word) : Num.Val := Num.decode f (w.toNat / 2 ^ (f.width * i) % 2 ^ f.width)
    Num.mulV (e a) (e b))

/-- The windowed sum of the accumulator and the products, one rounding; reads rd (R28, R107). -/
def packedDot (f : Num.Fmt) (n : Nat) (d a b : Reg) (s : State) : Host.Outcome State Fault Refusal :=
  compute [d, a, b] d (fun x =>
    toWord (Num.windowSum (Num.ofF32 (x.f32 d) :: products f n (x.reg a) (x.reg b)))) s

/-- `bfdot4` (R107). -/
def execBfdot4 (d a b : BitVec 5) (s : State) : Host.Outcome State Fault Refusal := packedDot .bf16 4 d a b s

/-- `e4dot8` (R107). -/
def execE4dot8 (d a b : BitVec 5) (s : State) : Host.Outcome State Fault Refusal := packedDot .e4m3 8 d a b s

end Sys2Proof.Machine
end

