-- ==== Sys2Proof/Machine/Dispatch.lean ====
section
/-! DEFINITION. One arm for each constructor of Instr: its meaning. -/

namespace Sys2Proof.Machine
open Sys2Proof

def exec (i : Instr) (s : State) : Host.Outcome State Fault Refusal :=
  match i with
  | .trap c => Sys2Proof.Machine.execTrap c s
  | .rdcyc d => Sys2Proof.Machine.execRdcyc d s
  | .rdout d => Sys2Proof.Machine.execRdout d s
  | .pseq d => Sys2Proof.Machine.execPseq d s
  | .svc c => Sys2Proof.Machine.execSvc c s
  | .add d a b => Sys2Proof.Machine.execAdd d a b s
  | .sub d a b => Sys2Proof.Machine.execSub d a b s
  | .mul d a b => Sys2Proof.Machine.execMul d a b s
  | .mulh d a b => Sys2Proof.Machine.execMulh d a b s
  | .mulhs d a b => Sys2Proof.Machine.execMulhs d a b s
  | .div d a b => Sys2Proof.Machine.execDiv d a b s
  | .divs d a b => Sys2Proof.Machine.execDivs d a b s
  | .rem d a b => Sys2Proof.Machine.execRem d a b s
  | .rems d a b => Sys2Proof.Machine.execRems d a b s
  | .and d a b => Sys2Proof.Machine.execAnd d a b s
  | .or d a b => Sys2Proof.Machine.execOr d a b s
  | .xor d a b => Sys2Proof.Machine.execXor d a b s
  | .andn d a b => Sys2Proof.Machine.execAndn d a b s
  | .shl d a b => Sys2Proof.Machine.execShl d a b s
  | .shr d a b => Sys2Proof.Machine.execShr d a b s
  | .sra d a b => Sys2Proof.Machine.execSra d a b s
  | .rol d a b => Sys2Proof.Machine.execRol d a b s
  | .min d a b => Sys2Proof.Machine.execMin d a b s
  | .mins d a b => Sys2Proof.Machine.execMins d a b s
  | .max d a b => Sys2Proof.Machine.execMax d a b s
  | .maxs d a b => Sys2Proof.Machine.execMaxs d a b s
  | .clz d a => Sys2Proof.Machine.execClz d a s
  | .ctz d a => Sys2Proof.Machine.execCtz d a s
  | .popc d a => Sys2Proof.Machine.execPopc d a s
  | .sxb d a => Sys2Proof.Machine.execSxb d a s
  | .sxh d a => Sys2Proof.Machine.execSxh d a s
  | .sxw d a => Sys2Proof.Machine.execSxw d a s
  | .zxw d a => Sys2Proof.Machine.execZxw d a s
  | .addw d a b => Sys2Proof.Machine.execAddw d a b s
  | .subw d a b => Sys2Proof.Machine.execSubw d a b s
  | .mulw d a b => Sys2Proof.Machine.execMulw d a b s
  | .adds d a b => Sys2Proof.Machine.execAdds d a b s
  | .subs d a b => Sys2Proof.Machine.execSubs d a b s
  | .bswp d a => Sys2Proof.Machine.execBswp d a s
  | .addi d a imm => Sys2Proof.Machine.execAddi d a imm s
  | .andi d a imm => Sys2Proof.Machine.execAndi d a imm s
  | .ori d a imm => Sys2Proof.Machine.execOri d a imm s
  | .xori d a imm => Sys2Proof.Machine.execXori d a imm s
  | .muli d a imm => Sys2Proof.Machine.execMuli d a imm s
  | .shli d a m => Sys2Proof.Machine.execShli d a m s
  | .shri d a m => Sys2Proof.Machine.execShri d a m s
  | .srai d a m => Sys2Proof.Machine.execSrai d a m s
  | .roli d a m => Sys2Proof.Machine.execRoli d a m s
  | .cmpEq p a b => Sys2Proof.Machine.execCmpEq p a b s
  | .cmpEqImm p a imm => Sys2Proof.Machine.execCmpEqImm p a imm s
  | .cmpNe p a b => Sys2Proof.Machine.execCmpNe p a b s
  | .cmpNeImm p a imm => Sys2Proof.Machine.execCmpNeImm p a imm s
  | .cmpLt p a b => Sys2Proof.Machine.execCmpLt p a b s
  | .cmpLtImm p a imm => Sys2Proof.Machine.execCmpLtImm p a imm s
  | .cmpGe p a b => Sys2Proof.Machine.execCmpGe p a b s
  | .cmpGeImm p a imm => Sys2Proof.Machine.execCmpGeImm p a imm s
  | .cmpLtu p a b => Sys2Proof.Machine.execCmpLtu p a b s
  | .cmpLtuImm p a imm => Sys2Proof.Machine.execCmpLtuImm p a imm s
  | .cmpGeu p a b => Sys2Proof.Machine.execCmpGeu p a b s
  | .cmpGeuImm p a imm => Sys2Proof.Machine.execCmpGeuImm p a imm s
  | .cmpGt p a b => Sys2Proof.Machine.execCmpGt p a b s
  | .cmpGtImm p a imm => Sys2Proof.Machine.execCmpGtImm p a imm s
  | .cmpLe p a b => Sys2Proof.Machine.execCmpLe p a b s
  | .cmpLeImm p a imm => Sys2Proof.Machine.execCmpLeImm p a imm s
  | .cmpGtu p a b => Sys2Proof.Machine.execCmpGtu p a b s
  | .cmpGtuImm p a imm => Sys2Proof.Machine.execCmpGtuImm p a imm s
  | .cmpLeu p a b => Sys2Proof.Machine.execCmpLeu p a b s
  | .cmpLeuImm p a imm => Sys2Proof.Machine.execCmpLeuImm p a imm s
  | .cmpTst p a b => Sys2Proof.Machine.execCmpTst p a b s
  | .cmpTstImm p a imm => Sys2Proof.Machine.execCmpTstImm p a imm s
  | .cmpNtst p a b => Sys2Proof.Machine.execCmpNtst p a b s
  | .cmpNtstImm p a imm => Sys2Proof.Machine.execCmpNtstImm p a imm s
  | .cmpFeq p a b => Sys2Proof.Machine.execCmpFeq p a b s
  | .cmpFlt p a b => Sys2Proof.Machine.execCmpFlt p a b s
  | .cmpFle p a b => Sys2Proof.Machine.execCmpFle p a b s
  | .cmpFunord p a b => Sys2Proof.Machine.execCmpFunord p a b s
  | .pand d a b => Sys2Proof.Machine.execPand d a b s
  | .por d a b => Sys2Proof.Machine.execPor d a b s
  | .pxor d a b => Sys2Proof.Machine.execPxor d a b s
  | .pandn d a b => Sys2Proof.Machine.execPandn d a b s
  | .pnot d a => Sys2Proof.Machine.execPnot d a s
  | .pget d => Sys2Proof.Machine.execPget d s
  | .pput a => Sys2Proof.Machine.execPput a s
  | .movz d h imm => Sys2Proof.Machine.execMovz d h imm s
  | .movk d h imm => Sys2Proof.Machine.execMovk d h imm s
  | .br o => Sys2Proof.Machine.execBr o s
  | .call o => Sys2Proof.Machine.execCall o s
  | .jr a => Sys2Proof.Machine.execJr a s
  | .jcall d a => Sys2Proof.Machine.execJcall d a s
  | .fadd d a b => Sys2Proof.Machine.execFadd d a b s
  | .fsub d a b => Sys2Proof.Machine.execFsub d a b s
  | .fmul d a b => Sys2Proof.Machine.execFmul d a b s
  | .fma d a b => Sys2Proof.Machine.execFma d a b s
  | .fmax d a b => Sys2Proof.Machine.execFmax d a b s
  | .fmin d a b => Sys2Proof.Machine.execFmin d a b s
  | .fabs d a => Sys2Proof.Machine.execFabs d a s
  | .fneg d a => Sys2Proof.Machine.execFneg d a s
  | .fdiv d a b => Sys2Proof.Machine.execFdiv d a b s
  | .fsqrt d a => Sys2Proof.Machine.execFsqrt d a s
  | .frsqrt d a => Sys2Proof.Machine.execFrsqrt d a s
  | .frcp d a => Sys2Proof.Machine.execFrcp d a s
  | .fexp2 d a => Sys2Proof.Machine.execFexp2 d a s
  | .flog2 d a => Sys2Proof.Machine.execFlog2 d a s
  | .itof d a => Sys2Proof.Machine.execItof d a s
  | .ftoiRne d a => Sys2Proof.Machine.execFtoiRne d a s
  | .ftoiRz d a => Sys2Proof.Machine.execFtoiRz d a s
  | .ftoiDn d a => Sys2Proof.Machine.execFtoiDn d a s
  | .bfdot4 d a b => Sys2Proof.Machine.execBfdot4 d a b s
  | .e4dot8 d a b => Sys2Proof.Machine.execE4dot8 d a b s
  | .bfpack d a b => Sys2Proof.Machine.execBfpack d a b s
  | .bfunpk d a => Sys2Proof.Machine.execBfunpk d a s
  | .ldb d a imm => Sys2Proof.Machine.execLdb d a imm s
  | .ldh d a imm => Sys2Proof.Machine.execLdh d a imm s
  | .ldw d a imm => Sys2Proof.Machine.execLdw d a imm s
  | .ldd d a imm => Sys2Proof.Machine.execLdd d a imm s
  | .ldbs d a imm => Sys2Proof.Machine.execLdbs d a imm s
  | .ldhs d a imm => Sys2Proof.Machine.execLdhs d a imm s
  | .ldws d a imm => Sys2Proof.Machine.execLdws d a imm s
  | .stb d a imm => Sys2Proof.Machine.execStb d a imm s
  | .sth d a imm => Sys2Proof.Machine.execSth d a imm s
  | .stw d a imm => Sys2Proof.Machine.execStw d a imm s
  | .std d a imm => Sys2Proof.Machine.execStd d a imm s
  | .aadd d a b z => Sys2Proof.Machine.execAadd d a b z s
  | .aand d a b z => Sys2Proof.Machine.execAand d a b z s
  | .aor d a b z => Sys2Proof.Machine.execAor d a b z s
  | .axor d a b z => Sys2Proof.Machine.execAxor d a b z s
  | .amin d a b z => Sys2Proof.Machine.execAmin d a b z s
  | .amins d a b z => Sys2Proof.Machine.execAmins d a b z s
  | .amax d a b z => Sys2Proof.Machine.execAmax d a b z s
  | .amaxs d a b z => Sys2Proof.Machine.execAmaxs d a b z s
  | .aswap d a b z => Sys2Proof.Machine.execAswap d a b z s
  | .acas d a b z => Sys2Proof.Machine.execAcas d a b z s
  | .postAdd a b z => Sys2Proof.Machine.execPostAdd a b z s
  | .postAnd a b z => Sys2Proof.Machine.execPostAnd a b z s
  | .postOr a b z => Sys2Proof.Machine.execPostOr a b z s
  | .postXor a b z => Sys2Proof.Machine.execPostXor a b z s
  | .postMin a b z => Sys2Proof.Machine.execPostMin a b z s
  | .postMins a b z => Sys2Proof.Machine.execPostMins a b z s
  | .postMax a b z => Sys2Proof.Machine.execPostMax a b z s
  | .postMaxs a b z => Sys2Proof.Machine.execPostMaxs a b z s
  | .postSt a b z => Sys2Proof.Machine.execPostSt a b z s
  | .fenceRel t x m l => Sys2Proof.Machine.execFenceRel t x m l s
  | .fenceAcq t x m l => Sys2Proof.Machine.execFenceAcq t x m l s
  | .fenceFull t x m l => Sys2Proof.Machine.execFenceFull t x m l s
  | .park a b => Sys2Proof.Machine.execPark a b s
  | .spawn d a b => Sys2Proof.Machine.execSpawn d a b s
  | .spawnat d a b => Sys2Proof.Machine.execSpawnat d a b s
  | .go a => Sys2Proof.Machine.execGo a s
  | .join a => Sys2Proof.Machine.execJoin a s
  | .cancel a b => Sys2Proof.Machine.execCancel a b s
  | .prio a => Sys2Proof.Machine.execPrio a s
  | .setlin a => Sys2Proof.Machine.execSetlin a s
  | .arrive a => Sys2Proof.Machine.execArrive a s
  | .await a b => Sys2Proof.Machine.execAwait a b s
  | .vfadd d a b l => Sys2Proof.Machine.execVfadd d a b l s
  | .vfsub d a b l => Sys2Proof.Machine.execVfsub d a b l s
  | .vfmul d a b l => Sys2Proof.Machine.execVfmul d a b l s
  | .vfma d a b l => Sys2Proof.Machine.execVfma d a b l s
  | .vfmax d a b l => Sys2Proof.Machine.execVfmax d a b l s
  | .vfmin d a b l => Sys2Proof.Machine.execVfmin d a b l s
  | .vfabs d b l => Sys2Proof.Machine.execVfabs d b l s
  | .vfneg d b l => Sys2Proof.Machine.execVfneg d b l s
  | .vfdiv d a b l => Sys2Proof.Machine.execVfdiv d a b l s
  | .vfcmpEq d a b l => Sys2Proof.Machine.execVfcmpEq d a b l s
  | .vfcmpLt d a b l => Sys2Proof.Machine.execVfcmpLt d a b l s
  | .vfcmpLe d a b l => Sys2Proof.Machine.execVfcmpLe d a b l s
  | .viadd d a b l => Sys2Proof.Machine.execViadd d a b l s
  | .visub d a b l => Sys2Proof.Machine.execVisub d a b l s
  | .vimul d a b l => Sys2Proof.Machine.execVimul d a b l s
  | .vimax d a b l => Sys2Proof.Machine.execVimax d a b l s
  | .vimin d a b l => Sys2Proof.Machine.execVimin d a b l s
  | .vand d a b l => Sys2Proof.Machine.execVand d a b l s
  | .vor d a b l => Sys2Proof.Machine.execVor d a b l s
  | .vxor d a b l => Sys2Proof.Machine.execVxor d a b l s
  | .vshl d a b l => Sys2Proof.Machine.execVshl d a b l s
  | .vshr d a b l => Sys2Proof.Machine.execVshr d a b l s
  | .vsra d a b l => Sys2Proof.Machine.execVsra d a b l s
  | .vicmpEq d a b l => Sys2Proof.Machine.execVicmpEq d a b l s
  | .vicmpLt d a b l => Sys2Proof.Machine.execVicmpLt d a b l s
  | .vsel d a b l => Sys2Proof.Machine.execVsel d a b l s
  | .vmov d b l => Sys2Proof.Machine.execVmov d b l s
  | .vld v a b t => Sys2Proof.Machine.execVld v a b t s
  | .vst v a b t => Sys2Proof.Machine.execVst v a b t s
  | .vldr v a t => Sys2Proof.Machine.execVldr v a t s
  | .vcvtF32I32 d b l => Sys2Proof.Machine.execVcvtF32I32 d b l s
  | .vcvtI32F32Rne d b l => Sys2Proof.Machine.execVcvtI32F32Rne d b l s
  | .vcvtI32F32Rz d b l => Sys2Proof.Machine.execVcvtI32F32Rz d b l s
  | .vqzE4m3 d b l => Sys2Proof.Machine.execVqzE4m3 d b l s
  | .vqzE5m2 d b l => Sys2Proof.Machine.execVqzE5m2 d b l s
  | .vqzBf16 d b l => Sys2Proof.Machine.execVqzBf16 d b l s
  | .vqzE5m2Ieee d b l => Sys2Proof.Machine.execVqzE5m2Ieee d b l s
  | .vrsum d b l => Sys2Proof.Machine.execVrsum d b l s
  | .vrmax d b l => Sys2Proof.Machine.execVrmax d b l s
  | .vrmin d b l => Sys2Proof.Machine.execVrmin d b l s
  | .vramax d b l => Sys2Proof.Machine.execVramax d b l s
  | .vrsqrt d b l => Sys2Proof.Machine.execVrsqrt d b l s
  | .vrcp d b l => Sys2Proof.Machine.execVrcp d b l s
  | .vsqrt d b l => Sys2Proof.Machine.execVsqrt d b l s
  | .vexp2 d b l => Sys2Proof.Machine.execVexp2 d b l s
  | .vlog2 d b l => Sys2Proof.Machine.execVlog2 d b l s
  | .vshape a b => Sys2Proof.Machine.execVshape a b s
  | .vbcast v a => Sys2Proof.Machine.execVbcast v a s
  | .vget v a b => Sys2Proof.Machine.execVget v a b s
  | .vput v a b => Sys2Proof.Machine.execVput v a b s
  | .vzero v => Sys2Proof.Machine.execVzero v s
  | .fetch rs p c => Sys2Proof.Machine.execFetch rs p c s
  | .fid d c => Sys2Proof.Machine.execFid d c s
  | .fdone d c => Sys2Proof.Machine.execFdone d c s
  | .fwait a c => Sys2Proof.Machine.execFwait a c s
  | .fstat d c => Sys2Proof.Machine.execFstat d c s
  | .mcset d a b => Sys2Proof.Machine.execMcset d a b s
  | .mcclr d a => Sys2Proof.Machine.execMcclr d a s
  | .fres d a c => Sys2Proof.Machine.execFres d a c s
  | .fabt d a c => Sys2Proof.Machine.execFabt d a c s
  | .mgo rs p => Sys2Proof.Machine.execMgo rs p s
  | .mfmt a b => Sys2Proof.Machine.execMfmt a b s
  | .mstat d => Sys2Proof.Machine.execMstat d s
  | .cbinit a h => Sys2Proof.Machine.execCbinit a h s
  | .cbwait d h => Sys2Proof.Machine.execCbwait d h s
  | .cbspace d h => Sys2Proof.Machine.execCbspace d h s
  | .cbpush a h => Sys2Proof.Machine.execCbpush a h s
  | .cbpop h => Sys2Proof.Machine.execCbpop h s
  | .cbcnt d h => Sys2Proof.Machine.execCbcnt d h s
  | .xopen d a c => Sys2Proof.Machine.execXopen d a c s
  | .xclose d c => Sys2Proof.Machine.execXclose d c s
  | .xstat d c => Sys2Proof.Machine.execXstat d c s
  | .psend rs p c => Sys2Proof.Machine.execPsend rs p c s
  | .csrr r c => Sys2Proof.Machine.execCsrr r c s
  | .csrw r c => Sys2Proof.Machine.execCsrw r c s
  | .csrs r c => Sys2Proof.Machine.execCsrs r c s
  | .csrc r c => Sys2Proof.Machine.execCsrc r c s
  | .tlbi a b => Sys2Proof.Machine.execTlbi a b s
  | .tlbia b => Sys2Proof.Machine.execTlbia b s
  | .cwb a b => Sys2Proof.Machine.execCwb a b s
  | .cinv a b => Sys2Proof.Machine.execCinv a b s
  | .domset d a b => Sys2Proof.Machine.execDomset d a b s
  | .preemptSave d a b => Sys2Proof.Machine.execPreemptSave d a b s
  | .preemptRestore d a b => Sys2Proof.Machine.execPreemptRestore d a b s
  | .preemptReset d a b => Sys2Proof.Machine.execPreemptReset d a b s
  | .pack d a b => Sys2Proof.Machine.execPack d a b s
  | .prest d a b => Sys2Proof.Machine.execPrest d a b s
  | .sres d a => Sys2Proof.Machine.execSres d a s
  | .sredir d a => Sys2Proof.Machine.execSredir d a s
  | .nop => Sys2Proof.Machine.execNop s
  | .done => Sys2Proof.Machine.execDone s
  | .yield => Sys2Proof.Machine.execYield s
  | .brk => Sys2Proof.Machine.execBrk s
  | .pin => Sys2Proof.Machine.execPin s
  | .unpin => Sys2Proof.Machine.execUnpin s
  | .vclaim => Sys2Proof.Machine.execVclaim s
  | .vrel => Sys2Proof.Machine.execVrel s
  | .mclaim => Sys2Proof.Machine.execMclaim s
  | .mrel => Sys2Proof.Machine.execMrel s
  | .mwait => Sys2Proof.Machine.execMwait s
  | .tret => Sys2Proof.Machine.execTret s
  | .matrixMzero => Sys2Proof.Machine.execMatrixMzero s
  | .matrixMstep => Sys2Proof.Machine.execMatrixMstep s
  | .matrixMload => Sys2Proof.Machine.execMatrixMload s
  | .matrixMout => Sys2Proof.Machine.execMatrixMout s
  | .matrixStepFire => Sys2Proof.Machine.execMatrixStepFire s
  | .matrixActionEnd => Sys2Proof.Machine.execMatrixActionEnd s
  | .deferredEngineTrap => Sys2Proof.Machine.execDeferredEngineTrap s
  | .imageLoad => Sys2Proof.Machine.execImageLoad s
  | .migrationArrival => Sys2Proof.Machine.execMigrationArrival s
  | .spawnatArrival => Sys2Proof.Machine.execSpawnatArrival s
  | .parkContextArrival => Sys2Proof.Machine.execParkContextArrival s
  | .contextReturnArrival => Sys2Proof.Machine.execContextReturnArrival s
  | .admissionAnswer => Sys2Proof.Machine.execAdmissionAnswer s
  | .refusalArrival => Sys2Proof.Machine.execRefusalArrival s
  | .callFlitArrival => Sys2Proof.Machine.execCallFlitArrival s
  | .holdAgeTick => Sys2Proof.Machine.execHoldAgeTick s
  | .refusalResendTimeout => Sys2Proof.Machine.execRefusalResendTimeout s
  | .classAgeTick => Sys2Proof.Machine.execClassAgeTick s
  | .kennelToBarrel => Sys2Proof.Machine.execKennelToBarrel s
  | .lentMoveDone => Sys2Proof.Machine.execLentMoveDone s
  | .pinHoldExpiry => Sys2Proof.Machine.execPinHoldExpiry s
  | .contextLost => Sys2Proof.Machine.execContextLost s
  | .requestArrival => Sys2Proof.Machine.execRequestArrival s
  | .responseArrival => Sys2Proof.Machine.execResponseArrival s
  | .postedArrival => Sys2Proof.Machine.execPostedArrival s
  | .watcherReady => Sys2Proof.Machine.execWatcherReady s
  | .joinContinuation => Sys2Proof.Machine.execJoinContinuation s
  | .acknowledgementArrival => Sys2Proof.Machine.execAcknowledgementArrival s
  | .postedRefusalArrival => Sys2Proof.Machine.execPostedRefusalArrival s
  | .deferredRefusalTrap => Sys2Proof.Machine.execDeferredRefusalTrap s
  | .walkEntryResponse => Sys2Proof.Machine.execWalkEntryResponse s
  | .icacheFill => Sys2Proof.Machine.execIcacheFill s
  | .icacheParityRefill => Sys2Proof.Machine.execIcacheParityRefill s
  | .patrolScrub => Sys2Proof.Machine.execPatrolScrub s
  | .dramRefresh => Sys2Proof.Machine.execDramRefresh s
  | .cancelFlitArrival => Sys2Proof.Machine.execCancelFlitArrival s
  | .cancelStopAck => Sys2Proof.Machine.execCancelStopAck s
  | .sweepFlitArrival => Sys2Proof.Machine.execSweepFlitArrival s
  | .markerFlitArrival => Sys2Proof.Machine.execMarkerFlitArrival s
  | .cancelFinalAck => Sys2Proof.Machine.execCancelFinalAck s
  | .fetchTableRead => Sys2Proof.Machine.execFetchTableRead s
  | .fetchTableEntryArrival => Sys2Proof.Machine.execFetchTableEntryArrival s
  | .fetchReadIssue => Sys2Proof.Machine.execFetchReadIssue s
  | .burstLandBuffer => Sys2Proof.Machine.execBurstLandBuffer s
  | .burstLandMulticast => Sys2Proof.Machine.execBurstLandMulticast s
  | .burstLandCb => Sys2Proof.Machine.execBurstLandCb s
  | .burstLandHandler => Sys2Proof.Machine.execBurstLandHandler s
  | .engineWriteArrival => Sys2Proof.Machine.execEngineWriteArrival s
  | .engineWriteAck => Sys2Proof.Machine.execEngineWriteAck s
  | .fetchSlotPush => Sys2Proof.Machine.execFetchSlotPush s
  | .fetchCompletionPoint => Sys2Proof.Machine.execFetchCompletionPoint s
  | .completionArrivalAck => Sys2Proof.Machine.execCompletionArrivalAck s
  | .fresAtChannel => Sys2Proof.Machine.execFresAtChannel s
  | .xchBindArrival => Sys2Proof.Machine.execXchBindArrival s
  | .xchBindReply => Sys2Proof.Machine.execXchBindReply s
  | .xchSlotStart => Sys2Proof.Machine.execXchSlotStart s
  | .xchDataFlitArrival => Sys2Proof.Machine.execXchDataFlitArrival s
  | .xchPermitArrival => Sys2Proof.Machine.execXchPermitArrival s
  | .xchRefreshTimer => Sys2Proof.Machine.execXchRefreshTimer s
  | .xchCounterParityError => Sys2Proof.Machine.execXchCounterParityError s
  | .xchResyncFlitArrival => Sys2Proof.Machine.execXchResyncFlitArrival s
  | .xchErrorFlitArrival => Sys2Proof.Machine.execXchErrorFlitArrival s
  | .xchCloseRequestArrival => Sys2Proof.Machine.execXchCloseRequestArrival s
  | .xchUnbindArrival => Sys2Proof.Machine.execXchUnbindArrival s
  | .xchUnbindReply => Sys2Proof.Machine.execXchUnbindReply s
  | .diePortFlitArrival => Sys2Proof.Machine.execDiePortFlitArrival s
  | .orderCountTimer => Sys2Proof.Machine.execOrderCountTimer s
  | .orderCountArrival => Sys2Proof.Machine.execOrderCountArrival s
  | .flitHeaderFailure => Sys2Proof.Machine.execFlitHeaderFailure s
  | .gorrexFrameArrival => Sys2Proof.Machine.execGorrexFrameArrival s
  | .gorrexIdleFrameTimer => Sys2Proof.Machine.execGorrexIdleFrameTimer s
  | .gorrexReplayTimeout => Sys2Proof.Machine.execGorrexReplayTimeout s
  | .gorrexLaneFailure => Sys2Proof.Machine.execGorrexLaneFailure s
  | .gorrexRetrainDone => Sys2Proof.Machine.execGorrexRetrainDone s
  | .gorrexCounterParityError => Sys2Proof.Machine.execGorrexCounterParityError s
  | .gorrexResyncAnswer => Sys2Proof.Machine.execGorrexResyncAnswer s
  | .gorrexLaneRecalibration => Sys2Proof.Machine.execGorrexLaneRecalibration s
  | .telemetrySample => Sys2Proof.Machine.execTelemetrySample s
  | .ethernetFrameArrival => Sys2Proof.Machine.execEthernetFrameArrival s
  | .serviceEntryRegister => Sys2Proof.Machine.execServiceEntryRegister s
  | .serviceEntryClear => Sys2Proof.Machine.execServiceEntryClear s
  | .launchDispatch => Sys2Proof.Machine.execLaunchDispatch s
  | .psendTransmit => Sys2Proof.Machine.execPsendTransmit s
  | .hostLaunchAppend => Sys2Proof.Machine.execHostLaunchAppend s
  | .hostMemoryAccess => Sys2Proof.Machine.execHostMemoryAccess s
  | .powerOnReset => Sys2Proof.Machine.execPowerOnReset s
  | .supervisorCoreRestart => Sys2Proof.Machine.execSupervisorCoreRestart s
  | .quoteRequest => Sys2Proof.Machine.execQuoteRequest s
  | .thermalGovernance => Sys2Proof.Machine.execThermalGovernance s
  | .thermalShutdown => Sys2Proof.Machine.execThermalShutdown s
  | .messageRingWrite => Sys2Proof.Machine.execMessageRingWrite s
  | .singleStepTrap => Sys2Proof.Machine.execSingleStepTrap s
  | .preemptFlitArrival => Sys2Proof.Machine.execPreemptFlitArrival s
  | .preemptTileAck => Sys2Proof.Machine.execPreemptTileAck s
  | .restoreFlitArrival => Sys2Proof.Machine.execRestoreFlitArrival s
  | .sliceExpiry => Sys2Proof.Machine.execSliceExpiry s
  | .tlbiFlitArrival => Sys2Proof.Machine.execTlbiFlitArrival s
  | .domsetHoldArrival => Sys2Proof.Machine.execDomsetHoldArrival s
  | .domsetDescriptorArrival => Sys2Proof.Machine.execDomsetDescriptorArrival s
  | .cacheOpArrival => Sys2Proof.Machine.execCacheOpArrival s
  | .sresArrival => Sys2Proof.Machine.execSresArrival s
  | .remoteCsrRequest => Sys2Proof.Machine.execRemoteCsrRequest s
  | .csrWrite => Sys2Proof.Machine.execCsrWrite s
  | .kdepthKlendWrite => Sys2Proof.Machine.execKdepthKlendWrite s
  | .wdepthWrite => Sys2Proof.Machine.execWdepthWrite s
  | .stargetWrite => Sys2Proof.Machine.execStargetWrite s
  | .pinholdWrite => Sys2Proof.Machine.execPinholdWrite s
  | .msgringWrite => Sys2Proof.Machine.execMsgringWrite s
  | .gorrexExpectedParityError => Sys2Proof.Machine.execGorrexExpectedParityError s
  | .supervisorStartedRetrain => Sys2Proof.Machine.execSupervisorStartedRetrain s
  | .tileMapWrite => Sys2Proof.Machine.execTileMapWrite s
  | .forwardingEntryInstall => Sys2Proof.Machine.execForwardingEntryInstall s
  | .virtualFunctionBinding => Sys2Proof.Machine.execVirtualFunctionBinding s
  | .vectorLastRowWritten => Sys2Proof.Machine.execVectorLastRowWritten s

end Sys2Proof.Machine
end

