-- ==== Sys2Proof/Machine/Step.lean ====
section
/-! DEFINITION. One step of the module. -/

namespace Sys2Proof.Machine
open Sys2Proof

/-- One step: an event, an issue, or the passing of time. -/
def step (s : State) : Host.Outcome State Fault Refusal :=
  if s.powered then
    match s.nextWork with
    | .run i s => exec i s
    | .done s => .next s
    | .idle => .fault .idle
  else .fault .poweredDown

/-- `s` with a supervisor strand in slot 0 of core 0 of tile 0, at pc 0, whose tile's instruction cache holds the word
there, and nothing due before it (log entry 3). -/
def State.withFetchWord (s : State) (nbits w : Nat) : State :=
  s.placeWord (BitVec.ofNat 32 (w % 2 ^ nbits))

end Sys2Proof.Machine
end

