-- ==== Sys2Proof/Safety.lean ====
section
/-! DEFINITION. What a sound state of the module is and what an instruction does to it, in the terms that statements
use. -/

namespace Sys2Proof.Machine
open Sys2Proof

/-- Memory is in its canonical form. -/
abbrev State.memoryOk (s : State) : Prop := Memory.wf s.mem = true

/-- Strand number `u`, which is `x`, is in focus in barrel slot `n` of core `c` of tile `t`, at the start of an
instruction. -/
structure State.Issuing (s : State) (u : Nat) (x : Strand) (t c n : Nat) : Prop where
  focus : s.focus = u
  strand : s.strand u = some x
  place : x.place = .slot t c n
  start : x.prog.phase = 0

/-- No load has yet to write a register of `rd` or `wr`, and no register of `rd` is poisoned (R72, R116). -/
structure Strand.Clear (x : Strand) (rd wr : List Reg) : Prop where
  arrived : ∀ p ∈ x.pending, ∀ r ∈ rd ++ wr, r.toNat < 24 → p.2 ≠ r.toNat
  whole : ∀ e ∈ x.poison, ∀ r ∈ rd, e.1 ≠ r.toNat

/-- The strand `y` after it has retired with the pc at `pc` in cycle `now`: the stop counts one instruction more
(R36, R84), and the next instruction issues four cycles later (R71). -/
def Strand.finished (y : Strand) (pc : BitVec 48) (now : Nat) : Strand :=
  { y with ctx := { y.ctx with pc := pc, nstop := satInc16 y.ctx.nstop }, prog := Prog.none, run := .ready,
           fault := none, tried := false, nextAt := now + 4 }

/-- `s'` is `s` after the strand in focus has issued and retired an instruction that changed nothing but the strand
itself, to `y`, and left the pc at `pc`. A strand that single-steps has its step trap due (R271). -/
structure State.RetiredAs (s s' : State) (u t c n : Nat) (y : Strand) (pc : BitVec 48) : Prop where
  strand : s'.strand u = some (y.finished pc s.now)
  others : ∀ v, v ≠ u → s'.strand v = s.strand v
  core : s'.core t c = { s.core t c with rot := n, issued := s.now + 1 }
  cores : ∀ a b, coreNo a b ≠ coreNo t c → s'.core a b = s.core a b
  agenda : s'.agenda = if s.steps y then insertEntry ⟨s.now, 0, s.now, s.seq, .singleStepTrap u⟩ s.agenda else s.agenda
  memory : ∀ k, s'.byte k = s.byte k
  rest : s' = { s with strands := s'.strands, cores := s'.cores, agenda := s'.agenda, seq := s'.seq }

/-- `sid` is the sid that a `spawn` of `x` gives its child, and `n` the serial number of the tile from then on: the
tile's next, or the one that the `spawn` took before it began to wait for an earlier child (R67, R127). -/
def State.SpawnsAs (s : State) (x : Strand) (sid : BitVec 32) (n : BitVec 20) : Prop :=
  (x.prog.words = [] ∧ sid = BitVec.ofNat 12 x.tile ++ (s.tile x.tile).serial ∧ n = (s.tile x.tile).serial + 1) ∨
  (∃ w, x.prog.words = [(0, w)] ∧ sid = w.setWidth 32 ∧ n = (s.tile x.tile).serial)

/-! ## What instructions that change only their strand make of it -/

/-- Integer members: destination, registers read, and the value that R97 to R99 give. -/
def integerMember : Instr → Option (Reg × List Reg × (Strand → Word))
  | .add d a b => some (d, [a, b], fun x => x.reg a + x.reg b)
  | .sub d a b => some (d, [a, b], fun x => x.reg a - x.reg b)
  | .mul d a b => some (d, [a, b], fun x => x.reg a * x.reg b)
  | .mulh d a b => some (d, [a, b], fun x => mulhW (x.reg a) (x.reg b))
  | .mulhs d a b => some (d, [a, b], fun x => mulhsW (x.reg a) (x.reg b))
  | .div d a b => some (d, [a, b], fun x => udivW (x.reg a) (x.reg b))
  | .divs d a b => some (d, [a, b], fun x => sdivW (x.reg a) (x.reg b))
  | .rem d a b => some (d, [a, b], fun x => uremW (x.reg a) (x.reg b))
  | .rems d a b => some (d, [a, b], fun x => sremW (x.reg a) (x.reg b))
  | .and d a b => some (d, [a, b], fun x => x.reg a &&& x.reg b)
  | .or d a b => some (d, [a, b], fun x => x.reg a ||| x.reg b)
  | .xor d a b => some (d, [a, b], fun x => x.reg a ^^^ x.reg b)
  | .andn d a b => some (d, [a, b], fun x => x.reg a &&& ~~~(x.reg b))
  | .shl d a b => some (d, [a, b], fun x => x.reg a <<< ((x.reg b).toNat % 64))
  | .shr d a b => some (d, [a, b], fun x => x.reg a >>> ((x.reg b).toNat % 64))
  | .sra d a b => some (d, [a, b], fun x => (x.reg a).sshiftRight ((x.reg b).toNat % 64))
  | .rol d a b => some (d, [a, b], fun x => (x.reg a).rotateLeft ((x.reg b).toNat % 64))
  | .min d a b => some (d, [a, b], fun x => minW (x.reg a) (x.reg b))
  | .mins d a b => some (d, [a, b], fun x => minsW (x.reg a) (x.reg b))
  | .max d a b => some (d, [a, b], fun x => maxW (x.reg a) (x.reg b))
  | .maxs d a b => some (d, [a, b], fun x => maxsW (x.reg a) (x.reg b))
  | .clz d a => some (d, [a], fun x => clzW (x.reg a))
  | .ctz d a => some (d, [a], fun x => ctzW (x.reg a))
  | .popc d a => some (d, [a], fun x => popcW (x.reg a))
  | .sxb d a => some (d, [a], fun x => sextLow 8 (x.reg a))
  | .sxh d a => some (d, [a], fun x => sextLow 16 (x.reg a))
  | .sxw d a => some (d, [a], fun x => sextLow 32 (x.reg a))
  | .zxw d a => some (d, [a], fun x => toWord ((x.reg a).setWidth 32))
  | .addw d a b => some (d, [a, b], fun x => sextLow 32 (x.reg a + x.reg b))
  | .subw d a b => some (d, [a, b], fun x => sextLow 32 (x.reg a - x.reg b))
  | .mulw d a b => some (d, [a, b], fun x => sextLow 32 (x.reg a * x.reg b))
  | .adds d a b => some (d, [a, b], fun x => satW ((x.reg a).toInt + (x.reg b).toInt))
  | .subs d a b => some (d, [a, b], fun x => satW ((x.reg a).toInt - (x.reg b).toInt))
  | .bswp d a => some (d, [a], fun x => bswpW (x.reg a))
  | .addi d a i => some (d, [a], fun x => x.reg a + i.signExtend 64)
  | .andi d a i => some (d, [a], fun x => x.reg a &&& i.signExtend 64)
  | .ori d a i => some (d, [a], fun x => x.reg a ||| i.signExtend 64)
  | .xori d a i => some (d, [a], fun x => x.reg a ^^^ i.signExtend 64)
  | .muli d a i => some (d, [a], fun x => x.reg a * i.signExtend 64)
  | .shli d a m => some (d, [a], fun x => x.reg a <<< m.toNat)
  | .shri d a m => some (d, [a], fun x => x.reg a >>> m.toNat)
  | .srai d a m => some (d, [a], fun x => (x.reg a).sshiftRight m.toNat)
  | .roli d a m => some (d, [a], fun x => (x.reg a).rotateLeft m.toNat)
  | _ => none

/-- Members that read the strand's own state or build a constant: destination, registers read, and the value in cycle
`now` (R95, R101, R102, R126). -/
def movingMember (now : Nat) : Instr → Option (Reg × List Reg × (Strand → Word))
  | .rdcyc d => some (d, [], fun _ => BitVec.ofNat 64 now)
  | .rdout d => some (d, [], fun x => BitVec.ofNat 64 x.posted.length)
  | .pseq d => some (d, [], fun x => x.ctx.pseq.setWidth 64)
  | .pget d => some (d, [], fun x => (x.ctx.pred ||| 1).setWidth 64)
  | .movz d h i => some (d, [], fun _ => i.setWidth 64 <<< (16 * h.toNat))
  | .movk d h i => some (d, [d], fun x =>
      (x.reg d &&& ~~~(0xFFFF#64 <<< (16 * h.toNat))) ||| (i.setWidth 64 <<< (16 * h.toNat)))
  | _ => none

/-- f32 members: destination, registers read, and the value that R105 to R107 give; the number formats and their
rounding are those of `Num` (R20 to R31). -/
def floatMember : Instr → Option (Reg × List Reg × (Strand → Word))
  | .fadd d a b => some (d, [a, b], fun x => (Num.fadd (x.f32 a) (x.f32 b)).setWidth 64)
  | .fsub d a b => some (d, [a, b], fun x => (Num.fsub (x.f32 a) (x.f32 b)).setWidth 64)
  | .fmul d a b => some (d, [a, b], fun x => (Num.fmul (x.f32 a) (x.f32 b)).setWidth 64)
  | .fma d a b => some (d, [d, a, b], fun x => (Num.fma (x.f32 a) (x.f32 b) (x.f32 d)).setWidth 64)
  | .fmax d a b => some (d, [a, b], fun x => (Num.fmax (x.f32 a) (x.f32 b)).setWidth 64)
  | .fmin d a b => some (d, [a, b], fun x => (Num.fmin (x.f32 a) (x.f32 b)).setWidth 64)
  | .fabs d a => some (d, [a], fun x => (Num.fabs (x.f32 a)).setWidth 64)
  | .fneg d a => some (d, [a], fun x => (Num.fneg (x.f32 a)).setWidth 64)
  | .fdiv d a b => some (d, [a, b], fun x => (Num.fdiv (x.f32 a) (x.f32 b)).setWidth 64)
  | .fsqrt d a => some (d, [a], fun x => (Num.fsqrt (x.f32 a)).setWidth 64)
  | .frsqrt d a => some (d, [a], fun x => (Num.frsqrt (x.f32 a)).setWidth 64)
  | .frcp d a => some (d, [a], fun x => (Num.frcp (x.f32 a)).setWidth 64)
  | .fexp2 d a => some (d, [a], fun x => (Num.fexp2 (x.f32 a)).setWidth 64)
  | .flog2 d a => some (d, [a], fun x => (Num.flog2 (x.f32 a)).setWidth 64)
  | .itof d a => some (d, [a], fun x => (Num.ofInt (x.reg a).toInt).setWidth 64)
  | .ftoiRne d a => some (d, [a], fun x => Num.toInt .rne 64 (Num.ofF32 (x.f32 a)))
  | .ftoiRz d a => some (d, [a], fun x => Num.toInt .rz 64 (Num.ofF32 (x.f32 a)))
  | .ftoiDn d a => some (d, [a], fun x => Num.toInt .dn 64 (Num.ofF32 (x.f32 a)))
  | .bfpack d a b => some (d, [a, b], fun x =>
      BitVec.ofNat 64 (Num.narrow .bf16 .ieee (x.f32 a) + 2 ^ 16 * Num.narrow .bf16 .ieee (x.f32 b)))
  | .bfunpk d a => some (d, [a], fun x => (Num.widen .bf16 ((x.reg a).toNat % 2 ^ 16)).setWidth 64)
  | .bfdot4 d a b => some (d, [d, a, b], fun x =>
      (Num.windowSum (Num.ofF32 (x.f32 d) :: products .bf16 4 (x.reg a) (x.reg b))).setWidth 64)
  | .e4dot8 d a b => some (d, [d, a, b], fun x =>
      (Num.windowSum (Num.ofF32 (x.f32 d) :: products .e4m3 8 (x.reg a) (x.reg b))).setWidth 64)
  | _ => none

/-- Compares: predicate written, registers read, and the condition (R100). Signed conditions compare the words as
integers, the others as numbers without sign. -/
def compareMember : Instr → Option (Pred × List Reg × (Strand → Bool))
  | .cmpEq p a b => some (p, [a, b], fun x => decide (x.reg a = x.reg b))
  | .cmpNe p a b => some (p, [a, b], fun x => decide (x.reg a ≠ x.reg b))
  | .cmpLt p a b => some (p, [a, b], fun x => decide ((x.reg a).toInt < (x.reg b).toInt))
  | .cmpGe p a b => some (p, [a, b], fun x => decide ((x.reg b).toInt ≤ (x.reg a).toInt))
  | .cmpLtu p a b => some (p, [a, b], fun x => decide ((x.reg a).toNat < (x.reg b).toNat))
  | .cmpGeu p a b => some (p, [a, b], fun x => decide ((x.reg b).toNat ≤ (x.reg a).toNat))
  | .cmpGt p a b => some (p, [a, b], fun x => decide ((x.reg b).toInt < (x.reg a).toInt))
  | .cmpLe p a b => some (p, [a, b], fun x => decide ((x.reg a).toInt ≤ (x.reg b).toInt))
  | .cmpGtu p a b => some (p, [a, b], fun x => decide ((x.reg b).toNat < (x.reg a).toNat))
  | .cmpLeu p a b => some (p, [a, b], fun x => decide ((x.reg a).toNat ≤ (x.reg b).toNat))
  | .cmpTst p a b => some (p, [a, b], fun x => decide (x.reg a &&& x.reg b ≠ 0))
  | .cmpNtst p a b => some (p, [a, b], fun x => decide (x.reg a &&& x.reg b = 0))
  | .cmpFeq p a b => some (p, [a, b], fun x => Num.feq (x.f32 a) (x.f32 b))
  | .cmpFlt p a b => some (p, [a, b], fun x => Num.flt (x.f32 a) (x.f32 b))
  | .cmpFle p a b => some (p, [a, b], fun x => Num.fle (x.f32 a) (x.f32 b))
  | .cmpFunord p a b => some (p, [a, b], fun x => Num.unordered (x.f32 a) (x.f32 b))
  | .cmpEqImm p a i => some (p, [a], fun x => decide (x.reg a = i.signExtend 64))
  | .cmpNeImm p a i => some (p, [a], fun x => decide (x.reg a ≠ i.signExtend 64))
  | .cmpLtImm p a i => some (p, [a], fun x => decide ((x.reg a).toInt < i.toInt))
  | .cmpGeImm p a i => some (p, [a], fun x => decide (i.toInt ≤ (x.reg a).toInt))
  | .cmpLtuImm p a i => some (p, [a], fun x => decide ((x.reg a).toNat < (i.signExtend 64).toNat))
  | .cmpGeuImm p a i => some (p, [a], fun x => decide ((i.signExtend 64).toNat ≤ (x.reg a).toNat))
  | .cmpGtImm p a i => some (p, [a], fun x => decide (i.toInt < (x.reg a).toInt))
  | .cmpLeImm p a i => some (p, [a], fun x => decide ((x.reg a).toInt ≤ i.toInt))
  | .cmpGtuImm p a i => some (p, [a], fun x => decide ((i.signExtend 64).toNat < (x.reg a).toNat))
  | .cmpLeuImm p a i => some (p, [a], fun x => decide ((x.reg a).toNat ≤ (i.signExtend 64).toNat))
  | .cmpTstImm p a i => some (p, [a], fun x => decide (x.reg a &&& i.signExtend 64 ≠ 0))
  | .cmpNtstImm p a i => some (p, [a], fun x => decide (x.reg a &&& i.signExtend 64 = 0))
  | .pand p a b => some (p, [], fun x => x.ctx.getPred a && x.ctx.getPred b)
  | .por p a b => some (p, [], fun x => x.ctx.getPred a || x.ctx.getPred b)
  | .pxor p a b => some (p, [], fun x => x.ctx.getPred a != x.ctx.getPred b)
  | .pandn p a b => some (p, [], fun x => x.ctx.getPred a && !(x.ctx.getPred b))
  | .pnot p a => some (p, [], fun x => !(x.ctx.getPred a))
  | _ => none

/-- Members that change the strand's context in another way than by writing a register or one predicate: registers
read and the strand after it (R92, R101, R130, R131). -/
def contextMember : Instr → Option (List Reg × (Strand → Strand))
  | .nop => some ([], fun x => x)
  | .pput a => some ([a], fun x => { x with ctx := { x.ctx with pred := (x.reg a).setWidth 16 ||| 1 } })
  | .pin => some ([], fun x => { x with ctx := { x.ctx with xpin := true } })
  | .unpin => some ([], fun x => { x with ctx := { x.ctx with xpin := false } })
  | .prio a => some ([a], fun x => { x with ctx := { x.ctx with cls := BitVec.ofNat 2 (min (x.reg a).toNat 3) } })
  | _ => none

/-- Control transfers: registers read, registers written, the target, and the strand after the link (R103, R104). -/
def jumpMember : Instr → Option (List Reg × List Reg × (Strand → Word) × (Strand → Strand))
  | .br o => some ([], [], fun x => x.ctx.pc.setWidth 64 + 4 * o.signExtend 64, fun x => x)
  | .call o => some ([], [23], fun x => x.ctx.pc.setWidth 64 + 4 * o.signExtend 64,
      fun x => x.setReg 23 (x.ctx.pc.setWidth 64 + 4))
  | .jr a => some ([a], [], fun x => x.reg a, fun x => x)
  | .jcall d a => some ([a], [d], fun x => x.reg a, fun x => x.setReg d (x.ctx.pc.setWidth 64 + 4))
  | _ => none

/-- The strand after it has taken a trap in cycle `now`, before its handler's first instruction (R257, R259). -/
def Strand.trapped (x : Strand) (cause : Nat) (val : Word) (now : Nat) : Strand :=
  { x with ctx := { x.ctx with tcause := BitVec.ofNat 8 cause, tval := val, tpc := x.ctx.pc, pc := x.ctx.tvec },
           prog := Prog.none, run := .ready, fault := none, tried := false, nextAt := now + 4 }

/-- A ready strand whose instruction has been issued and waits in its slot (R71, R127). -/
def Strand.stalled (x : Strand) : Strand := { x with run := if x.run = .ready then .stalled else x.run, tried := true }

/-- `s'` is `s` after the strand in focus has taken a trap to its own vector: the trap registers hold the cause, the
value and the strand's pc; the handler's first instruction is at `tvec`; no general register, no predicate and no byte
of memory has changed (R257, R259). -/
structure State.TrappedAs (s s' : State) (u t c n : Nat) (x : Strand) (cause : Nat) (val : Word) : Prop where
  strand : s'.strand u = some (x.trapped cause val s.now)
  others : ∀ v, v ≠ u → s'.strand v = s.strand v
  core : s'.core t c = { s.core t c with rot := n, issued := s.now + 1 }
  cores : ∀ a b, coreNo a b ≠ coreNo t c → s'.core a b = s.core a b
  memory : ∀ k, s'.byte k = s.byte k
  rest : s' = { s with strands := s'.strands, cores := s'.cores, locks := s.locks.filter (fun l => l.2 != u) }

/-! ## Accesses -/

/-- Loads: bytes, whether sign-extended, destination, base and offset (R39, R115). -/
def loadMember : Instr → Option (Nat × Bool × Reg × Reg × BitVec 11)
  | .ldb d a i => some (1, false, d, a, i)
  | .ldh d a i => some (2, false, d, a, i)
  | .ldw d a i => some (4, false, d, a, i)
  | .ldd d a i => some (8, false, d, a, i)
  | .ldbs d a i => some (1, true, d, a, i)
  | .ldhs d a i => some (2, true, d, a, i)
  | .ldws d a i => some (4, true, d, a, i)
  | _ => none

/-- Stores: bytes, the register stored, base and offset (R117). -/
def storeMember : Instr → Option (Nat × Reg × Reg × BitVec 11)
  | .stb d a i => some (1, d, a, i)
  | .sth d a i => some (2, d, a, i)
  | .stw d a i => some (4, d, a, i)
  | .std d a i => some (8, d, a, i)
  | _ => none

/-- Returning atomics: function, bytes, destination, address, operand, and whether rd is read as the expected value
(R118). -/
def atomicMember : Instr → Option (Rmw × Nat × Reg × Reg × Reg × Bool)
  | .aadd d a b z => some (.add, amoSize z, d, a, b, false)
  | .aand d a b z => some (.and, amoSize z, d, a, b, false)
  | .aor d a b z => some (.or, amoSize z, d, a, b, false)
  | .axor d a b z => some (.xor, amoSize z, d, a, b, false)
  | .amin d a b z => some (.min, amoSize z, d, a, b, false)
  | .amins d a b z => some (.mins, amoSize z, d, a, b, false)
  | .amax d a b z => some (.max, amoSize z, d, a, b, false)
  | .amaxs d a b z => some (.maxs, amoSize z, d, a, b, false)
  | .aswap d a b z => some (.swap, amoSize z, d, a, b, false)
  | .acas d a b z => some (.cas, amoSize z, d, a, b, true)
  | _ => none

/-- Posted operations: function, bytes, address and operand (R119). -/
def postMember : Instr → Option (Rmw × Nat × Reg × Reg)
  | .postAdd a b z => some (.add, amoSize z, a, b)
  | .postAnd a b z => some (.and, amoSize z, a, b)
  | .postOr a b z => some (.or, amoSize z, a, b)
  | .postXor a b z => some (.xor, amoSize z, a, b)
  | .postMin a b z => some (.min, amoSize z, a, b)
  | .postMins a b z => some (.mins, amoSize z, a, b)
  | .postMax a b z => some (.max, amoSize z, a, b)
  | .postMaxs a b z => some (.maxs, amoSize z, a, b)
  | .postSt a b z => some (.st, amoSize z, a, b)
  | _ => none

/-- The address `a` names the target `tgt`, whose first byte is number `k` of the tile `owner`, and the access is
allowed: `translate` has answered in the state `s1` (R47, R49, R54), which differs from `s` in the order of a TLB
alone. The strand's vector unit has no memory instruction under way (R165). -/
structure State.Names (s : State) (u : Nat) (x : Strand) (a : Word) (p : Perm) (tgt : Target) (owner k : Nat)
    (s1 : State) : Prop where
  free : s.vectorMemBusy u x = false
  named : s.translate u x a p = .ok (.here tgt owner k, s1)

/-- `s'` is `s` after the strand in focus has issued an instruction that makes an access, and is now `y`. No byte but
those of `stored` has changed, no event that was due is lost, no other strand and no supervisor CSR has changed; of the
rest only what an access passes through may have. -/
structure State.AccessedAs (s s' : State) (u t c n : Nat) (y : Strand) (stored : Nat → Prop) : Prop where
  strand : s'.strand u = some y
  others : ∀ v, v ≠ u → s'.strand v = s.strand v
  core : s'.core t c = { s.core t c with rot := n, issued := s.now + 1 }
  cores : ∀ a b, coreNo a b ≠ coreNo t c → s'.core a b = s.core a b
  memory : ∀ j, ¬ stored j → s'.byte j = s.byte j
  events : ∀ e ∈ s.agenda, e ∈ s'.agenda
  csrs : ∀ a, s'.regs a = s.regs a
  locked : ∀ l, l.2 ≠ u → (l ∈ s'.locks ↔ l ∈ s.locks)
  rest : s' = { s with strands := s'.strands, cores := s'.cores, agenda := s'.agenda, seq := s'.seq, ctr := s'.ctr,
                       tiles := s'.tiles, cache := s'.cache, backing := s'.backing, mem := s'.mem,
                       poison := s'.poison, pairs := s'.pairs, locks := s'.locks }

/-- An event is due in `wait` cycles. -/
def State.Due (s s' : State) (wait : Nat) (ev : Event) : Prop :=
  ∃ e ∈ s'.agenda, e.due = s.now + wait ∧ e.ev = ev

/-- An event of a row of the table: it is performed as that row's instruction. -/
def isRow : Event → Bool
  | .none | .inject _ _ _ | .ask _ _ | .vpiece _ _ _ | .seat _ _ _ | .egress _ _ _ | .job _ | .launchLine _ | .hostFirmware _
  | .uncorrectable _ => false
  | _ => true

/-- The accesses of the unit `id` are over, with their answers in `j`, and it goes on in this step (R60). -/
structure State.UnitDone (s : State) (id : Nat) (j : Job) : Prop where
  on : s.powered = true
  due : ∃ e rest, s.dueEvent 1 = some (e, rest) ∧ e.ev = .job id
  job : SMap.find? s.jobs id = some j
  ended : j.todo = []

/-- The unit `j` begins its accesses in this cycle, under the next number (R60). -/
def State.Begins (s s' : State) (j : Job) : Prop := SMap.find? s'.jobs s.uids = some j ∧ s.Due s' 0 (.job s.uids)

/-- The strand with one more register pending (R72, R115). -/
def Strand.asking (x : Strand) (d : Reg) : Strand :=
  { x with pending := x.pending ++ [(x.ids, d.toNat)], ids := x.ids + 1 }

/-- The strand pinned by the pinning rule in cycle `now`, for `phold` cycles (R84). -/
def Strand.ruled (x : Strand) (now : Nat) : Strand :=
  { x with pinEnd := now + x.ctx.phold.toNat, ctx := { x.ctx with rpin := true, hleft := x.ctx.phold, alt := 0 } }

/-- The strand `x` sends its access at an address of tile `d` and does not go there, and is `y` then: it is pinned, or, with
nothing out and nothing poisoned, the pinning rule pins it here, since the alternation count of this stop would come to
`plim` (R83, R84). -/
def State.SendsFrom (s : State) (u : Nat) (x : Strand) (d : Nat) (y : Strand) : Prop :=
  (s.pinned u x = true ∧ y = x) ∨
  (s.pinned u x = false ∧ x.poison = [] ∧ x.pending = [] ∧ x.posted = [] ∧ x.ctx.plim ≠ 0 ∧
    x.ctx.plim.toNat ≤ (x.ctx.nextAlt d).toNat ∧ y = x.ruled s.now)

/-- Where the pinning rule has pinned `x`, the end of its hold is due (R84). -/
def State.HoldDue (s s' : State) (u : Nat) (x : Strand) : Prop :=
  s.pinned u x = false → s.Due s' x.ctx.phold.toNat (.pinHoldExpiry u (s.now + x.ctx.phold.toNat))

/-- The strand with one more posted operation out (R119). -/
def Strand.posting (x : Strand) (cls owner : Nat) : Strand :=
  { x with ctx := { x.ctx with pseq := x.ctx.pseq + 1 }, posted := x.posted ++ [⟨x.ctx.pseq.toNat, cls, owner⟩] }

/-- The `n` bytes from `k` hold the low bytes of `v`, the lowest first (R1). -/
def State.Holds (s : State) (k n : Nat) (v : Word) : Prop :=
  ∀ i, i < n → s.byte (k + i) = v.extractLsb' (8 * i) 8

/-- Byte `j` is one of the `n` from `k`. -/
def within (k n j : Nat) : Prop := k ≤ j ∧ j < k + n

/-- Byte `j` is in no area that holds a lent context `u` of tile `t` (R77). -/
def State.outsideLent (s : State) (t u j : Nat) : Prop :=
  ∀ c i, c < Config.coresOf t → SMap.find? (s.core t c).lslot u = some i → ¬ within (lentCell t i) 256 j

/-- Strands are listed under rising numbers, all below the next number to be given. -/
abbrev State.strandsOk (s : State) : Prop :=
  (SMap.rising s.strands && s.strands.all (fun e => decide (e.1 < s.uids))) = true

/-- A strand on its way from `x` to tile `d`: it has its slot until it is answered, its stop fields are those of the stop
that begins there, and it will execute its instruction again, or, for `go`, has done so; its packet says what its access
names (R58, R73, R81, R84, R129). -/
structure Strand.DepartedAs (x y : Strand) (u d : Nat) (alt : BitVec 8) (go : Bool) (tgt : Target) (now : Nat) : Prop where
  run : y.run = .held
  packet : y.packet = some (.mig ⟨u, x.tile, d, 0, false, go, false, some tgt⟩)
  stop : y.ctx = { x.ctx with prev := x.ctx.cur, cur := BitVec.ofNat 12 d, nstop := 0, alt := alt }
  same : y = { x with run := y.run, packet := y.packet, ctx := y.ctx, asked := false, prog := y.prog, nextAt := now + 4 }
  fresh : y.prog.phase = 0

/-- Loads, stores and atomics: bytes, registers read, register written, address and permission (R115, R117, R118). -/
def accessMember (i : Instr) : Option (Nat × List Reg × List Reg × (Strand → Word) × Perm) :=
  match loadMember i with
  | some (n, _, d, a, o) => some (n, [a], [d], fun x => x.reg a + offsetOf o n, permR)
  | none => match storeMember i with
    | some (n, d, a, o) => some (n, [d, a], [], fun x => x.reg a + offsetOf o n, permW)
    | none => match atomicMember i with
      | some (_, n, d, a, b, e) => some (n, if e then [d, a, b] else [a, b], [d], fun x => x.reg a, permRW)
      | none => none

/-- Every instruction that checks the alignment of an address, and how: bytes, registers read, register written, and
address (R115 to R119, R122, R139, R140). -/
def alignedMember (i : Instr) : Option (Nat × List Reg × List Reg × (Strand → Word)) :=
  match accessMember i with
  | some (n, rd, wr, f, _) => some (n, rd, wr, f)
  | none => match postMember i with
    | some (_, n, a, b) => some (n, [a, b], [], fun x => x.reg a)
    | none => match i with
      | .park a b => some (8, [a, b], [], fun x => x.reg a)
      | .await a b => some (8, [a, b], [], fun x => x.reg a)
      | .arrive a => some (8, [a], [], fun x => x.reg a)
      | _ => none

/-- Fences, and what each waits for (R121). -/
def fenceMember : Instr → Option (State → Nat → Strand → Bool)
  | .fenceRel t p m l => some (fun s u x => s.loadsDone u x && x.posted.all (fun e => !(inScope t p m l x.tile e)))
  | .fenceAcq _ _ _ _ => some (fun s u x => s.loadsDone u x)
  | .fenceFull t p m l => some (fun s u x => s.loadsDone u x && x.posted.all (fun e => !(inScope t p m l x.tile e)))
  | _ => none

/-- `s'` is `s` after an access was performed for another tile at tile `t`: its turn of this cycle is used, no event is
lost, and no byte but those of `stored` has changed. -/
structure State.ServedAs (s s' : State) (t : Nat) (stored : Nat → Prop) : Prop where
  turn : (s'.tile t).remote = s.now + 1
  memory : ∀ j, ¬ stored j → s'.byte j = s.byte j
  strands : s'.strands = s.strands
  events : ∀ e ∈ s.agenda, e ∈ s'.agenda

/-- The context of a child of `x` on tile `t` (R68, R127): the parent's registers and predicates but g0 := b and
g23 := 0; lineage, mode, class, vector and pinning parameters inherited; nothing pinned, no trap, no stop counted. -/
def Strand.childCtx (x : Strand) (t : Nat) (sid : BitVec 32) (pc : Word) (b : Word) : Ctx :=
  { g := (x.ctx.g.set 0 b).set 23 0, pred := x.ctx.pred, pc := pc.setWidth 48, pseq := 0, lin := x.ctx.lin, sid := sid,
    rpin := false, xpin := false, sup := x.ctx.sup, cls := x.ctx.cls, tcause := 0, tvec := x.ctx.tvec, tseq := 0,
    tpc := 0, tval := 0, nstop := 0, alt := 0, prev := BitVec.ofNat 12 t, cur := BitVec.ofNat 12 t, pmin := x.ctx.pmin,
    plim := x.ctx.plim, hleft := 0, phold := x.ctx.phold }

/-! ## The vector unit -/

/-- What an element-wise instruction is: the register it writes, the vector and general registers it reads or writes, the
elements whose poison it meets, the value of each element inside the shape, and its latency without the rows. -/
structure VMember where
  d : VReg
  vs : List VReg
  regs : List Reg
  used : VUnit → Nat → Bool
  val : Strand → VUnit → Nat → Half
  lat : Nat

/-- Of two operands, the second through the lane pattern (R152, R159). -/
def vBinary (f : Half → Half → Half) (lat : Nat) (d a b : VReg) (l : BitVec 4) : Option VMember :=
  some { d := d, vs := [a, b, d], regs := [], lat := lat,
         used := fun v n => v.usesB b.toNat l n || v.usesOwn a.toNat n,
         val := fun _ v i => f (v.elem a.toNat i) (v.elem b.toNat (lanePattern l i)) }

/-- Of one operand, through the lane pattern. -/
def vUnary (f : Half → Half) (lat : Nat) (d b : VReg) (l : BitVec 4) : Option VMember :=
  some { d := d, vs := [b, d], regs := [], lat := lat, used := fun v n => v.usesB b.toNat l n,
         val := fun _ v i => f (v.elem b.toNat (lanePattern l i)) }

/-- Of two operands and the old vd. -/
def vTernary (f : Half → Half → Half → Half) (lat : Nat) (d a b : VReg) (l : BitVec 4) : Option VMember :=
  some { d := d, vs := [a, b, d], regs := [], lat := lat,
         used := fun v n => v.usesB b.toNat l n || v.usesOwn a.toNat n || v.usesOwn d.toNat n,
         val := fun _ v i => f (v.elem a.toNat i) (v.elem b.toNat (lanePattern l i)) (v.elem d.toNat i) }

/-- Element-wise instructions (R159, R160, R162, R169). A compare writes all ones or zero. -/
def elementMember : Instr → Option VMember
  | .vfadd d a b l => vBinary Num.fadd 4 d a b l
  | .vfsub d a b l => vBinary Num.fsub 4 d a b l
  | .vfmul d a b l => vBinary Num.fmul 4 d a b l
  | .vfma d a b l => vTernary Num.fma 4 d a b l
  | .vfmax d a b l => vBinary Num.fmax 4 d a b l
  | .vfmin d a b l => vBinary Num.fmin 4 d a b l
  | .vfabs d b l => vUnary Num.fabs 4 d b l
  | .vfneg d b l => vUnary Num.fneg 4 d b l
  | .vfdiv d a b l => vBinary Num.fdiv 12 d a b l
  | .vfcmpEq d a b l => vBinary (fun a b => if Num.feq a b then 0xFFFFFFFF else 0) 4 d a b l
  | .vfcmpLt d a b l => vBinary (fun a b => if Num.flt a b then 0xFFFFFFFF else 0) 4 d a b l
  | .vfcmpLe d a b l => vBinary (fun a b => if Num.fle a b then 0xFFFFFFFF else 0) 4 d a b l
  | .viadd d a b l => vBinary (· + ·) 4 d a b l
  | .visub d a b l => vBinary (· - ·) 4 d a b l
  | .vimul d a b l => vBinary (· * ·) 4 d a b l
  | .vimax d a b l => vBinary (fun a b => if a.toInt < b.toInt then b else a) 4 d a b l
  | .vimin d a b l => vBinary (fun a b => if b.toInt < a.toInt then b else a) 4 d a b l
  | .vand d a b l => vBinary (· &&& ·) 4 d a b l
  | .vor d a b l => vBinary (· ||| ·) 4 d a b l
  | .vxor d a b l => vBinary (· ^^^ ·) 4 d a b l
  | .vshl d a b l => vBinary (fun a b => a <<< (b.toNat % 32)) 4 d a b l
  | .vshr d a b l => vBinary (fun a b => a >>> (b.toNat % 32)) 4 d a b l
  | .vsra d a b l => vBinary (fun a b => a.sshiftRight (b.toNat % 32)) 4 d a b l
  | .vicmpEq d a b l => vBinary (fun a b => if a = b then 0xFFFFFFFF else 0) 4 d a b l
  | .vicmpLt d a b l => vBinary (fun a b => if a.toInt < b.toInt then 0xFFFFFFFF else 0) 4 d a b l
  | .vsel d a b l => vTernary (fun a b d => if d = 0 then b else a) 4 d a b l
  | .vmov d b l => vUnary id 4 d b l
  | .vcvtF32I32 d b l => vUnary (fun b => Num.ofInt b.toInt) 4 d b l
  | .vcvtI32F32Rne d b l => vUnary (fun b => Num.toInt .rne 32 (Num.ofF32 b)) 4 d b l
  | .vcvtI32F32Rz d b l => vUnary (fun b => Num.toInt .rz 32 (Num.ofF32 b)) 4 d b l
  | .vqzE4m3 d b l => vUnary (fun b => Num.widen .e4m3 (Num.narrow .e4m3 .sat b)) 4 d b l
  | .vqzE5m2 d b l => vUnary (fun b => Num.widen .e5m2 (Num.narrow .e5m2 .sat b)) 4 d b l
  | .vqzBf16 d b l => vUnary (fun b => Num.widen .bf16 (Num.narrow .bf16 .ieee b)) 4 d b l
  | .vqzE5m2Ieee d b l => vUnary (fun b => Num.widen .e5m2 (Num.narrow .e5m2 .ieee b)) 4 d b l
  | .vrsqrt d b l => vUnary Num.frsqrt 12 d b l
  | .vrcp d b l => vUnary Num.frcp 12 d b l
  | .vsqrt d b l => vUnary Num.fsqrt 12 d b l
  | .vexp2 d b l => vUnary Num.fexp2 12 d b l
  | .vlog2 d b l => vUnary Num.flog2 12 d b l
  | .vbcast v a => some { d := v, vs := [v], regs := [a], lat := 4, used := fun _ _ => false,
                          val := fun x _ _ => (x.reg a).setWidth 32 }
  | .vzero v => some { d := v, vs := [v], regs := [], lat := 4, used := fun _ _ => false, val := fun _ _ _ => 0 }
  | _ => none

/-- The lanes of a row after `j` levels of the tree of R30, which combines lane `k` with lane `k + 32 / 2^j`; a lane
beyond the shape is absent. -/
def laneTree (f : Half → Half → Half) (leaf : Nat → Option Half) : Nat → Nat → Option Half
  | 0, k => leaf k
  | j + 1, k => match laneTree f leaf j k, laneTree f leaf j (k + 32 / 2 ^ j) with
    | some a, some b => some (f a b)
    | some a, none => some a
    | none, b => b

/-- A NaN is the canonical NaN, whatever its bits (R23). -/
def canonical (x : Half) : Half := if Num.unordered x x then 0x7FC00000 else x

/-- Row reductions: destination, source, pattern, how two values combine, and what is taken of a lane (R30, R161). -/
def reduceMember : Instr → Option (VReg × VReg × BitVec 4 × (Half → Half → Half) × (Half → Half))
  | .vrsum d b l => some (d, b, l, Num.fadd, canonical)
  | .vrmax d b l => some (d, b, l, Num.fmax, canonical)
  | .vrmin d b l => some (d, b, l, Num.fmin, canonical)
  | .vramax d b l => some (d, b, l, Num.fmax, Num.fabs)
  | _ => none

/-- Instructions that need the vector claim but for `vclaim` itself (R155). -/
def needsVector (i : Instr) : Bool :=
  (elementMember i).isSome || (reduceMember i).isSome ||
  match i with
  | .vget _ _ _ => true | .vput _ _ _ => true | .vshape _ _ => true | .vrel => true
  | .vld _ _ _ _ => true | .vldr _ _ _ => true | .vst _ _ _ _ => true
  | _ => false

/-- The strand in focus, in slot `n` of core `c` of its tile, holds the core's vector unit `v`, which is free to take an
instruction (R154, R155). -/
structure State.HoldsUnit (s : State) (u : Nat) (x : Strand) (t c n : Nat) (v : VUnit) : Prop where
  issuing : s.Issuing u x t c n
  tile : x.tile = t
  unit : s.vunit t c = v
  holder : v.holder = some u
  free : v.busy ≤ s.now
  cool : s.cooling t = false

/-- None of the registers is waiting for a vector instruction. -/
def VUnit.Arrived (v : VUnit) (vs : List VReg) : Prop := ∀ r ∈ vs, v.pending[r.toNat]?.getD 0 = 0

/-- The strand in focus has issued a vector instruction and is now `y`; its unit is `w`; no byte of memory and no other
strand, core or unit has changed, and no event is lost. -/
structure State.VectorAs (s s' : State) (u t c n : Nat) (y : Strand) (w : VUnit) : Prop where
  strand : s'.strand u = some y
  others : ∀ v, v ≠ u → s'.strand v = s.strand v
  core : s'.core t c = { s.core t c with rot := n, issued := s.now + 1 }
  cores : ∀ a b, coreNo a b ≠ coreNo t c → s'.core a b = s.core a b
  unit : s'.vunit t c = w
  units : ∀ a b, coreNo a b ≠ coreNo t c → s'.vunit a b = s.vunit a b
  memory : ∀ j, s'.byte j = s.byte j
  events : ∀ e ∈ s.agenda, e ∈ s'.agenda
  rest : s' = { s with strands := s'.strands, cores := s'.cores, vunits := s'.vunits, agenda := s'.agenda,
                       seq := s'.seq }

/-- `w` is the unit `v` with the elements of register `d` that `p` names written by `f`, their poison gone, and the
register not ready; every other element of it and every other register is unchanged (R149, R154, R158). -/
structure VUnit.WroteAs (v w : VUnit) (d : VReg) (p : Nat → Bool) (f : Nat → Half) (busy : Nat) : Prop where
  elements : ∀ i, i < 1024 → w.elem d.toNat i = if p i then f i else v.elem d.toNat i
  others : ∀ r, r ≠ d.toNat → w.reg r = v.reg r ∧ w.isPending r = v.isPending r
  notReady : w.isPending d.toNat = true
  whole : ∀ e, e ∈ w.poison ↔ e ∈ v.poison ∧ ¬(e.1 / 1024 = d.toNat ∧ p (e.1 % 1024) = true)
  same : w = { v with v := w.v, pending := w.pending, busy := busy, poison := w.poison }

/-! ## Control and status registers -/

/-- User CSRs and what each reads as for a strand (R85, R110). -/
def State.userReadings (s : State) (x : Strand) : List (Nat × Word) :=
  [(0, BitVec.ofNat 64 s.now), (2, BitVec.ofNat 64 x.tile), (3, BitVec.ofNat 64 (s.partOfTile x.tile)),
   (0x10, BitVec.ofNat 64 ((s.vunit x.tile x.place.core).rows * 256 + (s.vunit x.tile x.place.core).lanes)),
   (0x30, x.ctx.tvec.setWidth 64), (0x31, x.ctx.tpc.setWidth 64), (0x32, x.ctx.tcause.setWidth 64), (0x33, x.ctx.tval),
   (0x34, x.ctx.tseq.setWidth 64), (0x40, x.ctx.plim.setWidth 64), (0x41, x.ctx.pmin.setWidth 64),
   (0x42, x.ctx.phold.setWidth 64), (0x50, BitVec.ofNat 64 (x.posted.length % 2 ^ 16))]
    ++ (List.range 8).map (fun i => (0x20 + i, (s.chan x.tile i).fid.setWidth 64))
    ++ (List.range 8).map (fun i => (0x28 + i, (s.chan x.tile i).fdone.setWidth 64))

/-- User CSRs that an instruction writes at once, and the context with the new value: bits outside the field are
ignored, and bits 1:0 of `tvec` are zero (R85, R110). -/
def userWrites (v : Word) : List (Nat × (Ctx → Ctx)) :=
  [(0x30, fun c => { c with tvec := v.setWidth 48 &&& ~~~3 }), (0x31, fun c => { c with tpc := v.setWidth 48 }),
   (0x32, fun c => { c with tcause := v.setWidth 8 }), (0x33, fun c => { c with tval := v }),
   (0x34, fun c => { c with tseq := v.setWidth 16 }), (0x40, fun c => { c with plim := v.setWidth 8 }),
   (0x41, fun c => { c with pmin := v.setWidth 16 })]

/-- What a supervisor CSR of tile `t` holds after `v` is written to it, as a number (R281, R282). -/
def csrKept (t n : Nat) (v : Word) : Nat :=
  let f (k : Nat) : Nat := v.toNat % 2 ^ k
  if n = 0x800 then max 1 (min 256 (f 9))
  else if n = 0x801 then min (16384 / (Config.userCores t).length) (f 15)
  else if n = 0x802 then max 1 (min 256 (f 9))
  else if n = 0x803 then max 256 (min (2 ^ 24) (f 25))
  else if n = 0x804 then max 64 (min (2 ^ 20 - 1) (f 20))
  else if n = 0x805 then max 1 (min 4096 (f 13))
  else if n = 0x806 then (v &&& 0xFFFFFFFFF7E1).toNat
  else if n = 0x807 then min 256 (f 9)
  else if n = 0x808 then f 32
  else if n = 0x809 then (v &&& 0xFFFFFFFFFFFFFFC1).toNat
  else if n = 0x80A then (v &&& 0x80000000FFFFFFFF).toNat
  else if n = 0x80B then if f 12 < Config.tiles ∧ Config.dieOf (f 12) = Config.dieOf t then f 12 else t
  else if n = 0x80C then f 48 / 4 * 4
  else if n = 0x80D then f 8
  else if n = 0x80E then f 16
  else if n = 0x80F then max 1 (f 32)
  else v.toNat

/-! ## Packets, protocols and families -/

/-- A packet for `dst`, a tile of the die of `src` that has not been retired, arrives 12 cycles later, one of four flits
at its last flit, and after the packet before it of the same pair (R81, R244). -/
def State.DueAt (s s' : State) (src dst : Nat) (ev : Event) : Prop :=
  Config.dieOf src = Config.dieOf dst → dst < Config.tiles → SMap.find? s.retired dst = none →
    s.Due s' (max 12 ((s.pair src dst).last + 1 - s.now)) ev

/-- Tile `t` tells the tile that leads a protocol, in `wait` cycles: at once if it is that tile, else by a packet. -/
def State.Tells (s s' : State) (wait t lead : Nat) (p : Packet) : Prop :=
  s.Due s' wait (if t = lead then (packetEvent p).2 else .inject t lead p)

/-- The tile `lead` sends a packet to each other tile of a list, one in a cycle (R134). -/
def State.Announces (s s' : State) (lead : Nat) (tiles : List Nat) (p : Nat → Packet) : Prop :=
  ∀ k r, (tiles.filter (· != lead))[k]? = some r → s.Due s' (1 + k) (.inject lead r (p r))

/-- A strand is of the family that a cancellation names (R86, R133). -/
def Proto.Family (p : Proto) (x : Strand) : Prop :=
  (x.ctx.lin ^^^ p.a) &&& p.m = 0 ∧ ¬ (p.users = true ∧ x.ctx.sup = true)

end Sys2Proof.Machine
end

