-- ==== Sys2Proof/Certificates/Slice0/Obligations.lean ====
section
/-! DEFINITION. The statements about the model. -/

open Sys2Proof Sys2Proof.Machine

/-! ## Registers, predicates and the instructions that change only their strand -/

/-- R95, R97 to R99, R101, R102, R105 to R107, R126: every member of the ALU, immediate, shift, f32 and move groups, with
`rdcyc`, `rdout`, `pseq` and `pget`, executes whenever its registers are in: it writes its result to rd (a write to a
code above g23 is discarded, as `RegistersReadBack` says), advances the pc by 4, and leaves everything else as it was. -/
def Obligations.RegisterMembersExecute : Prop :=
  ∀ (s : State) (i : Instr) (d : Reg) (rd : List Reg) (f : Strand → Word),
    integerMember i = some (d, rd, f) ∨ movingMember s.now i = some (d, rd, f) ∨ floatMember i = some (d, rd, f) →
  ∀ (u : Nat) (x : Strand) (t c n : Nat), s.Issuing u x t c n → x.Clear rd [d] →
    ∃ s', exec i s = .next s' ∧ s.RetiredAs s' u t c n (x.setReg d (f x)) (x.ctx.pc + 4)

/-- R100, R101: every compare and every predicate member writes its condition to pd; a write to p0 is discarded. R92,
R101, R130, R131: `nop`, `pput`, `pin`, `unpin` and `prio`. -/
def Obligations.PredicateAndContextMembersExecute : Prop :=
  (∀ (i : Instr) (p : Pred) (rd : List Reg) (f : Strand → Bool), compareMember i = some (p, rd, f) →
   ∀ (s : State) (u : Nat) (x : Strand) (t c n : Nat), s.Issuing u x t c n → x.Clear rd [] →
     ∃ s', exec i s = .next s' ∧ s.RetiredAs s' u t c n (x.setPred p (f x)) (x.ctx.pc + 4)) ∧
  (∀ (i : Instr) (rd : List Reg) (f : Strand → Strand), contextMember i = some (rd, f) →
   ∀ (s : State) (u : Nat) (x : Strand) (t c n : Nat), s.Issuing u x t c n → x.Clear rd [] →
     ∃ s', exec i s = .next s' ∧ s.RetiredAs s' u t c n (f x) (x.ctx.pc + 4))

/-- R103, R104: `br`, `call`, `jr` and `jcall` to an aligned target inside the 48-bit space write the link and the pc. The
target is read before the link is written. R36, R103, R104: a jump whose target is misaligned traps with cause 0x02,
else one whose target lies at or above 2^48 with cause 0x03; the value is the target, and nothing else of the strand
changes. A strand with a `tvec` takes it there. -/
def Obligations.JumpsTransferOrTrap : Prop :=
  (∀ (i : Instr) (rd wr : List Reg) (target : Strand → Word) (link : Strand → Strand),
     jumpMember i = some (rd, wr, target, link) →
   ∀ (s : State) (u : Nat) (x : Strand) (t c n : Nat), s.Issuing u x t c n → x.Clear rd wr →
     (target x).toNat % 4 = 0 → (target x).toNat < 2 ^ 48 →
     ∃ s', exec i s = .next s' ∧ s.RetiredAs s' u t c n (link x) ((target x).setWidth 48)) ∧
  (∀ (i : Instr) (rd wr : List Reg) (target : Strand → Word) (link : Strand → Strand),
     jumpMember i = some (rd, wr, target, link) →
   ∀ (s : State) (u : Nat) (x : Strand) (t c n : Nat), s.Issuing u x t c n → x.Clear rd wr → x.ctx.tvec ≠ 0 →
     ((target x).toNat % 4 ≠ 0 → ∃ s', exec i s = .next s' ∧ s.TrappedAs s' u t c n x 2 (target x)) ∧
     ((target x).toNat % 4 = 0 → 2 ^ 48 ≤ (target x).toNat →
       ∃ s', exec i s = .next s' ∧ s.TrappedAs s' u t c n x 3 (target x)))

/-- R37, R47, R116: a write to a general register is read back through its field; one to any other code is discarded;
every other register, and every other part of the strand but the poison of the register written, is unchanged. R37: p0
reads 1 whatever the register holds, a write to it is discarded, and a write to another predicate is read back and
leaves the others. -/
def Obligations.RegistersReadBack : Prop :=
  (∀ (x : Strand) (d r : Reg) (v : Word),
     (x.setReg d v).reg r = (if r = d ∧ d.toNat < 24 then v else x.reg r) ∧
     (24 ≤ d.toNat → x.setReg d v = x) ∧
     (d.toNat < 24 → x.setReg d v =
       { x with ctx := { x.ctx with g := (x.setReg d v).ctx.g }, poison := SMap.erase x.poison d.toNat }) ∧
     (x.reg 24 = 0 ∧ x.reg 25 = x.ctx.sid.setWidth 64 ∧ x.reg 26 = BitVec.ofNat 64 x.tile ∧
       x.reg 27 = x.ctx.lin.setWidth 64)) ∧
  (∀ (c : Ctx) (p q : Pred) (b : Bool),
     c.getPred 0 = true ∧ c.setPred 0 b = c ∧
     (p ≠ 0 → (c.setPred p b).getPred q = if q = p then b else c.getPred q))

/-! ## Loads, stores, atomics and posted operations -/

/-- R72, R115: a load from the strand's own tile. The register is pending, the strand goes on, and the answer is due after
the access time A: the bytes at the address, or cause 7 where the data is poisoned. R72, R115, R116: the answer of a
load or an atomic is in. With data the register holds the value, zero-extended, or sign-extended as the load asks, and
its poison is gone; with an error the register is poisoned with the cause (3, or 7 for a data error) and the address.
The register is no longer pending; nothing else changes. With a code above g23, `zr` among them, as destination the access
is made and pending as any other, and the answer's value or error is discarded. -/
def Obligations.LoadsExecute : Prop :=
  (∀ (i : Instr) (n : Nat) (sg : Bool) (d a : Reg) (o : BitVec 11), loadMember i = some (n, sg, d, a, o) →
   ∀ (s : State) (u : Nat) (x : Strand) (t c m : Nat), s.Issuing u x t c m → x.Clear [a] [d] →
   ∀ (tgt : Target) (owner k : Nat) (s1 : State), s.Names u x (x.reg a + offsetOf o n) permR tgt owner k s1 →
     (x.reg a + offsetOf o n).toNat % n = 0 → s.real owner = x.tile → x.pending.length < 8 →
     ∃ s', exec i s = .next s' ∧
       s.AccessedAs s' u t c m ((x.asking d).finished (x.ctx.pc + 4) s.now) (fun _ => False) ∧
       s.Due s' (s1.touch k false).1 (.responseArrival ⟨.reg u x.ids d.toNat sg, x.reg a + offsetOf o n,
         if s.anyPoison k n then .fail 7 else .data (s.readBytes k n)⟩)) ∧
  (∀ (s : State) (u id reg : Nat) (sg : Bool) (va : Word) (x : Strand), s.strand u = some x → reg < 24 →
     (id, reg) ∈ x.pending →
     (∀ (bs : List Byte), bs.length ≤ 8 → s.event = .responseArrival ⟨.reg u id reg sg, va, .data bs⟩ →
       ∃ s' v, exec .responseArrival s = .next s' ∧
         s' = { s with strands := s'.strands } ∧ (∀ w, w ≠ u → s'.strand w = s.strand w) ∧
         s'.strand u = some { x with pending := x.pending.erase (id, reg), poison := SMap.erase x.poison reg,
                                     ctx := { x.ctx with g := x.ctx.g.setIfInBounds reg v } } ∧
         (sg = false → v.toNat = leValue bs) ∧
         (sg = true → leValue bs < 2 ^ (8 * bs.length - 1) → v.toInt = leValue bs) ∧
         (sg = true → bs ≠ [] → 2 ^ (8 * bs.length - 1) ≤ leValue bs → v.toInt = leValue bs - 2 ^ (8 * bs.length))) ∧
     (∀ (cause : Nat), s.event = .responseArrival ⟨.reg u id reg sg, va, .fail cause⟩ →
       ∃ s', exec .responseArrival s = .next s' ∧
         s' = { s with strands := s'.strands } ∧ (∀ w, w ≠ u → s'.strand w = s.strand w) ∧
         s'.strand u = some { x with pending := x.pending.erase (id, reg),
                                     poison := SMap.put x.poison reg (if cause = 7 then 7 else 3, va) })) ∧
  (∀ (s : State) (u id reg : Nat) (sg : Bool) (va : Word) (ans : Answer) (x : Strand), s.strand u = some x →
     24 ≤ reg → reg < 32 → (id, reg) ∈ x.pending → s.event = .responseArrival ⟨.reg u id reg sg, va, ans⟩ →
     ∃ s', exec .responseArrival s = .next s' ∧ s' = { s with strands := s'.strands } ∧
       (∀ w, w ≠ u → s'.strand w = s.strand w) ∧
       s'.strand u = some { x with pending := x.pending.erase (id, reg) })

/-- R1, R62, R117: a store to the strand's own tile performs at issue: its bytes hold the register's low bytes, the lowest
first, and every other byte is unchanged; one that covers part of a poisoned granule is precise cause 0x07. -/
def Obligations.StoresExecute : Prop :=
  ∀ (i : Instr) (n : Nat) (d a : Reg) (o : BitVec 11), storeMember i = some (n, d, a, o) →
  ∀ (s : State) (u : Nat) (x : Strand) (t c m : Nat), s.memoryOk → s.Issuing u x t c m → x.Clear [d, a] [] →
  ∀ (tgt : Target) (owner k : Nat) (s1 : State), s.Names u x (x.reg a + offsetOf o n) permW tgt owner k s1 →
    (x.reg a + offsetOf o n).toNat % n = 0 → s.real owner = x.tile →
    (s.partly k (placed (bytesOf n (x.reg d))) = false →
      ∃ s', exec i s = .next s' ∧ s.AccessedAs s' u t c m (x.finished (x.ctx.pc + 4) s.now) (within k n) ∧
        s'.Holds k n (x.reg d)) ∧
    (s.partly k (placed (bytesOf n (x.reg d))) = true → x.ctx.tvec ≠ 0 →
      ∃ s', exec i s = .next s' ∧
        s.AccessedAs s' u t c m (x.trapped 7 (x.reg a + offsetOf o n) s.now) (fun _ => False))

/-- R118: a returning atomic on the strand's own tile performs at issue: the word holds the new value, every other byte is
unchanged, and the old value is due to rd; `acas` of a word that differs from rd stores nothing. On a poisoned granule
it stores nothing and rd is to be poisoned. -/
def Obligations.AtomicsExecute : Prop :=
  ∀ (i : Instr) (f : Rmw) (n : Nat) (d a b : Reg) (e : Bool), atomicMember i = some (f, n, d, a, b, e) →
  ∀ (s : State) (u : Nat) (x : Strand) (t c m : Nat), s.memoryOk → s.Issuing u x t c m →
    x.Clear (if e then [d, a, b] else [a, b]) [d] →
  ∀ (tgt : Target) (owner k : Nat) (s1 : State), s.Names u x (x.reg a) permRW tgt owner k s1 →
    (x.reg a).toNat % n = 0 → s.real owner = x.tile → x.pending.length < 8 →
    ∃ s', exec i s = .next s' ∧
      s.AccessedAs s' u t c m ((x.asking d).finished (x.ctx.pc + 4) s.now) (within k n) ∧
      s.Due s' (s1.touch k false).1 (.responseArrival ⟨.reg u x.ids d.toNat false, x.reg a,
        if s.anyPoison k n then .fail 7 else .data (s.readBytes k n)⟩) ∧
      (s.anyPoison k n = true → ∀ j, s'.byte j = s.byte j) ∧
      (s.anyPoison k n = false →
        match rmwValue f n (wordOf (s.readBytes k n)) (x.reg b) (if e then x.reg d else 0) with
        | some v => s'.Holds k n v
        | none => ∀ j, s'.byte j = s.byte j)

/-- R119: a posted operation on the strand's own tile, with room in its core's count, takes the next number, is counted in
outcnt, performs, and is acknowledged 4 cycles later. R139: `arrive` waits until the strand's loads and posted
operations are back, in its slot and with nothing else changed; then it posts the arrival at the rendezvous record. -/
def Obligations.PostsExecute : Prop :=
  (∀ (i : Instr) (f : Rmw) (n : Nat) (a b : Reg), postMember i = some (f, n, a, b) →
   ∀ (s : State) (u : Nat) (x : Strand) (t c m : Nat), s.memoryOk → s.Issuing u x t c m → x.Clear [a, b] [] →
   ∀ (tgt : Target) (owner k : Nat) (s1 : State), s.Names u x (x.reg a) (postPerm f) tgt owner k s1 →
     (x.reg a).toNat % n = 0 → s.real owner = x.tile → s.mayPost x = true →
     (∀ j, j < n → s.poisoned (k + j) = false) →
     ∃ s' v, exec i s = .next s' ∧
       s.AccessedAs s' u t c m ((x.posting (targetClass tgt) x.tile).finished (x.ctx.pc + 4) s.now) (within k n) ∧
       rmwValue f n (wordOf (s.readBytes k n)) (x.reg b) 0 = some v ∧ s'.Holds k n v ∧
       s.Due s' 4 (.acknowledgementArrival u x.ctx.pseq.toNat)) ∧
  (∀ (a : Reg) (s : State) (u : Nat) (x : Strand) (t c m : Nat), s.memoryOk → s.Issuing u x t c m → x.Clear [a] [] →
   ∀ (tgt : Target) (owner k : Nat) (s1 : State), s.Names u x (x.reg a) permRW tgt owner k s1 →
     (x.reg a).toNat % 8 = 0 → s.real owner = x.tile → (∀ j, j < 8 → s.poisoned (k + j) = false) →
     s.mayPost x = true → s.released u x = true →
     ∃ s' v, exec (.arrive a) s = .next s' ∧
       s.AccessedAs s' u t c m ((x.posting (targetClass tgt) x.tile).finished (x.ctx.pc + 4) s.now) (within k 8) ∧
       rmwValue .arrive 8 (wordOf (s.readBytes k 8)) 0 0 = some v ∧ s'.Holds k 8 v ∧
       s.Due s' 4 (.acknowledgementArrival u x.ctx.pseq.toNat)) ∧
  (∀ (a : Reg) (s : State) (u : Nat) (x : Strand) (t c m : Nat), s.Issuing u x t c m → x.Clear [a] [] →
   ∀ (tgt : Target) (owner k : Nat) (s1 : State), s.Names u x (x.reg a) permRW tgt owner k s1 →
     (x.reg a).toNat % 8 = 0 → s.released u x = false →
     ∃ s', exec (.arrive a) s = .next s' ∧ s'.strand u = some x.stalled ∧ (∀ v, v ≠ u → s'.strand v = s.strand v) ∧
       (∀ j, s'.byte j = s.byte j) ∧ s' = { s with strands := s'.strands, tiles := s'.tiles })

/-- R118, R119, R137, R139: the new value of a read-modify-write of `w` bits, from the old value `o`, the operand `b` and
the expected value `e`, as numbers. Signed minimum and maximum compare the low `w` bits as two's complement. The value
of `arrive` is that of a record with phase bit 63, arrived count in [62:32] and expected count in [31:0]: the last
arrival turns the phase and clears the count. -/
def Obligations.RmwMeaning : Prop :=
  ∀ (n : Nat), n = 4 ∨ n = 8 → ∀ (old bv ev : Word) (w o b e : Nat), w = 8 * n → o = old.toNat % 2 ^ w →
    b = bv.toNat % 2 ^ w → e = ev.toNat % 2 ^ w →
    let v (f : Rmw) : Option Nat := (rmwValue f n old bv ev).map (·.toNat)
    let neg (x : Nat) : Int := if x < 2 ^ (w - 1) then x else x - 2 ^ w
    v .add = some ((o + b) % 2 ^ w) ∧ v .and = some (o &&& b) ∧ v .or = some (o ||| b) ∧ v .xor = some (o ^^^ b) ∧
    v .min = some (min o b) ∧ v .max = some (max o b) ∧
    v .mins = some (if neg b < neg o then b else o) ∧ v .maxs = some (if neg o < neg b then b else o) ∧
    v .swap = some b ∧ v .st = some b ∧ v .cas = (if o = e then some b else none) ∧
    v .dec = some ((o + (2 ^ w - 1)) % 2 ^ w) ∧
    (n = 8 → ∀ ph arr ex, ph ≤ 1 → arr < 2 ^ 31 → ex < 2 ^ 32 → o = ph * 2 ^ 63 + arr * 2 ^ 32 + ex →
      v .arrive = some (if max ex 1 ≤ arr + 1 then (1 - ph) * 2 ^ 63 + ex
        else ph * 2 ^ 63 + (arr + 1) % 2 ^ 31 * 2 ^ 32 + ex))

/-- R36, R49, R115 to R119, R122, R139, R140: a misaligned address is cause 0x02, and an aligned one that no region
decodes is cause 0x03, for every load, store, atomic and posted operation, `park`, `await` and `arrive`. The value is
the address; the access has no effect. -/
def Obligations.BadAddressesTrap : Prop :=
  ∀ (i : Instr) (n : Nat) (rd wr : List Reg) (f : Strand → Word), alignedMember i = some (n, rd, wr, f) →
  ∀ (s : State) (u : Nat) (x : Strand) (t c m : Nat), s.Issuing u x t c m → x.Clear rd wr → x.ctx.tvec ≠ 0 →
    ((f x).toNat % n ≠ 0 → ∃ s', exec i s = .next s' ∧ s.TrappedAs s' u t c m x 2 (f x)) ∧
    ((f x).toNat % n = 0 → s.vectorMemBusy u x = false → s.region x.tile x.ctx.sup (f x) = none →
      ∃ s', exec i s = .next s' ∧ s.TrappedAs s' u t c m x 3 (f x))

/-- R49, R273: the regions of the address space. Bits [63:56] = 0: module memory. Bits [63:60] = 8: the memory of the peer
module in [59:48], if it is not this one. Bits [63:56] = 0xFE with [55:44] and [31:22] zero: byte [21:0] of the local
store of tile [43:32], if that tile exists, has the byte, and belongs to the strand's partition or the strand is in
supervisor mode. No other address is decoded. -/
def Obligations.RegionMeaning : Prop :=
  ∀ (s : State) (t : Nat) (sup : Bool) (a : Word),
    (∀ va, s.region t sup a = some (.md va) ↔ a.extractLsb' 56 8 = 0 ∧ va = a.toNat) ∧
    (∀ m off, s.region t sup a = some (.peer m off) ↔
      a.extractLsb' 60 4 = 8 ∧ m = (a.extractLsb' 48 12).toNat ∧ m ≠ s.modnum.toNat ∧
      off = (a.extractLsb' 0 48).toNat) ∧
    (∀ d off, s.region t sup a = some (.ls d off) ↔
      a.extractLsb' 56 8 = 0xFE ∧ a.extractLsb' 44 12 = 0 ∧ a.extractLsb' 22 10 = 0 ∧
      d = (a.extractLsb' 32 12).toNat ∧ off = (a.extractLsb' 0 22).toNat ∧ d < Config.tiles ∧ off < Config.lsSize d ∧
      (sup = true ∨ s.partOfTile d = s.partOfTile t))

/-- R79 to R81, R84: the load, store or atomic of a roaming strand at another tile's address. With nothing pending, posted
or poisoned, and unless the pinning rule stops it, the context leaves for the owner and its packet enters the fabric 8
cycles later; the instruction executes again there, so the pc is unchanged. With something out it waits. R84: the
alternation rule. A stop that would return to the tile before, after fewer than `pmin` instructions, counts one
alternation more, saturating at 255; any other sets the count to 0. -/
def Obligations.RoamingAccessesMigrate : Prop :=
  (∀ (i : Instr) (n : Nat) (rd wr : List Reg) (f : Strand → Word) (p : Perm), accessMember i = some (n, rd, wr, f, p) →
   ∀ (s : State) (u : Nat) (x : Strand) (t c m : Nat), s.Issuing u x t c m → x.Clear rd wr →
   ∀ (tgt : Target) (owner k : Nat) (s1 : State), s.Names u x (f x) p tgt owner k s1 → (f x).toNat % n = 0 →
     s.real owner ≠ x.tile → s.pinned u x = false → x.poison = [] →
     (x.pending = [] → x.posted = [] → x.ctx.plim = 0 ∨ (x.ctx.nextAlt owner).toNat < x.ctx.plim.toNat →
       ∃ s' y, exec i s = .next s' ∧ s.AccessedAs s' u t c m y (fun _ => False) ∧
         x.DepartedAs y u owner (x.ctx.nextAlt owner) false tgt s.now ∧
         s.Due s' 8 (.inject x.tile owner (.mig ⟨u, x.tile, owner, 0, false, false, false, some tgt⟩))) ∧
     (x.pending ≠ [] ∨ x.posted ≠ [] → ∃ s', exec i s = .next s' ∧ (∀ v, v ≠ u → s'.strand v = s.strand v) ∧
       s'.strand u = some x.stalled ∧ ∀ j, s'.byte j = s.byte j)) ∧
  (∀ (c : Ctx) (d : Nat),
     (c.nextAlt d).toNat =
       if c.prev.toNat = d ∧ c.nstop.toNat < c.pmin.toNat then min (c.alt.toNat + 1) 255 else 0)

/-- R83, R118: a pinned strand's load or atomic at another tile of its die goes there as a request that arrives 12 cycles
later or after the packet before it; the register is pending. R84: so does that of a roaming strand with nothing out,
nothing pending and nothing poisoned, where the alternation count of a stop there would come to `plim`: the rule pins the
strand, with hleft at `phold` and the count at 0, and the hold ends `phold` cycles later. R83, R119: a pinned strand's
store, and any strand's posted operation, at another tile of its die goes there as a posted operation: counted in outcnt
under the next number, and performed where and when it arrives. The model's own readings in it: log entry 18. -/
def Obligations.AwayAccessesRequest : Prop :=
  (∀ (i : Instr) (n : Nat) (rd wr : List Reg) (f : Strand → Word) (p : Perm) (d : Reg) (sg : Bool) (op : Strand → ReqOp),
     ((∃ a o, loadMember i = some (n, sg, d, a, o) ∧ op = fun _ => .load n) ∨
       (∃ g a b e, atomicMember i = some (g, n, d, a, b, e) ∧ sg = false ∧
         op = fun x => .rmw g n (x.reg b) (if e then x.reg d else 0))) →
     accessMember i = some (n, rd, wr, f, p) →
   ∀ (s : State) (u : Nat) (x : Strand) (t c m : Nat), s.Issuing u x t c m → x.Clear rd wr →
   ∀ (tgt : Target) (owner k : Nat) (s1 : State), s.Names u x (f x) p tgt owner k s1 → (f x).toNat % n = 0 →
     s.real owner ≠ x.tile → x.pending.length < 8 → (s.tile x.tile).filters = [] → owner < Config.tiles →
     Config.dieOf owner = Config.dieOf x.tile → SMap.find? s.retired owner = none → ∀ y, s.SendsFrom u x owner y →
     ∃ s', exec i s = .next s' ∧
       s.AccessedAs s' u t c m ((y.asking d).finished (x.ctx.pc + 4) s.now) (fun _ => False) ∧
       s.Due s' (max 12 ((s.pair x.tile owner).last + 1 - s.now))
         (.requestArrival ⟨x.tile, owner, tgt, f x, op x, .reg u x.ids d.toNat sg, x.ctx.lin, x.ctx.sup, false⟩) ∧
       s.HoldDue s' u x) ∧
  (∀ (i : Instr) (n : Nat) (rd : List Reg) (f : Strand → Word) (p : Perm) (g : Rmw) (v : Strand → Word) (s : State)
     (u : Nat) (x y : Strand) (owner : Nat),
     ((∃ d a o, storeMember i = some (n, d, a, o) ∧ rd = [d, a] ∧ g = .st ∧ p = permW ∧ s.SendsFrom u x owner y ∧
         f = (fun x => x.reg a + offsetOf o n) ∧ v = fun x => x.reg d) ∨
       (∃ a b, postMember i = some (g, n, a, b) ∧ rd = [a, b] ∧ p = postPerm g ∧ y = x ∧ f = (fun x => x.reg a) ∧
         v = fun x => x.reg b)) →
   ∀ (t c m : Nat), s.Issuing u x t c m → x.Clear rd [] →
   ∀ (tgt : Target) (k : Nat) (s1 : State), s.Names u x (f x) p tgt owner k s1 → (f x).toNat % n = 0 →
     s.real owner ≠ x.tile → s.mayPost x = true → (s.tile x.tile).filters = [] → owner < Config.tiles →
     Config.dieOf owner = Config.dieOf x.tile → SMap.find? s.retired owner = none →
     ∃ s', exec i s = .next s' ∧
       s.AccessedAs s' u t c m ((y.posting (targetClass tgt) owner).finished (x.ctx.pc + 4) s.now)
         (fun _ => False) ∧ (y ≠ x → s.HoldDue s' u x) ∧
       s.Due s' (max 12 ((s.pair x.tile owner).last + 1 - s.now))
         (.postedArrival ⟨x.tile, owner, tgt, f x, .rmw g n (v x), u, x.ctx.pseq.toNat, x.ctx.lin, x.ctx.sup,
           x.ctx.cls, false⟩))

/-- R121: a fence retires, and changes nothing else, once what it waits for is back; until then it keeps its slot and does
not retire. R122, R140, R141: `park` and `await` at the strand's own tile, once loads and posted operations are back
and nothing is poisoned. If the word equals v (for `await`: if its bit 63 equals bit 0 of rb) the strand waits,
entered in the tile's watch table, its pc still at the instruction, and from the next cycle it takes a kennel slot of its
core if one is free (R145); else the instruction retires. The model's own readings in it: log entries 11 and 61 (a fence reads
no register, so it retires with one poisoned). -/
def Obligations.FencesAndParkWait : Prop :=
  (∀ (i : Instr) (ok : State → Nat → Strand → Bool), fenceMember i = some ok →
   ∀ (s : State) (u : Nat) (x : Strand) (t c m : Nat), s.Issuing u x t c m → x.Clear [] [] →
     s.vectorMemBusy u x = false →
     (ok s u x = true → ∃ s', exec i s = .next s' ∧ s.RetiredAs s' u t c m x (x.ctx.pc + 4)) ∧
     (ok s u x = false → exec i s = .next (s.onStrand u Strand.stalled))) ∧
  (∀ (isAwait : Bool) (a b : Reg) (s : State) (u : Nat) (x : Strand) (t c m : Nat), s.Issuing u x t c m →
     x.Clear [a, b] [] →
   ∀ (tgt : Target) (owner k : Nat) (s1 : State), s.Names u x (x.reg a) permR tgt owner k s1 →
     (x.reg a).toNat % 8 = 0 → s.real owner = x.tile → x.poison = [] → s.released u x = true →
     s.anyPoison k 8 = false →
     let same : Prop := if isAwait then (s.wordAt k).getLsbD 63 = (x.reg b).getLsbD 0 else s.wordAt k = x.reg b
     let i : Instr := if isAwait then .await a b else .park a b
     (¬ same → ∃ s', exec i s = .next s' ∧
       s.AccessedAs s' u t c m (x.finished (x.ctx.pc + 4) s.now) (fun _ => False)) ∧
     (same → ∃ s' y, exec i s = .next s' ∧ s'.strand u = some y ∧ y.ctx = x.ctx ∧
       y.run = .waiting (.park owner isAwait) ∧ y.place = x.place ∧ s.Due s' 1 (.seat t c u) ∧
       (∃ w ∈ (s'.tile x.tile).watch, w.cell = k ∧ w.uid = u) ∧ (∀ v, v ≠ u → s'.strand v = s.strand v) ∧
       (∀ j, s'.byte j = s.byte j) ∧ ∀ e ∈ s.agenda, e ∈ s'.agenda)) ∧
  (∀ (s : State) (u : Nat) (x : Strand) (t c m : Nat), s.strand u = some x → x.place = .slot t c m →
     s.kennelFree t c = true → (∀ v ∈ (s.core t c).inSlot, v = u) → (s.tile t).hold = [] →
     ∃ y, (s.takeSeat t c u).strand u = some y ∧ y.place = .kennel t c ∧ y.ctx = x.ctx ∧
       y.run = x.run ∧ y.since = s.now ∧ ∀ j, (s.takeSeat t c u).byte j = s.byte j)

/-! ## What the fabric brings back to a strand, and what an owner does -/

/-- R119, R120, R212, R257: an acknowledgement takes its operation out of outcnt. A refusal does so too, and leaves a
deferred trap pending for a strand that is not waiting. At a boundary the oldest refusal is taken: cause 0x06 with the
operation's number in `tseq` and its address in `tval`; a pending engine trap is taken with its cause and value. The
model's own readings in it: log entry 17. -/
def Obligations.AcknowledgementsAndDeferredTraps : Prop :=
  ∀ (s : State) (u : Nat) (x : Strand), s.strand u = some x →
    (∀ num, s.event = .acknowledgementArrival u num →
      ∃ s', exec .acknowledgementArrival s = .next s' ∧ s' = { s with strands := s'.strands } ∧
        (∀ v, v ≠ u → s'.strand v = s.strand v) ∧
        s'.strand u = some { x with posted := x.posted.filter (fun p => p.num != num) }) ∧
    (∀ num va, s.event = .postedRefusalArrival u num va → (x.run = .ready ∨ x.run = .stalled) →
      ∃ s', exec .postedRefusalArrival s = .next s' ∧ s' = { s with strands := s'.strands } ∧
        (∀ v, v ≠ u → s'.strand v = s.strand v) ∧
        s'.strand u = some { x with posted := x.posted.filter (fun p => p.num != num),
                                    refusals := x.refusals ++ [(num, va)] }) ∧
    (∀ t c m num va rest, s.event = .deferredRefusalTrap u → x.place = .slot t c m → x.refusals = (num, va) :: rest →
      x.ctx.tvec ≠ 0 → ∃ s', exec .deferredRefusalTrap s = .next s' ∧
        s.TrappedAs s' u t c m { x with refusals := rest, ctx := { x.ctx with tseq := BitVec.ofNat 16 num } } 6 va) ∧
    (∀ t c m cause v, s.event = .deferredEngineTrap u → x.place = .slot t c m → x.engTrap = some (cause, v) →
      x.ctx.tvec ≠ 0 → x.ctx.sup = true ∨ toSupervisor cause v false = false → cause ≠ 0x10 →
      ∃ s', exec .deferredEngineTrap s = .next s' ∧ s.TrappedAs s' u t c m { x with engTrap := none } cause v)

/-- R50, R111, R112, R118: a request from another tile at its owner. One access of another tile is performed in a cycle; a
second waits for the next. A load reads, an atomic reads and writes in one step, and the answer leaves after the
access time, for a register 4 cycles later; an access that the owner refuses is answered with a fault and does
nothing. R50, R62, R119, R120: a posted operation at its owner: performed whole and acknowledged, or refused with no
effect. The model's own readings in it: log entry 7. -/
def Obligations.OwnersPerform : Prop :=
  (∀ (s : State) (r : Req), s.memoryOk → s.event = .requestArrival r → s.fromHere r = false → s.fromPort r = false →
     s.filtered (s.real r.dst) (.req r) = false → r.bad = false →
     (s.reach r.dst r.src r.sup r.tgt = .refuse → ∃ s', exec .requestArrival s = .next s' ∧
       (∀ j, s'.byte j = s.byte j) ∧
       s.Due s' (answerExtra r.agent) (.inject (s.real r.dst) r.src (.resp ⟨r.agent, r.va, .fail 3⟩))) ∧
     (∀ k, s.reach r.dst r.src r.sup r.tgt = .perform k → s.now < (s.tile (s.real r.dst)).remote →
       ∃ s', exec .requestArrival s = .next s' ∧ s' = { s with agenda := s'.agenda } ∧
         s.Due s' 1 (.requestArrival r)) ∧
     (∀ k n, s.reach r.dst r.src r.sup r.tgt = .perform k → (s.tile (s.real r.dst)).remote ≤ s.now → r.op = .load n →
       ∃ s', exec .requestArrival s = .next s' ∧ s.ServedAs s' (s.real r.dst) (fun _ => False) ∧
         s.Due s' ((s.touch k false).1 + answerExtra r.agent) (.inject (s.real r.dst) r.src (.resp ⟨r.agent, r.va,
           if s.anyPoison k n then .fail 7 else .data (s.readBytes k n)⟩))) ∧
     (∀ k f n b e v, s.reach r.dst r.src r.sup r.tgt = .perform k → (s.tile (s.real r.dst)).remote ≤ s.now →
       r.op = .rmw f n b e → f ≠ .st → n ≤ 8 → s.anyPoison k n = false →
       rmwValue f n (wordOf (s.readBytes k n)) b e = some v →
       ∃ s', exec .requestArrival s = .next s' ∧ s.ServedAs s' (s.real r.dst) (within k n) ∧ s'.Holds k n v ∧
         s.Due s' ((s.touch k false).1 + answerExtra r.agent)
           (.inject (s.real r.dst) r.src (.resp ⟨r.agent, r.va, .data (s.readBytes k n)⟩)))) ∧
  (∀ (s : State) (p : Post) (f : Rmw) (n : Nat) (b : Word), s.memoryOk → s.event = .postedArrival p →
     p.op = .rmw f n b → n ≤ 8 → s.filtered (s.real p.dst) (.post p) = false → p.bad = false →
     (s.reach p.dst p.src p.sup p.tgt = .refuse → ∃ s', exec .postedArrival s = .next s' ∧
       (∀ j, s'.byte j = s.byte j) ∧
       s.Due s' 4 (.inject (s.real p.dst) p.src (.refusal p.uid p.num p.va))) ∧
     (∀ k, s.reach p.dst p.src p.sup p.tgt = .perform k → (s.tile (s.real p.dst)).remote ≤ s.now →
       (∀ j, j < n → s.poisoned (k + j) = false) →
       ∀ v, rmwValue f n (wordOf (s.readBytes k n)) b 0 = some v →
       ∃ s', exec .postedArrival s = .next s' ∧ s.ServedAs s' (s.real p.dst) (within k n) ∧ s'.Holds k n v ∧
         s.Due s' ((s.touch k false).1 + 4) (.inject (s.real p.dst) p.src (.ack p.uid p.num))) ∧
     (∀ k, s.reach p.dst p.src p.sup p.tgt = .perform k → (s.tile (s.real p.dst)).remote ≤ s.now → f ≠ .st →
       s.anyPoison k n = true →
       ∃ s', exec .postedArrival s = .next s' ∧ s.ServedAs s' (s.real p.dst) (fun _ => False) ∧
         s.Due s' ((s.touch k false).1 + 4) (.inject (s.real p.dst) p.src (.refusal p.uid p.num p.va))))

/-! ## Births, ends and moves of strands -/

/-- R124: `done` ends the strand once its loads and posted operations are back: it is gone, its slot is free, and no other
strand and no byte changes. With a vector or matrix claim it is cause 0x08. R125, R145: `yield` retires and gives up
the barrel slot: the strand is ready in a kennel slot of its core if one is free, else, in user mode, in a lent slot,
else where it was. Of memory, only the area that a lent context is written to changes (R77). The model's own readings in
it: log entries 20, 21. -/
def Obligations.DoneAndYieldExecute : Prop :=
  (∀ (s : State) (u : Nat) (x : Strand) (t c m : Nat), s.strandsOk → s.Issuing u x t c m →
     (s.claims x.tile u = true → x.ctx.tvec ≠ 0 → ∃ s', exec .done s = .next s' ∧ s.TrappedAs s' u t c m x 8 0) ∧
     (s.claims x.tile u = false → s.released u x = true → ∃ s', exec .done s = .next s' ∧ s'.strand u = none ∧
       (∀ v, v ≠ u → s'.strand v = s.strand v) ∧ (s'.core t c).slots = SMap.erase (s.core t c).slots m ∧
       ∀ j, s'.byte j = s.byte j)) ∧
  (∀ (s : State) (u : Nat) (x : Strand) (t c m : Nat), s.memoryOk → c < Config.coresOf t → s.Issuing u x t c m →
     x.poison = [] → ∃ s' y, exec .yield s = .next s' ∧ s'.strand u = some y ∧ (∀ v, v ≠ u → s'.strand v = s.strand v) ∧
       y.ctx = (x.finished (x.ctx.pc + 4) s.now).ctx ∧ y.run = .ready ∧
       y.place = (if s.kennelFree t c then .kennel t c
         else if x.ctx.sup = false ∧ s.lentFree t c = true then .lent t c else .slot t c m) ∧
       (∀ j, y.place ≠ .lent t c ∨ s'.outsideLent t u j → s'.byte j = s.byte j))

/-- R67, R68, R127: `spawn` makes a child on the strand's tile with the tile's next sid, or the one it took before it waited
for an earlier child; rd receives it, and the child asks for a slot 8 cycles later. R69, R128: `spawnat` with the argument's
owner on another tile: the child's context leaves for that tile 8 cycles later, and the issuer waits in its slot for the
admission. On the strand's own tile `spawnat` does as `spawn`. R127, R128: a misaligned start address of `spawn` or
`spawnat` is cause 0x02, one at or above 2^48 cause 0x03, with the address as value; no child is made. -/
def Obligations.SpawnsExecute : Prop :=
  (∀ (d a b : Reg) (s : State) (u : Nat) (x : Strand) (t c m : Nat), s.strandsOk → s.Issuing u x t c m →
     x.Clear [a, b] [d] → x.poison = [] → x.pending = [] → x.child = none → (x.reg a).toNat % 4 = 0 →
     (x.reg a).toNat < 2 ^ 48 → ∀ sid n, s.SpawnsAs x sid n →
     ∃ s', exec (.spawn d a b) s = .next s' ∧
       s'.strand u = some (({ x with child := some s.uids }.setReg d (sid.setWidth 64)).finished (x.ctx.pc + 4) s.now) ∧
       (∃ y, s'.strand s.uids = some y ∧ y.ctx = x.childCtx x.tile sid (x.reg a) (x.reg b) ∧ y.run = .held ∧
         y.birth = .spawn u ∧ y.place = .source x.tile ∧ y.posted = [] ∧ y.poison = [] ∧ y.pending = []) ∧
       (∀ v, v ≠ u → v ≠ s.uids → s'.strand v = s.strand v) ∧
       (s'.tile x.tile).serial = n ∧ s.Due s' 8 (.ask x.tile s.uids) ∧
       ∀ j, s'.byte j = s.byte j) ∧
  (∀ (d a b : Reg) (s : State) (u : Nat) (x : Strand) (t c m : Nat), s.strandsOk → s.Issuing u x t c m →
     x.Clear [a, b] [d] → x.poison = [] → x.pending = [] → x.child = none → (x.reg a).toNat % 4 = 0 →
     (x.reg a).toNat < 2 ^ 48 →
   ∀ (tgt : Target) (owner k : Nat) (s1 : State), s.translate u x (x.reg b) permR = .ok (.here tgt owner k, s1) →
     x.ctx.sup = false ∨ Config.hasSupervisor owner = true →
     (s.real owner ≠ x.tile → ∃ s' y z, exec (.spawnat d a b) s = .next s' ∧
       s'.strand u = some y ∧ y.run = .held ∧ y.ctx = x.ctx ∧ y.place = x.place ∧
       s'.strand s.uids = some z ∧ z.ctx = x.childCtx owner 0 (x.reg a) (x.reg b) ∧ z.run = .held ∧
       (∀ v, v ≠ u → v ≠ s.uids → s'.strand v = s.strand v) ∧
       s.Due s' 8 (.inject x.tile owner (.spawnat ⟨s.uids, x.tile, owner, 0, false, false, false, some tgt⟩)) ∧
       ∀ j, s'.byte j = s.byte j) ∧
     (s.real owner = x.tile → ∀ sid n, s.SpawnsAs x sid n →
       ∃ s' z, exec (.spawnat d a b) s = .next s' ∧
         s'.strand u = some (({ x with child := some s.uids }.setReg d (sid.setWidth 64)).finished (x.ctx.pc + 4) s.now) ∧
         s'.strand s.uids = some z ∧ z.ctx = x.childCtx x.tile sid (x.reg a) (x.reg b) ∧
         (s'.tile x.tile).serial = n ∧
         (∀ v, v ≠ u → v ≠ s.uids → s'.strand v = s.strand v) ∧ ∀ j, s'.byte j = s.byte j)) ∧
  (∀ (d a b : Reg) (i : Instr), i = .spawn d a b ∨ i = .spawnat d a b →
   ∀ (s : State) (u : Nat) (x : Strand) (t c m : Nat), s.Issuing u x t c m → x.Clear [a, b] [d] → x.ctx.tvec ≠ 0 →
     ((x.reg a).toNat % 4 ≠ 0 → ∃ s', exec i s = .next s' ∧ s.TrappedAs s' u t c m x 2 (x.reg a)) ∧
     ((x.reg a).toNat % 4 = 0 → 2 ^ 48 ≤ (x.reg a).toNat →
       ∃ s', exec i s = .next s' ∧ s.TrappedAs s' u t c m x 3 (x.reg a)))

/-- R129: `go` retires where the owner is the strand's own tile; else, with nothing out, the strand leaves for the owner,
where `go` is done when it is admitted; a pinned strand meets cause 0x0A, whether or not ra is poisoned. -/
def Obligations.GoExecutes : Prop :=
  ∀ (a : Reg) (s : State) (u : Nat) (x : Strand) (t c m : Nat), s.Issuing u x t c m → x.Clear [] [a] →
    (s.pinned u x = true → x.ctx.tvec ≠ 0 →
      ∃ s', exec (.go a) s = .next s' ∧ s.TrappedAs s' u t c m x 0x0A (x.reg a)) ∧
    (s.pinned u x = false → x.poison = [] →
      ∀ (tgt : Target) (owner k : Nat) (s1 : State), s.translate u x (x.reg a) permR = .ok (.here tgt owner k, s1) →
        (s.real owner = x.tile → ∃ s', exec (.go a) s = .next s' ∧
          s.AccessedAs s' u t c m (x.finished (x.ctx.pc + 4) s.now) (fun _ => False)) ∧
        (s.real owner ≠ x.tile → x.pending = [] → x.posted = [] → ∃ s' y, exec (.go a) s = .next s' ∧
          s.AccessedAs s' u t c m y (fun _ => False) ∧ x.DepartedAs y u owner 0 true tgt s.now ∧
          s.Due s' 8 (.inject x.tile owner (.mig ⟨u, x.tile, owner, 0, false, true, false, some tgt⟩))))

/-- R86, R132: `setlin` keeps the bits that the lineage fixes, those from its lowest set bit upward, or traps with cause
0x0D and the value. Lineage 0 may become any. R69, R137: `join` posts one decrement of the record's count and then
ends the strand when that is acknowledged. -/
def Obligations.JoinAndSetlinExecute : Prop :=
  (∀ (a : Reg) (s : State) (u : Nat) (x : Strand) (t c m : Nat), s.Issuing u x t c m → x.Clear [a] [] →
     let n : BitVec 16 := (x.reg a).setWidth 16
     let within : Prop := ∀ i, i < 16 → (∃ j, j ≤ i ∧ x.ctx.lin.getLsbD j = true) → n.getLsbD i = x.ctx.lin.getLsbD i
     (within → ∃ s', exec (.setlin a) s = .next s' ∧
       s.RetiredAs s' u t c m { x with ctx := { x.ctx with lin := n } } (x.ctx.pc + 4)) ∧
     (¬ within → x.ctx.tvec ≠ 0 →
       ∃ s', exec (.setlin a) s = .next s' ∧ s.TrappedAs s' u t c m x 0x0D (n.setWidth 64))) ∧
  (∀ (a : Reg) (s : State) (u : Nat) (x : Strand) (t c m : Nat), s.memoryOk → s.strandsOk → s.focus = u →
     s.strand u = some x → x.place = .slot t c m → x.Clear [a] [] →
     (x.prog.phase = 0 → s.claims x.tile u = false → (x.reg a).toNat % 8 = 0 → s.released u x = true →
       ∀ (g0 g1 g2 : Target) (o0 o1 o2 k0 k1 k2 : Nat) (s1 s2 s3 : State),
         s.translate u x (x.reg a) permRW = .ok (.here g0 o0 k0, s1) →
         s1.translate u x (x.reg a + 8) permR = .ok (.here g1 o1 k1, s2) →
         s2.translate u x (x.reg a + 16) permR = .ok (.here g2 o2 k2, s3) →
         x.ctx.sup = false ∨ Config.hasSupervisor o0 = true → s.real o0 = x.tile →
         (∀ j, j < 8 → s.poisoned (k0 + j) = false) →
         ∃ s' y, exec (.join a) s = .next s' ∧ s'.strand u = some y ∧ y.run = .stalled ∧ y.prog.phase = 1 ∧
           y.posted = x.posted ++ [⟨x.ctx.pseq.toNat, targetClass g0, x.tile⟩] ∧
           y.ctx = { x.ctx with pseq := x.ctx.pseq + 1 } ∧ s'.Holds k0 8 (s.wordAt k0 - 1) ∧
           (∀ j, ¬ within k0 8 j → s'.byte j = s.byte j) ∧
           (∀ v, v ≠ u → v ≠ s.uids → s'.strand v = s.strand v) ∧
           s.Due s' 4 (.acknowledgementArrival u x.ctx.pseq.toNat)) ∧
     (x.prog.phase = 1 → x.posted = [] → ∃ s', exec (.join a) s = .next s' ∧ s'.strand u = none ∧
       (∀ v, v ≠ u → s'.strand v = s.strand v) ∧ (s'.core t c).slots = SMap.erase (s.core t c).slots m ∧
       ∀ j, s'.byte j = s.byte j))

/-- R16, R58, R69, R73, R74, R77, R78, R81, R82, R89, R128, R142, R277: a context's packet is complete at its destination.
With a slot free the tile admits it into the kennel of a core, else lends one, complete 7 cycles later, and answers
the origin: a migrating strand is ready at the same instruction, one that `go` moved past it, a child of `spawnat` has
the tile's next sid, and a context that is home again goes on as it left to. Of memory, only the area that a lent
context is written to changes. Without a slot it is asked for again: the request is in the hold list. A destination
that is gone, or of another partition, refuses for good. A tile that no longer owns what the context's access names
sends it on to the owner; one with a `domset` of that domain under way keeps it, and so does one at whose port an earlier
packet of the pair waits. A context whose payload is uncorrectable is discarded and reported from here, under core 0. The
model's own readings in it: log entries 18, 20, 63, 84, 86. -/
def Obligations.ContextsArrive : Prop :=
  ∀ (s : State) (m : Mig) (x : Strand), s.memoryOk → s.strandsOk → s.strand m.uid = some x → x.marked = none →
    let t := s.real m.dst
    (∀ (i : Instr) (p : Packet), (i = .migrationArrival ∧ s.event = .migrationArrival m ∧ p = .mig m) ∨
        (i = .spawnatArrival ∧ s.event = .spawnatArrival m ∧ p = .spawnat m) ∨
        (i = .parkContextArrival ∧ s.event = .parkContextArrival m ∧ p = .parkCtx m ∧ x.prog.phase ≠ 1) ∨
        (i = .contextReturnArrival ∧ s.event = .contextReturnArrival m ∧ p = .ctxReturn m) →
      s.filtered t p = false → s.unready t = false → (∀ e ∈ (s.tile t).calls, e.1 ≠ m.uid) →
      (s.gone m.dst = true ∨ (x.ctx.sup = false ∧ s.together t (s.real m.src) = false) →
        ∃ s', exec i s = .next s' ∧ s'.strands = s.strands ∧ (∀ j, s'.byte j = s.byte j) ∧
        s.DueAt s' t m.src (.refusalArrival m.uid m.src false true)) ∧
      (s.reachCtx m x.ctx.sup = .hold → ∃ s', exec i s = .next s' ∧ s'.strands = s.strands ∧
        (∀ j, s'.byte j = s.byte j) ∧ (s'.tile t).domHeld = (s.tile t).domHeld ++ [(s.arr, s.tie, s.event)]) ∧
      (∀ o, s.reachCtx m x.ctx.sup = .forward o → ∃ s', exec i s = .next s' ∧
        s'.strand m.uid = some { x with packet := some (withDst p o) } ∧
        (∀ v, v ≠ m.uid → s'.strand v = s.strand v) ∧ (∀ j, s'.byte j = s.byte j) ∧
        (Config.dieOf t = Config.dieOf o → o < Config.tiles → SMap.find? s.retired o = none →
          s.Due s' (max 15 ((s.pair t o).last + 1 - s.now)) (packetEvent (withDst p o)).2)) ∧
      (∀ k, s.reachCtx m x.ctx.sup = .perform k → m.bad = true → i = .migrationArrival → x.handler = none →
        ∃ s', exec i s = .next s' ∧ s'.strand m.uid = none ∧ (∀ v, v ≠ m.uid → s'.strand v = s.strand v) ∧
        (∀ j, s'.byte j = s.byte j) ∧ s.DueAt s' t (Config.tile0 (Config.dieOf t)) (.messageRingWrite (Config.dieOf t)
          (some ⟨BitVec.ofNat 64 (x.ctx.sid.toNat + 3 * 2 ^ 36), x.ctx.lin.setWidth 64, 0,
            BitVec.ofNat 64 (t + 3 * 2 ^ 56)⟩) false)) ∧
      (∀ k, s.reachCtx m x.ctx.sup = .perform k → m.bad = false → s.findSlot t m.uid x = none →
        (s.tile t).halted = false → (s.tile t).hold.length < 64 → ∃ s', exec i s = .next s' ∧
        s'.strand m.uid = some { x with asked := true } ∧ (∀ v, v ≠ m.uid → s'.strand v = s.strand v) ∧
        (∀ j, s'.byte j = s.byte j) ∧
        (s'.tile t).hold = (s.tile t).hold ++ [⟨m.uid, m.src, x.ctx.sid, m.age, false, s.now⟩] ∧
        s.Due s' 256 (.holdAgeTick t m.uid s.now) ∧ s.DueAt s' t m.src (.refusalArrival m.uid m.src true false)) ∧
      (∀ k c lent, s.reachCtx m x.ctx.sup = .perform k → m.bad = false → s.findSlot t m.uid x = some (c, lent) →
        ∃ s' y, exec i s = .next s' ∧ s'.strand m.uid = some y ∧ y.tile = t ∧
        y.place = (if lent then .lent t c else .kennel t c) ∧ y.complete = s.now + 7 ∧ y.since = s.now ∧
        y.packet = none ∧ y.pending = x.pending ∧ y.posted = x.posted ∧ y.poison = x.poison ∧
        (∀ j, lent = false ∨ s'.outsideLent t m.uid j → s'.byte j = s.byte j) ∧
        s.DueAt s' t m.src (.admissionAnswer m.uid m.src) ∧
        (i = .migrationArrival → y.run = .ready ∧ (∀ v, v ≠ m.uid → s'.strand v = s.strand v) ∧
          let z : Strand := { x with ctx := { x.ctx with cur := BitVec.ofNat 12 m.dst } }
          y.ctx = (if m.go then (z.finished (x.ctx.pc + 4) s.now).ctx else z.ctx)) ∧
        (i = .spawnatArrival → y.run = .ready ∧
          y.ctx = { x.ctx with sid := BitVec.ofNat 12 t ++ (s.tile t).serial, cur := BitVec.ofNat 12 m.dst,
                               prev := BitVec.ofNat 12 m.dst } ∧
          (s'.tile t).serial = (s.tile t).serial + 1 ∧
          ∀ p z, x.birth = .spawnat p → p ≠ m.uid → s.strand p = some z →
            SMap.find? z.prog.words 0 = some (BitVec.ofNat 64 m.uid) →
            s'.strand p = some { z with prog := { z.prog with
              val := (BitVec.ofNat 12 t ++ (s.tile t).serial).setWidth 64 } }) ∧
        (i = .parkContextArrival → y.ctx = x.ctx ∧ y.prog.phase = 1 ∧ y.run = x.run ∧
          s.Due s' 11 (.parkContextArrival m)) ∧
        (i = .contextReturnArrival → y.run = .ready ∧ y.watch = none ∧
          (x.prog.phase = 2 → y.ctx = (x.finished (x.ctx.pc + 4) s.now).ctx) ∧ (x.prog.phase ≠ 2 → y.ctx = x.ctx) ∧
          (x.prog.phase = 4 → y.prog.phase = 4 ∧ y.prog.val = x.prog.val)))) ∧
    (∀ tgt v isAwait owner k, s.event = .parkContextArrival m → x.prog.phase = 1 → x.watch = some (tgt, v, isAwait) →
      s.locate x.tile tgt = some (owner, k) → s.real owner = x.tile → (s.tile x.tile).remote ≤ s.now →
      x.refusals = [] → x.engTrap = none → s.anyPoison k 8 = false →
      let same : Prop := if isAwait then (s.wordAt k).getLsbD 63 = v.getLsbD 0 else s.wordAt k = v
      (same → (s.tile x.tile).halted = false ∨ x.ctx.sup = true → ∃ s' y, exec .parkContextArrival s = .next s' ∧ s'.strand m.uid = some y ∧ y.ctx = x.ctx ∧
        y.run = .waiting (.park owner isAwait) ∧ (∃ w ∈ (s'.tile x.tile).watch, w.cell = k ∧ w.uid = m.uid) ∧
        ∀ j, s'.byte j = s.byte j) ∧
      (¬ same → ∃ s' y, exec .parkContextArrival s = .next s' ∧ s'.strand m.uid = some y ∧ y.ctx = x.ctx ∧
        y.run = .held ∧ y.prog.phase = 2 ∧ (∀ j, s'.byte j = s.byte j) ∧
        s.Due s' 8 (.inject x.tile x.home (.ctxReturn ⟨m.uid, x.tile, x.home, 0, false, false, false, none⟩))))

/-- R73, R78, R82, R89, R128: the answers that reach a context's origin. An admission frees what the context still held
there; for a child of `spawnat` it lets the issuer go on. A refusal that lists leaves everything; one that does not sends
the packet of a context that still waits again 1024 cycles later with its age raised by one; one for good is cause 0x03 at
the instruction. A call sends the packet again unchanged. The answer to an operation that another tile performed lets the
instruction go on with it. A migrating strand that is refused for good has its stop fields as they were. A context that is
lost where it lies is gone, and the supervisor is told; one on its way arrives uncorrectable. The model's own readings in
it: log entries 18, 20 (a slot freed by the answer is free in that cycle), 45 (the stop fields after a refusal for good),
51, 58 (the age of a packet sent again) and 60 (a called packet leaves in the cycle of the call). -/
def Obligations.AnswersReachOrigin : Prop :=
  ∀ (s : State) (u t : Nat) (x : Strand), s.strand u = some x →
    (∀ p z, s.event = .admissionAnswer u t → s.spawner u = some p → s.strand p = some z → ∃ s',
      exec .admissionAnswer s = .next s' ∧ s' = { s with strands := s'.strands } ∧
      (∀ v, v ≠ p → s'.strand v = s.strand v) ∧
      s'.strand p = some { z with run := .ready, prog := { z.prog with phase := 2 } }) ∧
    (∀ c n, s.event = .admissionAnswer u t → s.spawner u = none → c < Config.coresOf t →
      (∀ k, u ∉ (s.core t k).kennel ∧ u ∉ (s.core t k).lent) →
      (∀ k, k ≠ c → ∀ e ∈ (s.core t k).slots, e.2 ≠ u) →
      List.find? (fun e => e.2 == u) (s.core t c).slots = some (n, u) → x.place ≠ .slot t c n → ∃ s',
      exec .admissionAnswer s = .next s' ∧ s'.strands = s.strands ∧ (∀ j, s'.byte j = s.byte j) ∧
      (s'.core t c).slots = SMap.erase (s.core t c).slots n ∧ s.Due s' 4 (.kennelToBarrel t)) ∧
    (s.event = .refusalArrival u t true false → exec .refusalArrival s = .next s) ∧
    (s.event = .refusalArrival u t false false → ∃ s', exec .refusalArrival s = .next s' ∧
      s' = { s with agenda := s'.agenda, seq := s'.seq } ∧ s.Due s' 1024 (.refusalResendTimeout u t)) ∧
    (∀ listed, s.event = .refusalArrival u t listed true → s.spawner u = none → x.ctx.tvec ≠ 0 → ∃ s' y,
      exec .refusalArrival s = .next s' ∧ s'.strand u = some y ∧ (∀ v, v ≠ u → s'.strand v = s.strand v) ∧
      y.run = .ready ∧ y.packet = none ∧ y.watch = none ∧ (∀ j, s'.byte j = s.byte j) ∧
      (∀ m, x.packet = some (.mig m) → y.ctx = (({ x with ctx := x.undepart } : Strand).trapped 3 x.prog.val s.now).ctx) ∧
      ((∀ m, x.packet ≠ some (.mig m)) → y.ctx = (x.trapped 3 x.prog.val s.now).ctx)) ∧
    (∀ m : Mig, x.packet = some (.mig m) → x.asked = true →
      (s.event = .callFlitArrival u t → ∃ s', exec .callFlitArrival s = .next s' ∧
        s'.strand u = some { x with asked := false } ∧ (∀ v, v ≠ u → s'.strand v = s.strand v) ∧
        (∀ j, s'.byte j = s.byte j) ∧ s.Due s' 8 (.inject t m.dst (.mig m))) ∧
      (s.event = .refusalResendTimeout u t → ∃ s', exec .refusalResendTimeout s = .next s' ∧
        s'.strand u = some { x with asked := false, packet := some (.mig { m with age := min (m.age + 1) 255 }) } ∧
        (∀ v, v ≠ u → s'.strand v = s.strand v) ∧ (∀ j, s'.byte j = s.byte j) ∧
        s.Due s' 8 (.inject t m.dst (.mig { m with age := min (m.age + 1) 255 })))) ∧
    (∀ v, s.event = .responseArrival ⟨.op u, v, .data []⟩ → x.run = .held → x.prog.phase = 1 → ∃ s',
      exec .responseArrival s = .next s' ∧ s' = { s with strands := s'.strands } ∧
      (∀ w, w ≠ u → s'.strand w = s.strand w) ∧
      s'.strand u = some { x with run := .ready, prog := { Prog.none with phase := 2, val := v } }) ∧
    (s.event = .contextLost u → x.inFlight = true → ∃ s', exec .contextLost s = .next s' ∧ s'.strands = s.strands ∧
      (∀ j, s'.byte j = s.byte j) ∧ ∀ e ∈ s.agenda, ∀ m, e.ev = .migrationArrival m → m.uid = u →
        { e with ev := .migrationArrival { m with bad := true } } ∈ s'.agenda) ∧
    (s.strandsOk → s.event = .contextLost u → x.inFlight = false → x.handler = none → (∀ r k, (s.core r k).inSlot = []) →
      (∀ r, (s.tile r).hold = []) → ∃ s', exec .contextLost s = .next s' ∧ s'.strand u = none ∧
      (∀ v, v ≠ u → s'.strand v = s.strand v) ∧ (∀ j, s'.byte j = s.byte j) ∧
      s.DueAt s' x.tile (Config.tile0 (Config.dieOf x.tile)) (.messageRingWrite (Config.dieOf x.tile)
        (some ⟨BitVec.ofNat 64 (x.ctx.sid.toNat + x.place.core * 2 ^ 32 + placeCode x * 2 ^ 36), x.ctx.lin.setWidth 64, 0,
          BitVec.ofNat 64 (x.tile + 3 * 2 ^ 56)⟩) false))

/-- R75 to R78, R84, R137, R140, R143, R154, R257, R271: the timers of the strand engine. A listed request ages by one in
256 cycles, up to 255; a waiting entry's effective class rises after `agestep`, up to 3; a free barrel slot of any core
takes the best ready entry, the lowest core first (the model's choice: log entry 57), and a lent entry is in the kennel when
its move is done. A pin of the pinning rule ends when its hold is over. The next watcher of a wake sequence is ready: `park`
has retired, `await` executes again. Both words in, a continuation is born at cpc with carg. After a step under `dbgctl` a
user strand waits for the supervisor with cause 0x0B and value 1. A vector register is ready after its last row. -/
def Obligations.StrandTimersExecute : Prop :=
  ∀ (s : State) (t u : Nat),
    (∀ stamp, s.event = .holdAgeTick t u stamp → (∃ h ∈ (s.tile t).hold, h.uid = u ∧ h.stamp = stamp) →
      ∃ s', exec .holdAgeTick s = .next s' ∧ s.Due s' 256 (.holdAgeTick t u stamp) ∧ (∀ j, s'.byte j = s.byte j) ∧
        (s'.tile t).hold = (s.tile t).hold.map (fun h => if h.uid = u then { h with age := min (h.age + 1) 255 } else h)) ∧
    (∀ stamp, s.event = .holdAgeTick t u stamp → (∀ h ∈ (s.tile t).hold, ¬ (h.uid = u ∧ h.stamp = stamp)) →
      exec .holdAgeTick s = .next s) ∧
    (∀ stamp x c, s.event = .classAgeTick u stamp → s.strand u = some x →
      (x.place = .kennel x.tile c ∨ x.place = .lent x.tile c) →
      let next : Nat := s.now + (s.regs x.tile).agestep
      (x.ecls < 3 → x.tick = stamp → ∃ s', exec .classAgeTick s = .next s' ∧
        s'.strand u = some { x with ecls := x.ecls + 1, tick := next } ∧
        (∀ v, v ≠ u → s'.strand v = s.strand v) ∧ (∀ j, s'.byte j = s.byte j) ∧
        s.Due s' (s.regs x.tile).agestep (.classAgeTick u next)) ∧
      (3 ≤ x.ecls ∨ x.tick ≠ stamp → exec .classAgeTick s = .next s)) ∧
    (∀ x n c, s.event = .kennelToBarrel t → (∀ k, (s.core t k).inSlot = []) → (s.tile t).hold = [] →
      c < Config.coresOf t → (∀ k, k < c → s.freeSlot t k = none) →
      s.freeSlot t c = some n → s.chooseEntry t c = some u → s.strand u = some x → ∃ s' y,
        exec .kennelToBarrel s = .next s' ∧ s'.strand u = some y ∧ y.place = .slot t c n ∧ y.run = x.run ∧
        y.ctx = x.ctx ∧ SMap.find? (s'.core t c).slots n = some u ∧ ∀ j, s'.byte j = s.byte j) ∧
    (∀ x c, s.event = .lentMoveDone t c u → (s.core t c).moving.contains u = true → s.strand u = some x →
      x.place = .lent t c → (s.core t c).inSlot = [] → (s.tile t).hold = [] → ∃ s',
        exec .lentMoveDone s = .next s' ∧ s'.strand u = some { x with complete := s.now, place := .kennel t c } ∧
        (∀ v, v ≠ u → s'.strand v = s.strand v) ∧ (s'.core t c).lent = (s.core t c).lent.filter (· != u) ∧
        (s'.core t c).kennel = (s.core t c).kennel ++ [u] ∧ (s'.core t c).lslot = SMap.erase (s.core t c).lslot u ∧
        s.Due s' 4 (.kennelToBarrel t) ∧
        ∀ j, s'.byte j = s.byte j) ∧
    (∀ x stop, s.event = .pinHoldExpiry u stop → s.strand u = some x → ∃ s', exec .pinHoldExpiry s = .next s' ∧
      s' = { s with strands := s'.strands } ∧ (∀ v, v ≠ u → s'.strand v = s.strand v) ∧
      s'.strand u = some (if x.ctx.rpin = true ∧ x.pinEnd = stop then
        { x with pinEnd := 0, ctx := { x.ctx with rpin := false, hleft := 0, nstop := 0, alt := 0 } } else x)) ∧
    (∀ x a b rest owner isAwait, s.event = .watcherReady t → (s.tile t).waking = (a, b, u) :: rest →
      s.strand u = some x → x.run = .waiting (.park owner isAwait) → x.marked = none → (x.home = t ∨ x.watch = none) →
      ∃ s' y, exec .watcherReady s = .next s' ∧ s'.strand u = some y ∧ y.run = .ready ∧
        (∀ v, v ≠ u → s'.strand v = s.strand v) ∧ (s'.tile t).waking = rest ∧ (∀ j, s'.byte j = s.byte j) ∧
        y.ctx = if isAwait then x.ctx else (x.finished (x.ctx.pc + 4) s.now).ctx) ∧
    (∀ x, s.memoryOk → s.event = .joinContinuation t u → s.strand u = some x → (s.tile t).filters = [] → ∃ s' y,
      exec .joinContinuation s = .next s' ∧ s'.strand u = some y ∧
      (∀ j, s'.outsideLent t u j → s'.byte j = s.byte j) ∧
      y.ctx.sid = BitVec.ofNat 12 t ++ (s.tile t).serial ∧ y.ctx.lin = x.ctx.lin ∧
      y.ctx.pc.toNat = (SMap.getD x.prog.words 0 0).toNat % 2 ^ 48 / 4 * 4 ∧
      y.ctx.g = x.ctx.g.set 0 (SMap.getD x.prog.words 1 0)) ∧
    (∀ x, s.event = .singleStepTrap u → s.strand u = some x → x.ctx.sup = false → ∃ s' y,
      exec .singleStepTrap s = .next s' ∧ s'.strand u = some y ∧ y.run = .waiting .supervisor ∧
      y.ctx = { x.ctx with tcause := 0x0B, tval := 1, tpc := x.ctx.pc } ∧ (∀ v, v ≠ u → s'.strand v = s.strand v) ∧
      ∀ j, s'.byte j = s.byte j) ∧
    (∀ c (d : BitVec 3), s.event = .vectorLastRowWritten t c d → ∃ s', exec .vectorLastRowWritten s = .next s' ∧
      s' = { s with vunits := s'.vunits } ∧
      let v := s.vunit t c
      s'.vunit t c = if v.pending[d.toNat]?.getD 0 = s.now + 1 then { v with pending := v.pending.setIfInBounds d.toNat 0 }
        else v)

/-! ## The vector unit -/

/-- R152: the source element under a lane pattern, by row, 32-lane half and lane. 0 identity; 1 reversal within the half;
2 lane 0 of the half; 3 row 0; 4 to 7 rotation by 1, 2, 4 or 8 within the half; 8 to 10 exchange with the lane that
differs in bit 0, 1 or 2. -/
def Obligations.LanePatternMeaning : Prop :=
  ∀ (r h q : Nat), r < 16 → h < 2 → q < 32 →
    let at_ (r q : Nat) : Nat := 64 * r + 32 * h + q
    let i := at_ r q
    lanePattern 0 i = i ∧ lanePattern 1 i = at_ r (31 - q) ∧ lanePattern 2 i = at_ r 0 ∧ lanePattern 3 i = at_ 0 q ∧
    lanePattern 4 i = at_ r ((q + 1) % 32) ∧ lanePattern 5 i = at_ r ((q + 2) % 32) ∧
    lanePattern 6 i = at_ r ((q + 4) % 32) ∧ lanePattern 7 i = at_ r ((q + 8) % 32) ∧
    lanePattern 8 i = at_ r (q ^^^ 1) ∧ lanePattern 9 i = at_ r (q ^^^ 2) ∧ lanePattern 10 i = at_ r (q ^^^ 4)

/-- R149, R152, R154, R158 to R160, R162, R169: an element-wise instruction of a strand that holds its core's vector unit,
its registers in. Each element inside the shape gets its value, computed from the registers as they were; elements
outside the shape, the other registers, the shape and memory are unchanged; the register is ready lat + rows cycles
later, which also frees the unit after rows cycles. A poisoned source element traps with its cause and element form
and writes nothing. R30, R158, R161: a row reduction writes, in every lane of a row inside the shape, the value of the
fixed tree over the row's lanes. -/
def Obligations.VectorElementsExecute : Prop :=
  (∀ (i : Instr) (e : VMember), elementMember i = some e →
   ∀ (s : State) (u : Nat) (x : Strand) (t c n : Nat) (v : VUnit), s.HoldsUnit u x t c n v → x.Clear e.regs [] →
     v.Arrived e.vs →
     (v.poisonIn (e.used v) = none → ∃ s' w, exec i s = .next s' ∧
       s.VectorAs s' u t c n (x.finished (x.ctx.pc + 4) s.now) w ∧
       v.WroteAs w e.d v.inside (e.val x v) (s.now + v.rows) ∧
       s.Due s' (e.lat + v.rows) (.vectorLastRowWritten t c e.d)) ∧
     (∀ cause val, v.poisonIn (e.used v) = some (cause, val) → x.ctx.tvec ≠ 0 → x.ctx.sup = true ∨ toSupervisor cause val false = false →
       cause ≠ 0x10 → ∃ s', exec i s = .next s' ∧ s.TrappedAs s' u t c n x cause val)) ∧
  (∀ (i : Instr) (d b : VReg) (l : BitVec 4) (f : Half → Half → Half) (leaf : Half → Half),
     reduceMember i = some (d, b, l, f, leaf) →
   ∀ (s : State) (u : Nat) (x : Strand) (t c n : Nat) (v : VUnit), s.HoldsUnit u x t c n v → v.Arrived [b, d] →
     v.lanes ≤ 64 → v.poisonIn (v.usesB b.toNat l) = none →
     let lane (r k : Nat) : Option Half :=
       if k < v.lanes then some (leaf (v.elem b.toNat (lanePattern l (64 * r + k)))) else none
     ∃ s' w, exec i s = .next s' ∧ s.VectorAs s' u t c n (x.finished (x.ctx.pc + 4) s.now) w ∧
       v.WroteAs w d v.inside (fun j => (laneTree f (lane (j / 64)) 6 0).getD 0) (s.now + v.rows) ∧
       s.Due s' (10 + v.rows) (.vectorLastRowWritten t c d))

/-- R167 to R170: `vget` reads the element that rb names, row [11:8] and lane [5:0]; `vput` writes it, with no effect
outside the shape; `vshape` sets rows to 1 to 16 and lanes to 1 to 64; `vrel` of a unit that nothing waits for gives
it up, and it is as the next claim finds it. -/
def Obligations.VectorUnitMembersExecute : Prop :=
  ∀ (s : State) (u : Nat) (x : Strand) (t c n : Nat) (v : VUnit), s.HoldsUnit u x t c n v →
    (∀ (r : VReg) (a b : Reg), x.Clear [b] [a] → v.Arrived [r] →
      let k := 64 * ((x.reg b).toNat / 256 % 16) + (x.reg b).toNat % 64
      v.poisonIn (fun m => m == 1024 * r.toNat + k) = none →
      ∃ s', exec (.vget r a b) s = .next s' ∧
        s.RetiredAs s' u t c n (x.setReg a ((v.elem r.toNat k).setWidth 64)) (x.ctx.pc + 4)) ∧
    (∀ (r : VReg) (a b : Reg), x.Clear [a, b] [] → v.Arrived [r] →
      let k := 64 * ((x.reg b).toNat / 256 % 16) + (x.reg b).toNat % 64
      (v.inside k = true → ∃ s' w, exec (.vput r a b) s = .next s' ∧
        s.VectorAs s' u t c n (x.finished (x.ctx.pc + 4) s.now) w ∧
        v.WroteAs w r (fun i => i == k) (fun _ => (x.reg a).setWidth 32) s.now ∧
        s.Due s' 4 (.vectorLastRowWritten t c r)) ∧
      (v.inside k = false → ∃ s', exec (.vput r a b) s = .next s' ∧ s.RetiredAs s' u t c n x (x.ctx.pc + 4))) ∧
    (∀ (a b : Reg), x.Clear [a, b] [] → v.anyPending = false → ∃ s', exec (.vshape a b) s = .next s' ∧
      s.VectorAs s' u t c n (x.finished (x.ctx.pc + 4) s.now)
        { v with rows := min (max (x.reg a).toNat 1) 16, lanes := min (max (x.reg b).toNat 1) 64 }) ∧
    (v.anyPending = false → v.waiters = [] → ∃ s', exec .vrel s = .next s' ∧
      s.VectorAs s' u t c n (x.finished (x.ctx.pc + 4) s.now) { VUnit.reset with busy := v.busy })

/-- R151, R155, R167: `vclaim` of a free unit grants it at once: every register zero, 16 rows and 64 lanes, nothing
pending or poisoned. Of the unit that the strand holds it does nothing; of a unit that another holds it waits, last in
order. R155, R156: every other vector instruction without the claim is cause 0x08 with value 0 and has no effect. -/
def Obligations.VectorClaimRules : Prop :=
  (∀ (s : State) (u : Nat) (x : Strand) (t c n : Nat), s.Issuing u x t c n → x.tile = t → x.poison = [] →
     (Config.hasSupervisor t && c == 0) = false →
     ((s.vunit t c).holder = some u →
       ∃ s', exec .vclaim s = .next s' ∧ s.RetiredAs s' u t c n x (x.ctx.pc + 4)) ∧
     ((s.vunit t c).holder = none → (s.vunit t c).waiters = [] → ∃ s' w, exec .vclaim s = .next s' ∧
       s.VectorAs s' u t c n (x.finished (x.ctx.pc + 4) s.now) w ∧ w.holder = some u ∧ w.rows = 16 ∧ w.lanes = 64 ∧
       w.poison = [] ∧ (∀ r i, w.elem r i = 0) ∧ ∀ r, w.isPending r = false) ∧
     (∀ h, (s.vunit t c).holder = some h → h ≠ u → ∃ s' y, exec .vclaim s = .next s' ∧ s'.strand u = some y ∧
       y.run = .waiting .vclaim ∧ y.ctx = x.ctx ∧ (∀ v, v ≠ u → s'.strand v = s.strand v) ∧
       s'.vunit t c = { s.vunit t c with waiters := (s.vunit t c).waiters ++ [u] } ∧ ∀ j, s'.byte j = s.byte j)) ∧
  (∀ (i : Instr), needsVector i = true →
   ∀ (s : State) (u : Nat) (x : Strand) (t c n : Nat), s.Issuing u x t c n →
     (s.vunit x.tile c).holder ≠ some u → x.ctx.tvec ≠ 0 →
     ∃ s', exec i s = .next s' ∧ s.TrappedAs s' u t c n x 8 0)

/-- R163, R164: `vld` and `vldr`, base and stride aligned and every piece translated: the strand goes on, the register is
not ready, the unit is busy for one cycle a piece, and the reads leave one in each cycle, the first in this one; a
piece that the strand's own tile owns is read there. R153, R164, R166: a piece of a vector load arrives. Its elements
hold the widened values of its bytes, in every row for `vldr`; with an error they are poisoned with the cause and
their element form. No other element changes. After the last piece the register is ready 4 cycles later. R62, R163,
R164, R166: `vst` with base and stride aligned, every piece translated and none of them failing: the strand goes on
and the unit sends the pieces one in each cycle. The first is sent in this cycle: on the strand's own tile it is
performed, and its bytes, the narrowed elements of the row, are the only bytes that change. The model's own readings
in it: log entry 12. -/
def Obligations.VectorMemoryExecutes : Prop :=
  (∀ (i : Instr) (r : VReg) (rd : List Reg) (ty : Nat) (base stride : Strand → Word) (dup : Bool),
     ((∃ a b k, i = .vld r a b k ∧ rd = [a, b] ∧ ty = BitVec.toNat k ∧ base = (fun x => x.reg a) ∧
         stride = (fun x => x.reg b) ∧ dup = false) ∨
       (∃ a k, i = .vldr r a k ∧ rd = [a] ∧ ty = BitVec.toNat k ∧ base = (fun x => x.reg a) ∧
         stride = (fun _ => 0) ∧ dup = true)) →
   ∀ (s : State) (u : Nat) (x : Strand) (t c n : Nat) (v : VUnit), s.HoldsUnit u x t c n v → x.Clear rd [] →
     v.anyPending = false → (base x).toNat % vmSize ty = 0 → (stride x).toNat % vmSize ty = 0 →
     let pieces := VJob.pieces ⟨r.toNat, ty, base x, stride x, dup, [], 0, x.ctx.pc⟩ v
     ∀ (tgts : List Target) (s1 : State), pieceTargets u x permR pieces s = .ok (tgts, s1) →
     ∃ s', exec i s = .next s' ∧ s'.strand u = some (x.finished (x.ctx.pc + 4) s.now) ∧
       (∀ w, w ≠ u → s'.strand w = s.strand w) ∧ (∀ j, s'.byte j = s.byte j) ∧
       s'.vunit t c = { v with pending := v.pending.setIfInBounds r.toNat 1, busy := s.now + pieces.length,
                               memBusy := s.now + pieces.length, loads := pieces.length,
                               job := some ⟨r.toNat, ty, base x, stride x, dup, tgts, 0, x.ctx.pc⟩ } ∧
       ∀ j q g, pieces[j]? = some q → tgts[j]? = some g →
         ∀ o k, s1.locate t (shiftTarget q.off g) = some (o, k) → s.real o = t →
           s.Due s' j (.requestArrival ⟨t, t, shiftTarget q.off g, q.addr, .load (q.lanes * vmSize ty), .line u j,
             x.ctx.lin, x.ctx.sup, false⟩)) ∧
  (∀ (s : State) (u j : Nat) (va : Word) (x : Strand) (c : Nat) (job : VJob) (q : Piece), s.strand u = some x →
     s.vclaimCore x.tile u = some c → (s.vunit x.tile c).job = some job →
     (job.pieces (s.vunit x.tile c))[j]? = some q → job.v < 8 →
     let v := s.vunit x.tile c
     (∀ bs, s.event = .responseArrival ⟨.line u j, va, .data bs⟩ → ∃ s' w, exec .responseArrival s = .next s' ∧
       s'.vunit x.tile c = w ∧ s'.strands = s.strands ∧ (∀ k, s'.byte k = s.byte k) ∧ w.loads = v.loads - 1 ∧
       (∀ i, i < 1024 → w.elem job.v i = if q.holds job.dup v i
         then vmLoad job.ty (leValue ((bs.drop ((i % 64 - q.lane) * vmSize job.ty)).take (vmSize job.ty)))
         else v.elem job.v i) ∧
       (∀ r, r ≠ job.v → w.reg r = v.reg r) ∧
       (v.loads = 1 → s.Due s' 4 (.vectorLastRowWritten x.tile c (BitVec.ofNat 3 job.v)))) ∧
     (∀ cause, s.event = .responseArrival ⟨.line u j, va, .fail cause⟩ → ∃ s' w, exec .responseArrival s = .next s' ∧
       s'.vunit x.tile c = w ∧ w.v = v.v ∧ s'.strands = s.strands ∧
       ∀ i, i < 1024 → q.holds job.dup v i = true →
         (1024 * job.v + i, (if cause = 7 then 7 else 3, elementForm (1024 * job.v + i))) ∈ w.poison)) ∧
  (∀ (r : VReg) (a b : Reg) (ty : BitVec 4) (s : State) (u : Nat) (x : Strand) (t c n : Nat) (v : VUnit),
     s.memoryOk → s.HoldsUnit u x t c n v → x.marked = none → x.Clear [a, b] [] → v.anyPending = false →
     v.poisonIn (v.usesOwn r.toNat) = none → (x.reg a).toNat % vmSize ty.toNat = 0 →
     (x.reg b).toNat % vmSize ty.toNat = 0 →
     let job : VJob := ⟨r.toNat, ty.toNat, x.reg a, x.reg b, false, [], 0, x.ctx.pc⟩
     ∀ (g : Target) (gs : List Target) (s1 : State), pieceTargets u x permW (job.pieces v) s = .ok (g :: gs, s1) →
       s1.failingPiece t v { job with tgts := g :: gs } = none →
     ∀ (q : Piece) (o k : Nat), (job.pieces v)[0]? = some q → s1.locate t g = some (o, k) → s.real o = t →
     ∃ s', exec (.vst r a b ty) s = .next s' ∧ s'.strand u = some (x.finished (x.ctx.pc + 4) s.now) ∧
       (∀ w, w ≠ u → s'.strand w = s.strand w) ∧
       (∀ e ∈ pieceBytes v job q, (∀ e' ∈ pieceBytes v job q, e'.1 = e.1 → e' = e) → s'.byte (k + e.1) = e.2) ∧
       (∀ j, (∀ e ∈ pieceBytes v job q, j ≠ k + e.1) → s'.byte j = s.byte j) ∧
       (s'.vunit t c).v = v.v ∧ (s'.vunit t c).busy = s.now + (job.pieces v).length ∧
       (1 < (job.pieces v).length → s.Due s' 1 (.vpiece t c u)))

/-! ## Circular buffers and the matrix engine -/

/-- R199, R216, R218 to R221: the CB instructions on a handle that is set up. `cbcnt` reads both counters; `cbwait` and
`cbspace` give the local-store address of the next slot while it is filled, or free, and else wait; `cbpush` writes
the slot's header word, whose bytes are the only ones to change, and advances produced; `cbpop` advances consumed.
`cbwait` on an empty buffer that is bound to a channel in error is cause 0x0F. On
a handle that is not set up each is cause 0x0E with the handle as value. R198, R217: `cbinit` asks for the four words
of its record, keeping its barrel slot; once they are in it sets the handle up with both counters at the start count,
or traps with cause 0x0E on the first word that is wrong. -/
def Obligations.CbInstructionsExecute : Prop :=
  (∀ (s : State) (u : Nat) (x : Strand) (t c n : Nat) (d a h : Reg), s.Issuing u x t c n → x.Clear [a] [d] →
     x.poison = [] →
     (s.cb x.tile h.toNat = none → x.ctx.tvec ≠ 0 →
       ∀ i ∈ [Instr.cbcnt d h, .cbwait d h, .cbspace d h, .cbpush a h, .cbpop h],
         ∃ s', exec i s = .next s' ∧ s.TrappedAs s' u t c n x 0x0E (h.setWidth 64)) ∧
     (∀ b : Cb, s.cb x.tile h.toNat = some b →
       let slot (pos : Nat) : Word := BitVec.ofNat 64 (0xFE * 2 ^ 56 + x.tile * 2 ^ 32 + (b.base + 64 * b.size * pos))
       let filled : Nat := (b.produced - b.consumed).toNat
       (∃ s', exec (.cbcnt d h) s = .next s' ∧ s.RetiredAs s' u t c n
         (x.setReg d (BitVec.ofNat 64 (b.consumed.toNat * 2 ^ 32 + b.produced.toNat))) (x.ctx.pc + 4)) ∧
       (b.consBy = none → 0 < filled → ∃ s', exec (.cbwait d h) s = .next s' ∧
         s.RetiredAs s' u t c n (x.setReg d (slot b.cpos)) (x.ctx.pc + 4)) ∧
       (filled = 0 → s.boundInError x.tile h.toNat = true → x.ctx.tvec ≠ 0 → ∃ s', exec (.cbwait d h) s = .next s' ∧
         s.TrappedAs s' u t c n x 0x0F (h.setWidth 64)) ∧
       (b.consBy = none → filled = 0 → s.boundInError x.tile h.toNat = false → ∃ s' y, exec (.cbwait d h) s = .next s' ∧
         s'.strand u = some y ∧ y.run = .waiting (.cbwait h.toNat) ∧ y.ctx = x.ctx ∧
         (∀ v, v ≠ u → s'.strand v = s.strand v) ∧ ∀ j, s'.byte j = s.byte j) ∧
       (b.prodBy = none → filled < b.count → ∃ s', exec (.cbspace d h) s = .next s' ∧
         s.RetiredAs s' u t c n (x.setReg d (slot b.ppos)) (x.ctx.pc + 4)) ∧
       (b.prodBy = none → b.count ≤ filled → ∃ s' y, exec (.cbspace d h) s = .next s' ∧
         s'.strand u = some y ∧ y.run = .waiting (.cbspace h.toNat) ∧ y.ctx = x.ctx ∧
         (∀ v, v ≠ u → s'.strand v = s.strand v) ∧ ∀ j, s'.byte j = s.byte j) ∧
       (b.prodBy = none → s.vectorMemBusy u x = false → s.loadsDone u x = true → filled < b.count → s.memoryOk →
         let k := cellNo x.tile true (b.base + 64 * b.size * b.ppos)
         (∀ j, j < 8 → s.poisoned (k + j) = false) →
         ∃ s' b' y, exec (.cbpush a h) s = .next s' ∧ s'.cb x.tile h.toNat = some b' ∧
           b'.produced = b.produced + 1 ∧ b'.ppos = (b.ppos + 1) % b.count ∧ b'.consumed = b.consumed ∧
           s'.strand u = some y ∧ y.ctx = (x.finished (x.ctx.pc + 4) s.now).ctx ∧
           s'.Holds k 8 (BitVec.ofNat 64 (b.produced.toNat * 2 ^ 32 + b.cols * 2 ^ 16 + b.rows * 2 ^ 8 + b.fmt * 16 +
             (x.reg a).toNat % 16)) ∧ ∀ j, ¬ within k 8 j → s'.byte j = s.byte j) ∧
       (b.consBy = none → s.loadsDone u x = true → 0 < filled →
         ∃ s' b' y, exec (.cbpop h) s = .next s' ∧ s'.cb x.tile h.toNat = some b' ∧
           b'.consumed = b.consumed + 1 ∧ b'.cpos = (b.cpos + 1) % b.count ∧ b'.produced = b.produced ∧
           s'.strand u = some y ∧ y.ctx = (x.finished (x.ctx.pc + 4) s.now).ctx ∧ ∀ j, s'.byte j = s.byte j))) ∧
  (∀ (s : State) (u : Nat) (x : Strand) (t c n : Nat) (a h : Reg), s.focus = u → s.strand u = some x →
     x.place = .slot t c n → x.Clear [a] [] →
     (x.prog.phase = 0 → (x.reg a).toNat % 8 = 0 → s.vectorMemBusy u x = false →
       ∀ ws s1, wordTargets false u x (x.reg a) 4 s = .ok (ws, s1) →
       ∃ s' y, exec (.cbinit a h) s = .next s' ∧ s'.strand u = some y ∧ y.run = .stalled ∧ y.prog.phase = 1 ∧
         y.ctx = x.ctx ∧ y.place = x.place ∧ (∀ v, v ≠ u → s'.strand v = s.strand v) ∧ ∀ j, s'.byte j = s.byte j) ∧
     (x.prog.phase = 1 → ∀ w0 w1 w2 w3 : Word, x.prog.words.map (·.2) = [w0, w1, w2, w3] → x.prog.bad = none →
       s.cbHeld x.tile h.toNat = false → s.cbNamed x.tile h.toNat = false →
       let f (w : Word) (lo n : Nat) : Nat := w.toNat / 2 ^ lo % 2 ^ n
       (cbBadWord x.tile [w0, w1, w2, w3] = none → ∃ s' b y, exec (.cbinit a h) s = .next s' ∧
         s'.cb x.tile h.toNat = some b ∧ b.base = f w0 0 22 ∧ b.size = f w0 32 9 ∧ b.count = f w0 48 9 ∧
         b.fmt = f w1 0 4 ∧ b.rows = f w1 8 7 ∧ b.cols = f w1 16 7 ∧ b.produced = w2.setWidth 32 ∧
         b.consumed = w2.setWidth 32 ∧ b.prodBy = none ∧ b.consBy = none ∧ s'.strand u = some y ∧
         y.ctx.pc = x.ctx.pc + 4 ∧ y.ctx.g = x.ctx.g ∧ ∀ j, s'.byte j = s.byte j) ∧
       (∀ k, cbBadWord x.tile [w0, w1, w2, w3] = some k → x.ctx.tvec ≠ 0 → ∃ s', exec (.cbinit a h) s = .next s' ∧
         s'.cbs = s.cbs ∧
         s'.strand u = some (x.trapped 0x0E (BitVec.ofNat 64 (h.toNat + 256 * k)) s.now))))

/-- R204, R222, R225, R226: `mclaim` of a free engine grants it in its reset state; of one held by another the strand
waits. For the holder `mwait` and `mrel` retire once the queue is empty, and else wait; `mstat` reads the status word.
Without the claim `mrel`, `mwait`, `mstat`, `mfmt` and `mgo` are cause 0x08 with value 0, whatever their registers wait for. -/
def Obligations.MatrixClaimExecutes : Prop :=
  ∀ (s : State) (u : Nat) (x : Strand) (t c n : Nat), s.Issuing u x t c n → x.poison = [] →
    let m := s.matrix x.tile
    (m.holder = none → m.waiters = [] → (Config.hasSupervisor x.tile && c == 0) = false → ∃ s',
      exec .mclaim s = .next s' ∧ s'.strand u = some (x.finished (x.ctx.pc + 4) s.now) ∧
      s'.matrix x.tile = { Matrix.reset with holder := some u } ∧ (∀ v, v ≠ u → s'.strand v = s.strand v) ∧
      ∀ j, s'.byte j = s.byte j) ∧
    (∀ w, m.holder = some w → w ≠ u → (Config.hasSupervisor x.tile && c == 0) = false → ∃ s' y,
      exec .mclaim s = .next s' ∧ s'.strand u = some y ∧ y.run = .waiting .mclaim ∧ y.ctx = x.ctx ∧
      s'.matrix x.tile = { m with waiters := m.waiters ++ [u] } ∧ ∀ j, s'.byte j = s.byte j) ∧
    (m.holder = some u → m.queue = [] →
      (∃ s', exec .mwait s = .next s' ∧ s.RetiredAs s' u t c n x (x.ctx.pc + 4)) ∧
      (m.waiters = [] → ∃ s', exec .mrel s = .next s' ∧ s'.strand u = some (x.finished (x.ctx.pc + 4) s.now) ∧
        s'.matrix x.tile = Matrix.reset ∧ ∀ j, s'.byte j = s.byte j)) ∧
    (m.holder = some u → m.queue ≠ [] → ∀ i w, (i = .mwait ∧ w = .mwait) ∨ (i = .mrel ∧ w = .mrel) →
      ∃ s' y, exec i s = .next s' ∧ s'.strand u = some y ∧ y.run = .waiting w ∧ y.ctx = x.ctx ∧
        s'.matrix x.tile = m ∧ ∀ j, s'.byte j = s.byte j) ∧
    (m.holder = some u → ∀ d, x.Clear [] [d] → ∃ s', exec (.mstat d) s = .next s' ∧
      s.RetiredAs s' u t c n (x.setReg d m.status) (x.ctx.pc + 4)) ∧
    (m.holder ≠ some u → x.ctx.tvec ≠ 0 → ∀ (d a b r : Reg) (p : Pred),
      ∀ i ∈ [Instr.mrel, .mwait, .mstat d, .mfmt a b, .mgo r p], ∃ s', exec i s = .next s' ∧
        s.TrappedAs s' u t c n x 8 0)

/-- R203, R206, R207, R223, R224: `mgo` of a well-formed command with room in the queue of 16 accepts it, with a copy of
its format context as it is now, and clears pd; with a full queue it sets pd and nothing else; a malformed command is
cause 0x0E with the index of the first word that is wrong. `mfmt` asks for its record and, once its words are in, writes
its context alone. The model's own readings in it: log entry 19. -/
def Obligations.MatrixCommandsExecute : Prop :=
  (∀ (s : State) (u : Nat) (x : Strand) (t c n : Nat), s.focus = u → s.strand u = some x → x.place = .slot t c n →
     (s.matrix x.tile).holder = some u →
     (∀ (r : Reg) (p : Pred), x.prog.phase = 0 → x.Clear (eightFrom r) [] →
       let w : Vector Word 8 := x.eight r
       let m := s.matrix x.tile
       (s.malformed x.tile w = none → m.queue.length < 16 → s.vectorMemBusy u x = false → ∃ s', exec (.mgo r p) s = .next s' ∧
         s'.strand u = some ((x.setPred p false).finished (x.ctx.pc + 4) s.now) ∧
         (∀ v, v ≠ u → s'.strand v = s.strand v) ∧ (∀ j, s'.byte j = s.byte j) ∧
         (s'.matrix x.tile).queue =
           m.queue ++ [⟨w[0], w[1], w[2], m.ctxs[w[0].toNat / 2 ^ 6 % 4]?.getD MCtx.reset⟩] ∧
         (s'.matrix x.tile).acc = m.acc ∧ (s'.matrix x.tile).stop = false ∧ (s'.matrix x.tile).ctxs = m.ctxs) ∧
       (s.malformed x.tile w = none → 16 ≤ m.queue.length → ∃ s', exec (.mgo r p) s = .next s' ∧
         s.RetiredAs s' u t c n (x.setPred p true) (x.ctx.pc + 4)) ∧
       (∀ k, s.malformed x.tile w = some k → x.ctx.tvec ≠ 0 → ∃ s', exec (.mgo r p) s = .next s' ∧
         s.TrappedAs s' u t c n x 0x0E (BitVec.ofNat 64 k))) ∧
     (∀ (a b : Reg) (w : List Word), x.Clear [a, b] [] → x.prog.phase = 1 → x.prog.words.map (·.2) = w → w.length = 9 →
       x.prog.bad = none → 1 ≤ (ctxOf w).fa → (ctxOf w).fa ≤ 4 → 1 ≤ (ctxOf w).fb → (ctxOf w).fb ≤ 4 →
       (w.headD 0).toNat / 2 ^ 8 = 0 → ∃ s' y, exec (.mfmt a b) s = .next s' ∧ s'.strand u = some y ∧
         y.ctx.pc = x.ctx.pc + 4 ∧ y.ctx.g = x.ctx.g ∧ (∀ j, s'.byte j = s.byte j) ∧
         s'.matrix x.tile = { s.matrix x.tile with
           ctxs := (s.matrix x.tile).ctxs.setIfInBounds ((x.reg a).toNat % 4) (ctxOf w) }) ∧
     (∀ (a b : Reg) ws s1, x.Clear [a, b] [] → x.prog.phase = 0 → (x.reg b).toNat % 8 = 0 → s.vectorMemBusy u x = false →
       ∀ o, s.region x.tile x.ctx.sup (x.reg b) = some (.ls x.tile o) → o + 72 ≤ Config.lsSize x.tile →
       wordTargets false u x (x.reg b) 9 s = .ok (ws, s1) → ∃ s' y, exec (.mfmt a b) s = .next s' ∧
         s'.strand u = some y ∧ y.run = .stalled ∧ y.prog.phase = 1 ∧ y.ctx = x.ctx ∧
         s'.matrix x.tile = s.matrix x.tile ∧ ∀ j, s'.byte j = s.byte j))

/-- R208, R209, R213: the steps that start a queued command and fire its actions, for a holder that is not cancelled. A
start makes the command the running one. `mzero`, which waits for nothing, fires at once and ends 16 cycles later; a
step whose sides the engine holds, whose slots are filled with the right headers and whose die is cool fires, and ends
64 cycles later, twice that for a bf16 operand and twice that again on an M-tile. No accumulator and nothing of memory
changes. -/
def Obligations.MatrixEngineSteps : Prop :=
  (∀ (s : State) (t : Nat) (q : MCmd) (rest : List MCmd), (s.matrix t).queue = q :: rest → (s.tile t).halted = false →
     (∀ u x, (s.matrix t).holder = some u → s.strand u = some x → x.marked = none) →
     (∀ i k, (i = .matrixMstep ∧ k = 0 ∧ s.event = .matrixMstep t) ∨ (i = .matrixMout ∧ k = 1 ∧ s.event = .matrixMout t) ∨
         (i = .matrixMzero ∧ k = 2 ∧ s.event = .matrixMzero t) ∨ (i = .matrixMload ∧ k = 3 ∧ s.event = .matrixMload t) →
       q.op = k → (s.matrix t).phase = 0 → ∃ s', exec i s = .next s' ∧ (s'.matrix t).op = k ∧
         (s'.matrix t).acc0 = q.acc ∧ (s'.matrix t).step = 0 ∧ (s'.matrix t).acc = (s.matrix t).acc ∧
         (∀ j, s'.byte j = s.byte j) ∧
         (k = 2 → (s'.matrix t).phase = 2 ∧ s.Due s' 15 (.matrixActionEnd t))) ∧
     (s.event = .matrixStepFire t → q.op = 0 → (s.matrix t).phase = 1 → s.now ≥ (s.die (Config.dieOf t)).hot →
       ∀ a b : Cb, s.cb t q.ha = some a → s.cb t q.hb = some b → a.consBy = some .matrix → b.consBy = some .matrix →
         a.produced ≠ a.consumed → b.produced ≠ b.consumed → s.headerWrong t q.ha q.la q.ctx.fa = none →
         s.headerWrong t q.hb q.lb q.ctx.fb = none →
         ∃ s', exec .matrixStepFire s = .next s' ∧ (s'.matrix t).phase = 2 ∧ (s'.matrix t).acc = (s.matrix t).acc ∧
           (∀ j, s'.byte j = s.byte j) ∧
           s.Due s' ((if q.ctx.fa = 1 ∨ q.ctx.fb = 1 then 128 else 64) * (if t < 1536 then 2 else 1) - 1)
             (.matrixActionEnd t)))

/-- R29, R32, R205, R208: what an action leaves in its last cycle, with no poison met. `mzero`: zero. `mload`: element (i,
j) is the f32 of the payload at the place that the layout tag gives. `mstep`: element (i, j) is the rounded window sum
of its old value and the exact products for k = 0 to 31, then of that and those for k = 32 to 63. `mout`: the payload
at the producer's slot, 64 bytes after its start, holds the scaled elements row by row, narrowed to the output format: f32,
bf16, e4m3 or e5m2. The slot's header names the count of the slot, 64 columns, 64 rows and the format, and its other bytes are
zero. Accumulators of other numbers are unchanged, and only `mout` writes memory. -/
def Obligations.MatrixActionsEnd : Prop :=
  ∀ (s : State) (t : Nat) (q : MCmd) (rest : List MCmd), s.event = .matrixActionEnd t →
    (s.matrix t).queue = q :: rest → (s.matrix t).phase = 2 → (s.matrix t).poison = [] → q.op < 4 →
    let m := s.matrix t
    let old (i j : Nat) : Half := (m.accum q.acc)[64 * i + j]?.getD 0
    (q.op ≠ 1 → (∀ e ∈ q.inputs, s.slotPoisoned t e.1 e.2.2 = false) →
      ∃ s', exec .matrixActionEnd s = .next s' ∧ (∀ j, s'.byte j = s.byte j) ∧
        (∀ a, a ≠ q.acc → (s'.matrix t).accum a = m.accum a) ∧
        ∀ i j, i < 64 → j < 64 → ((s'.matrix t).accum q.acc)[64 * i + j]?.getD 0 =
          match q.op with
          | 0 =>
            let p (k : Nat) : Num.Val := Num.mulV
              (payloadElem (s.payload t q.ha q.ctx.fa) q.ctx.fa q.ctx.ca (if q.la = 1 then 64 * k + i else 64 * i + k))
              (payloadElem (s.payload t q.hb q.ctx.fb) q.ctx.fb q.ctx.cb (if q.lb = 1 then 64 * j + k else 64 * k + j))
            let half (a : Half) (lo : Nat) : Half :=
              Num.windowSum (Num.ofF32 a :: (List.range 32).map (fun k => p (lo + k)))
            half (half (old i j) 0) 32
          | 2 => 0
          | _ =>
            let e := if q.la = 1 then 64 * j + i else 64 * i + j
            BitVec.ofNat 32 (leValue ((List.range 4).map (fun b => (s.payload t q.ha 0).getD (4 * e + b) 0)))) ∧
    (q.op = 1 → q.ofmt ≤ 3 → m.bad = false → s.memoryOk → ∀ b : Cb, s.cb t q.ho = some b →
      let k := cellNo t true (b.base + 64 * b.size * b.ppos) + 64
      (∀ j, j < 16384 + 64 → s.poisoned (k - 64 + j) = false) →
      ∃ s', exec .matrixActionEnd s = .next s' ∧ (s'.matrix t).acc = m.acc ∧
        (∀ j, ¬ within (k - 64) (64 + payloadSize q.ofmt) j → s'.byte j = s.byte j) ∧
        s'.Holds (k - 64) 8 (BitVec.ofNat 64 (b.produced.toNat * 2 ^ 32 + 64 * 2 ^ 16 + 64 * 2 ^ 8 + q.ofmt * 16)) ∧
        (∀ j, 8 ≤ j → j < 64 → s'.byte (k - 64 + j) = 0) ∧
        ∀ i j, i < 64 → j < 64 →
          let e := 64 * i + j
          let u := Num.fmul (Num.fmul (old i j) (m.scale.getD i 0)) (m.scale.getD (64 + j) 0)
          (q.ofmt = 0 → s'.Holds (k + 4 * e) 4 (u.setWidth 64)) ∧
          (q.ofmt = 1 → s'.Holds (k + 2 * e) 2 (BitVec.ofNat 64 (Num.narrow .bf16 .ieee u))) ∧
          (q.ofmt = 2 → s'.Holds (k + e) 1 (BitVec.ofNat 64 (Num.narrow .e4m3 .sat u))) ∧
          (q.ofmt = 3 → s'.Holds (k + e) 1 (BitVec.ofNat 64 (Num.narrow .e5m2 .sat u))))

/-! ## The fetch engine -/

/-- R174 to R176, R189 to R192: `fetch` of a well-formed command with room in the channel's queue of 8 accepts it under
the next transfer id, with the strand's lineage, mode and vector, and clears pd; with a full queue it sets pd and
nothing else; a malformed command is cause 0x0E with the index of the wrong word. `fid`, `fdone` and `fstat` read the
channel; `fwait` retires on a complete id, waits on one still under way, and traps on one not yet given. -/
def Obligations.FetchInstructionsExecute : Prop :=
  ∀ (s : State) (u : Nat) (x : Strand) (t c n : Nat), s.Issuing u x t c n → x.poison = [] →
    (∀ (r : Reg) (p : Pred) (ch : BitVec 4), ch.toNat < 8 → x.Clear (eightFrom r) [] →
      let w := x.eight r
      let k := s.chan x.tile ch.toNat
      let cmd (id : BitVec 32) : FCmd := newCmd w id x.ctx
      ((cmd 0).mode = 3 → s.lockedBy (groupNo (s.partOfTile x.tile) (cmd 0).grp) = none) →
      (s.fetchMalformed x.tile (cmd 0) = none → k.cmds.length < 8 → ∃ s' k', exec (.fetch r p ch) s = .next s' ∧
        s'.strand u = some ((x.setPred p false).finished (x.ctx.pc + 4) s.now) ∧ s'.chan x.tile ch.toNat = k' ∧
        k'.fid = k.fid + 1 ∧ k'.fdone = k.fdone ∧ k'.cmds = k.cmds ++ [cmd (k.fid + 1)] ∧
        (∀ v, v ≠ u → s'.strand v = s.strand v) ∧ ∀ j, s'.byte j = s.byte j) ∧
      (s.fetchMalformed x.tile (cmd 0) = none → 8 ≤ k.cmds.length → ∃ s', exec (.fetch r p ch) s = .next s' ∧
        s.RetiredAs s' u t c n (x.setPred p true) (x.ctx.pc + 4)) ∧
      (∀ i, s.fetchMalformed x.tile (cmd 0) = some i → x.ctx.tvec ≠ 0 → ∃ s', exec (.fetch r p ch) s = .next s' ∧
        s.TrappedAs s' u t c n x 0x0E (BitVec.ofNat 64 i))) ∧
    (∀ (d ch : Reg) i v, x.Clear [] [d] →
      (i = .fid d ch ∧ v = (s.chan x.tile ch.toNat).fid.setWidth 64) ∨
      (i = .fdone d ch ∧ v = (s.chan x.tile ch.toNat).fdone.setWidth 64) ∨
      (i = .fstat d ch ∧ v = (s.chan x.tile ch.toNat).status) →
      ∃ s', exec i s = .next s' ∧ s.RetiredAs s' u t c n (x.setReg d v) (x.ctx.pc + 4)) ∧
    (∀ (a ch : Reg), x.Clear [a] [] →
      let v : BitVec 32 := (x.reg a).setWidth 32
      let k := s.chan x.tile ch.toNat
      let given : Prop := v = k.fid ∨ 2 ^ 31 ≤ (v - k.fid).toNat
      (given → (k.fdone - v).toNat < 2 ^ 31 → ∃ s', exec (.fwait a ch) s = .next s' ∧
        s.RetiredAs s' u t c n x (x.ctx.pc + 4)) ∧
      (given → 2 ^ 31 ≤ (k.fdone - v).toNat → ∃ s' y, exec (.fwait a ch) s = .next s' ∧ s'.strand u = some y ∧
        y.run = .waiting (.fwait ch.toNat v) ∧ y.ctx = x.ctx ∧ ∀ j, s'.byte j = s.byte j) ∧
      (¬ given → x.ctx.tvec ≠ 0 → ∃ s', exec (.fwait a ch) s = .next s' ∧
        s.TrappedAs s' u t c n x 0x0E (v.setWidth 64)))

/-- R193, R194: the supervisor's fetch instructions. `mcclr` of a group that no incomplete command names empties it and
gives 0, of one in use gives 1. `mcset` of a free group locks it and asks for its record; with the entries in it
installs a list of distinct tiles of the partition and gives 0. `fres` and `fabt` of a channel on another die give 2;
of one on this die they send the request there and wait, and rd receives the answer. The model's own readings in it:
log entries 18, 19, 31. -/
def Obligations.FetchSupervisorMembersExecute : Prop :=
  ∀ (s : State) (u : Nat) (x : Strand) (t c n : Nat), s.focus = u → s.strand u = some x → x.place = .slot t c n →
    x.ctx.sup = true →
    (∀ (d a : Reg), x.Clear [a] [d] → x.prog.phase = 0 →
      let p := (x.reg a).toNat / 2 ^ 8 % 64
      let g := (x.reg a).toNat % 64
      s.lockedBy (groupNo p g) = none →
      (s.groupBusy p g = true → ∃ s', exec (.mcclr d a) s = .next s' ∧
        s.RetiredAs s' u t c n (x.setReg d 1) (x.ctx.pc + 4)) ∧
      (s.groupBusy p g = false → ∃ s', exec (.mcclr d a) s = .next s' ∧
        s'.strand u = some ((x.setReg d 0).finished (x.ctx.pc + 4) s.now) ∧
        s'.groups = SMap.erase s.groups (groupNo p g) ∧ ∀ j, s'.byte j = s.byte j)) ∧
    (∀ (d a b : Reg), x.Clear [a, b] [d] →
      let p := (x.reg a).toNat / 2 ^ 8 % 64
      let g := (x.reg a).toNat % 64
      (x.prog.phase = 0 → s.lockedBy (groupNo p g) = none → s.groupBusy p g = false → (x.reg b).toNat % 8 = 0 →
        s.vectorMemBusy u x = false → ∀ ws s1, wordTargets true u x (x.reg b) 1 (s.lock (groupNo p g) u) = .ok (ws, s1) →
        ∃ s' y, exec (.mcset d a b) s = .next s' ∧ s'.strand u = some y ∧ y.run = .stalled ∧ y.prog.phase = 1 ∧
          y.ctx = x.ctx ∧ s'.lockedBy (groupNo p g) = some u ∧ s'.groups = s.groups ∧ ∀ j, s'.byte j = s.byte j) ∧
      (∀ m ws l, x.prog.phase = 2 + m → 1 ≤ m → m ≤ 64 → x.prog.words.map (·.2) = ws → ws.length = (m + 3) / 4 →
        x.prog.bad = none → s.memberList p m ws = some l → ∃ s' y, exec (.mcset d a b) s = .next s' ∧
          s'.members p g = l ∧ l.length = m ∧ s'.lockedBy (groupNo p g) = none ∧ s'.strand u = some y ∧
          y.ctx.pc = x.ctx.pc + 4 ∧ y.ctx.g = (x.setReg d 0).ctx.g ∧ ∀ j, s'.byte j = s.byte j)) ∧
    (∀ (i : Instr) (d a ch : Reg) (ab : Bool), i = (if ab then .fabt d a ch else .fres d a ch) → x.Clear [a] [d] →
      let tile := (x.reg a).toNat % 4096
      (x.prog.phase = 0 → Config.tiles ≤ tile ∨ Config.dieOf tile ≠ Config.dieOf x.tile → ∃ s', exec i s = .next s' ∧
        s.RetiredAs s' u t c n (x.setReg d 2) (x.ctx.pc + 4)) ∧
      (x.prog.phase = 0 → tile < Config.tiles → Config.dieOf tile = Config.dieOf x.tile →
        (s.tile x.tile).filters = [] → SMap.find? s.retired tile = none → ∃ s' y, exec i s = .next s' ∧
          s'.strand u = some y ∧ y.run = .held ∧ y.prog.phase = 1 ∧ y.ctx = x.ctx ∧ (∀ j, s'.byte j = s.byte j) ∧
          s.Due s' (max 12 ((s.pair x.tile tile).last + 1 - s.now))
            (.fresAtChannel ⟨tile, ch.toNat, BitVec.ofNat 32 ((x.reg a).toNat / 2 ^ 32), ab, u⟩)) ∧
      (x.prog.phase = 2 → ∃ s' y, exec i s = .next s' ∧ s'.strand u = some y ∧ y.ctx.pc = x.ctx.pc + 4 ∧
        y.ctx.g = (x.setReg d x.prog.val).ctx.g ∧ ∀ j, s'.byte j = s.byte j))

/-- R178, R180, R181: a burst of 64 bytes lands. Into a buffer of this tile, or its place in a slot of the handle: those
64 bytes are the burst's, and no other byte changes. For a handler: a strand is made at the command's handler address,
with g0 the command's word 6, g1 the iteration vector, g2 the transfer id and channel, g3 the source address and g8 to
g15 the data, and asks for a slot four cycles later; no byte changes. R182: at the completion point of a channel's
oldest command, with nothing of it out and no stop: a command without an arrival and without a tail is complete. It
leaves the queue, and `fdone` is its transfer id. -/
def Obligations.BurstsLand : Prop :=
  (∀ (s : State) (t g : Nat) (x : Tag) (cmd : FCmd) (bs : List Byte), s.memoryOk → s.strandsOk → bs.length = 64 →
     SMap.find? (s.fetch t).reads g = some x → s.cmd t x.ch x.id = some cmd → cmd.killed = false → x.ch < 8 →
     (∀ i tgt o k, (i = .burstLandBuffer ∧ s.event = .burstLandBuffer ⟨t, g, .data bs⟩) → x.dst = some tgt →
       s.locate t tgt = some (o, k) → s.real o = t → (∀ j, j < 64 → s.poisoned (k + j) = false) →
       ∃ s', exec i s = .next s' ∧ s'.readBytes k 64 = bs ∧ (∀ j, ¬ within k 64 j → s'.byte j = s.byte j)) ∧
     (∀ q : Cb, s.event = .burstLandCb ⟨t, g, .data bs⟩ → s.cb t cmd.handle = some q →
       let k := cellNo t true (q.base + 64 * q.size * q.prodPos (cmd.p0 + BitVec.ofNat 32 (x.k / (q.size - 1))))
         + 64 + 64 * (x.k % (q.size - 1))
       (∀ j, j < 64 → s.poisoned (k + j) = false) →
       ∃ s', exec .burstLandCb s = .next s' ∧ s'.readBytes k 64 = bs ∧
         (∀ j, ¬ within k 64 j → s'.byte j = s.byte j)) ∧
     (s.event = .burstLandHandler ⟨t, g, .data bs⟩ → ∃ s' y, exec .burstLandHandler s = .next s' ∧
       s'.strand s.uids = some y ∧ y.ctx.pc = BitVec.ofNat 48 (cmd.word 5).toNat ∧ y.ctx.lin = cmd.lin ∧
       y.ctx.sup = cmd.sup ∧ y.ctx.tvec = cmd.tvec ∧ y.ctx.g[0] = cmd.word 6 ∧ y.ctx.g[1] = cmd.vector x.k ∧
       y.ctx.g[2] = BitVec.ofNat 64 (cmd.id.toNat + x.ch * 2 ^ 32) ∧ y.ctx.g[3] = x.src ∧
       (∀ i (h : i < 8), y.ctx.g[8 + i] = wordOf ((bs.drop (8 * i)).take 8)) ∧
       y.handler = some (t, x.ch, x.id) ∧ (∀ v, v ≠ s.uids → s'.strand v = s.strand v) ∧
       s.Due s' 4 (.ask t s.uids) ∧ ∀ j, s'.byte j = s.byte j)) ∧
  (∀ (s : State) (t ch : Nat) (cmd : FCmd) (rest : List FCmd), ch < 8 → s.event = .fetchCompletionPoint t ch →
     (s.chan t ch).cmds = cmd :: rest → s.atCompletion t cmd = true → (cmd.mode = 1 ∨ cmd.aux = 0) → cmd.tpc = 0 →
     ∃ s', exec .fetchCompletionPoint s = .next s' ∧ (s'.chan t ch).cmds = rest ∧ (s'.chan t ch).fdone = cmd.id ∧
       (s'.chan t ch).fid = (s.chan t ch).fid ∧ ∀ j, s'.byte j = s.byte j)

/-- R177, R183, R184: a channel reads the entry of its next block from the table; a good entry is kept and the reads go on;
an entry that is misaligned, refused or poisoned, and an address that faults, stop the channel with kind 2 and its cause,
and the supervisor is told. A read of an entry, or of 64 bytes, leaves under the lowest free tag, a read of 64 bytes at most
one in a cycle. R178, R179, R182 to R184, R194: what goes on behind the reads. A multicast burst is written at the same
offset of every member, here at once, elsewhere by an engine write. An engine write at its owner stores its 64 bytes, or
makes its arrival, and is acknowledged; an acknowledgement frees the tag, and after the last copy the burst counts as
delivered; a refusal stops the channel with kind 1, and the engine keeps the copy. A full slot is pushed with its header.
The acknowledgement of its completion arrival completes a command; a refusal stops it with kind 3. A `fres` or `fabt` that
reaches the channel clears the stop, or aborts the command, and is answered. The model's own readings in it: log entries 18,
30. -/
def Obligations.FetchEngineSteps : Prop :=
  (∀ (s : State) (t ch : Nat) (c : FCmd), ch < 8 → s.cmd t ch c.id = some c → c.stop = none → c.aborted = false →
     let stopped (s' : State) (f : FStop) : Prop := (∀ j, s'.byte j = s.byte j) ∧
       (∃ c', s'.cmd t ch c.id = some c' ∧ c'.stop = some f ∧ c'.k = c.k ∧ c'.w = c.w) ∧
       s.DueAt s' t (Config.tile0 (Config.dieOf t)) (.messageRingWrite (Config.dieOf t) (some
         ⟨BitVec.ofNat 64 (c.id.toNat + ch * 2 ^ 32 + f.cause * 2 ^ 40 + f.kind * 2 ^ 48), c.vector f.k, f.addr,
           BitVec.ofNat 64 t⟩) false)
     let entry (b : Nat) : Word := c.tbl + 8 * BitVec.ofNat 64 b
     (s.event = .fetchTableRead t ch → (s.chan t ch).active = some c → (s.chan t ch).stopped = none → c.tbl ≠ 0 →
       c.asked = none → c.walks = 0 → c.k < c.bursts → (s.tile t).halted = false → c.blockOffset c.k = none →
       s.fetchSide t ch c = (true, s) → (s.fetch t).reads.length < 256 → ∀ g,
       (∀ h, h < g → SMap.find? (s.fetch t).reads h ≠ none) → SMap.find? (s.fetch t).reads g = none → g < 256 →
       let a := entry (c.block c.k)
       (∀ k, s.engineTrans t c a permR = .fault k → ∃ s', exec .fetchTableRead s = .next s' ∧
         stopped s' ⟨2, k, a, c.k⟩) ∧
       (∀ tgt o k s1, s.engineTrans t c a permR = .ok tgt o k s1 → s.real o = t → ∃ s' x,
         exec .fetchTableRead s = .next s' ∧ s'.cmd t ch c.id = some { c with asked := some (c.block c.k) } ∧
         SMap.find? (s'.fetch t).reads g = some x ∧ x.table = true ∧ x.ch = ch ∧ x.id = c.id ∧
         (∀ j, s'.byte j = s.byte j) ∧
         s.Due s' (s1.touch k false).1 (.fetchTableEntryArrival t ch g
           (if s.anyPoison k 8 then .fail 7 else .data (s.readBytes k 8))))) ∧
     (∀ g x ans b, s.event = .fetchTableEntryArrival t ch g ans → SMap.find? (s.fetch t).reads g = some x →
       x.table = true → x.ch = ch → x.id = c.id → c.asked = some b →
       (∀ bs, ans = .data bs → (wordOf bs).toNat % 64 = 0 → ∃ s', exec .fetchTableEntryArrival s = .next s' ∧
         s'.cmd t ch c.id = some { c with asked := none, entry := some (b, wordOf bs) } ∧
         SMap.find? (s'.fetch t).reads g = none ∧ s.Due s' 0 (.fetchReadIssue t) ∧ ∀ j, s'.byte j = s.byte j) ∧
       (∀ bs, ans = .data bs → (wordOf bs).toNat % 64 ≠ 0 → ∃ s', exec .fetchTableEntryArrival s = .next s' ∧
         stopped s' ⟨2, 2, entry b, c.k⟩) ∧
       (∀ k, ans = .fail k → ∃ s', exec .fetchTableEntryArrival s = .next s' ∧
         stopped s' ⟨2, if k = 7 then 7 else 3, entry b, c.k⟩)) ∧
     (s.event = .fetchReadIssue t → (s.fetch t).issued ≤ s.now → ch = ((s.fetch t).rr + 1) % 8 →
       (s.chan t ch).active = some c → (s.chan t ch).stopped = none → (s.chan t ch).ready ≤ s.now → c.walks = 0 →
       (s.fetch t).reads.length < 256 → (s.fetch t).writes.length ≤ 256 → (s.tile t).halted = false → c.mode = 1 →
       (s.fetch t).landing < 1024 → (∀ h, ∀ d ∈ (s.chan t h).cmds, d.again = []) → ∀ b a g,
       (c.redo.head? = some (b, a) ∨
         (c.redo = [] ∧ b = c.k ∧ ∃ blk, c.blockOffset c.k = some blk ∧ a = c.source c.k blk)) →
       (∀ h, h < g → SMap.find? (s.fetch t).reads h ≠ none) → SMap.find? (s.fetch t).reads g = none → g < 256 →
       (∀ k, s.engineTrans t c a permR = .fault k →
         (∀ h, h < 8 → h ≠ ch → (s.chan t h).cmds = []) → ∃ s', exec .fetchReadIssue s = .next s' ∧
         stopped s' ⟨0, k, a, b⟩) ∧
       (∀ tgt o k s1, s.engineTrans t c a permR = .ok tgt o k s1 → s.real o = t → ∃ s' x c',
         exec .fetchReadIssue s = .next s' ∧ SMap.find? (s'.fetch t).reads g = some x ∧ x.ch = ch ∧ x.id = c.id ∧
         x.k = b ∧ x.src = a ∧ x.iv = c.coords b ∧ s'.cmd t ch c.id = some c' ∧ c'.reads = c.reads + 1 ∧
         (s'.fetch t).landing = (s.fetch t).landing + 1 ∧ (s'.fetch t).rr = ch ∧ (∀ j, s'.byte j = s.byte j) ∧
         s.Due s' (s1.touch k false).1 (.burstLandHandler ⟨t, g,
           if s.anyPoison k 64 then .fail 7 else .data (s.readBytes k 64)⟩) ∧ s.Due s' 1 (.fetchReadIssue t)))) ∧
  (∀ (s : State) (t : Nat), s.memoryOk →
     (∀ (g : Nat) (x : Tag) (cmd : FCmd) (bs : List Byte), s.event = .burstLandMulticast ⟨t, g, .data bs⟩ →
       bs.length = 64 → SMap.find? (s.fetch t).reads g = some x → x.ch < 8 → s.cmd t x.ch x.id = some cmd →
       cmd.killed = false → (s.tile t).filters = [] →
       let ms := s.members (s.partOfTile t) cmd.grp
       let off := (cmd.word 5).toNat + 64 * x.k
       ms.Nodup → ms.length = x.wtags.length → (∀ m ∈ ms, s.real m = m) →
       (∀ j, j < 64 → s.poisoned (cellNo t true off + j) = false) → ∃ s', exec .burstLandMulticast s = .next s' ∧
         (t ∈ ms → s'.readBytes (cellNo t true off) 64 = bs) ∧
         (∀ j, ¬ (t ∈ ms ∧ within (cellNo t true off) 64 j) → s'.byte j = s.byte j) ∧
         ∀ e ∈ ms.zip x.wtags, e.1 ≠ t → s.DueAt s' t e.1 (.engineWriteArrival ⟨t, e.1, .ls e.1 off,
           BitVec.ofNat 64 (0xFE * 2 ^ 56 + e.1 * 2 ^ 32 + off), some bs, false, x.ch, e.2, cmd.lin, cmd.sup⟩)) ∧
     (∀ w : EWrite, s.event = .engineWriteArrival w → s.real w.dst = t → s.filtered t (.ewrite w) = false →
       (s.reach w.dst w.src w.sup w.tgt = .refuse → ∃ s', exec .engineWriteArrival s = .next s' ∧
         (∀ j, s'.byte j = s.byte j) ∧ s.Due s' 0 (.inject t w.src (.ewriteAck w.src w.ch w.tag (some 3)))) ∧
       (∀ k, s.reach w.dst w.src w.sup w.tgt = .perform k → (s.tile t).remote ≤ s.now →
         (∀ j, j < 64 → s.poisoned (k + j) = false) →
         let acked (s' : State) : Prop := s.Due s' (s.touch k true).1 (.inject t w.src (.ewriteAck w.src w.ch w.tag none))
         (∀ bs, w.data = some bs → w.poisoned = false → bs.length = 64 → ∃ s', exec .engineWriteArrival s = .next s' ∧
           s.ServedAs s' t (within k 64) ∧ s'.readBytes k 64 = bs ∧ acked s') ∧
         (w.data = none → w.poisoned = false → ∃ s' v, exec .engineWriteArrival s = .next s' ∧ s.ServedAs s' t (within k 8) ∧
           rmwValue .arrive 8 (s.wordAt k) 0 0 = some v ∧ s'.Holds k 8 v ∧ acked s'))) ∧
     (∀ (g ch : Nat) (x : Tag) (c : FCmd) (r : Option Nat), s.event = .engineWriteAck t ch g r →
       SMap.find? (s.fetch t).writes g = some x → x.ch < 8 → s.cmd t x.ch x.id = some c → c.stop = none →
       c.aborted = false → ∃ s' c', exec .engineWriteAck s = .next s' ∧ (∀ j, s'.byte j = s.byte j) ∧
         s'.cmd t x.ch x.id = some c' ∧ c'.writes = c.writes - 1 ∧ s.Due s' 0 (.fetchCompletionPoint t x.ch) ∧
         (r = none → (s'.fetch t).writes = SMap.erase (s.fetch t).writes g ∧ c'.stop = none ∧ c'.again = c.again ∧
           c'.delivered = c.delivered + if x.data.isSome = true ∧ (∀ e ∈ SMap.erase (s.fetch t).writes g,
             ¬ (e.2.ch = x.ch ∧ e.2.id = x.id ∧ e.2.k = x.k)) then 1 else 0) ∧
         ∀ k, r = some k → (s'.fetch t).writes = (s.fetch t).writes ∧ c'.stop = some ⟨1, k, x.va, x.k⟩ ∧
           c'.again = c.again ++ [(x.k, g, x.va, x.data)] ∧ c'.delivered = c.delivered) ∧
     (∀ (ch : Nat) (c : FCmd) (q : Cb), s.event = .fetchSlotPush t ch → ch < 8 →
       (s.chan t ch).cmds.find? (fun c => c.mode == 2 && !c.killed && s.slotFull t c) = some c →
       s.cb t c.handle = some q →
       let stamp := c.p0 + BitVec.ofNat 32 c.pushed
       let k := cellNo t true (q.base + 64 * q.size * q.prodPos stamp)
       (∀ j, j < 64 → s.poisoned (k + j) = false) → ∃ s' q', exec .fetchSlotPush s = .next s' ∧
         s'.Holds k 8 (BitVec.ofNat 64 (stamp.toNat * 2 ^ 32 + q.cols * 2 ^ 16 + q.rows * 2 ^ 8 + q.fmt * 16 +
           (c.word 7).toNat / 16 % 16)) ∧ (∀ j, ¬ within k 64 j → s'.byte j = s.byte j) ∧
         s'.cb t c.handle = some q' ∧ q'.produced = q.produced + 1 ∧ q'.consumed = q.consumed) ∧
     (∀ (ch : Nat) (c : FCmd) (rest : List FCmd), ch < 8 → (s.chan t ch).cmds = c :: rest → c.mode ≠ 2 → c.tpc = 0 →
       (∀ d ∈ rest, d.id ≠ c.id) → c.stop = none → c.aborted = false →
       (s.event = .completionArrivalAck t ch none → ∃ s', exec .completionArrivalAck s = .next s' ∧
         (s'.chan t ch).cmds = rest ∧ (s'.chan t ch).fdone = c.id ∧ ∀ j, s'.byte j = s.byte j) ∧
       (∀ k, s.event = .completionArrivalAck t ch (some k) → c.killed = false → ∃ s' c',
         exec .completionArrivalAck s = .next s' ∧ (s'.chan t ch).cmds = c' :: rest ∧ c'.id = c.id ∧
         c'.stop = some ⟨3, k, c.aux, c.bursts⟩ ∧ (s'.chan t ch).fdone = (s.chan t ch).fdone ∧
         ∀ j, s'.byte j = s.byte j)) ∧
     (∀ (r : FresReq) (x : Strand), s.event = .fresAtChannel r → s.strand r.uid = some x → r.ch < 8 →
       let t := s.real r.tile
       let answer (s' : State) (v : Word) : Prop := exec .fresAtChannel s = .next s' ∧ s'.strands = s.strands ∧
         (∀ j, s'.byte j = s.byte j) ∧ s.DueAt s' t x.tile (.responseArrival ⟨.op r.uid, v, .data []⟩)
       (s.cmd t r.ch r.id = none → s.savedCmd t r.ch r.id = none → ∃ s', answer s' 1) ∧
       (∀ k v c, s.cmd t r.ch r.id = none → s.savedCmd t r.ch r.id = some (k, v, c) → r.abort = true →
         ∃ s', answer s' 0 ∧ SMap.find? s'.saved k = some { v with ops := v.ops ++ [r] }) ∧
       (∀ c, s.cmd t r.ch r.id = some c → r.abort = false → c.stop = none → ∃ s', answer s' 1) ∧
       (∀ c f, s.cmd t r.ch r.id = some c → r.abort = false → c.stop = some f → ∃ s' c', answer s' 0 ∧
         s'.cmd t r.ch r.id = some c' ∧ c'.stop = none ∧ c'.status = c.status ∧
         s.Due s' 0 (.fetchReadIssue t) ∧
         s.Due s' 0 (if f.kind = 3 then .fetchCompletionPoint t r.ch else .fetchTableRead t r.ch)) ∧
       (∀ c, s.cmd t r.ch r.id = some c → r.abort = true → (∀ f, c.stop = some f → f.kind ≠ 3) → ∃ s' c', answer s' 0 ∧
         s'.cmd t r.ch r.id = some c' ∧ c'.aborted = true ∧ c'.status = 1 ∧ c'.stop = none ∧
         s.Due s' 0 (.fetchCompletionPoint t r.ch))))

/-! ## The exchange engine -/

/-- R229, R230, R237, R238: `xopen` asks for the four words of its descriptor; a wrong word is cause 0x0E with its index;
a channel in use gives 1, an out-CB that is unset, taken or of another slot size gives 2; else the channel is binding,
the out-CB's consumer side is taken, the bind flit leaves for the peer with the descriptor's fields and the out-CB's
consumed count, and the strand waits for the reply, which rd receives.
`xclose` of a free channel gives 2; of an open send end it waits while the channel closes. `xstat` reads the status
word. On a tile that stops, the descriptor's words are asked for again (log entry 90), so what they lead to is stated of a
tile that runs. The model's own readings in it: log entry 19. -/
def Obligations.ExchangeInstructionsExecute : Prop :=
  ∀ (s : State) (u : Nat) (x : Strand) (t c n : Nat) (d a ch : Reg), s.focus = u → s.strand u = some x →
    x.place = .slot t c n → x.Clear [a] [d] → x.poison = [] → ch.toNat < 4 →
    let k := s.xchan x.tile ch.toNat
    (x.prog.phase = 0 → ∃ s', exec (.xstat d ch) s = .next s' ∧
      s.RetiredAs s' u t c n (x.setReg d (s.xchStatus x.tile ch.toNat)) (x.ctx.pc + 4)) ∧
    (x.prog.phase = 0 → k.st = 0 → ∃ s', exec (.xclose d ch) s = .next s' ∧
      s.RetiredAs s' u t c n (x.setReg d 2) (x.ctx.pc + 4)) ∧
    (x.prog.phase = 0 → k.st = 1 → ∃ s' y, exec (.xclose d ch) s = .next s' ∧ s'.strand u = some y ∧
      y.run = .waiting (.xclose ch.toNat) ∧ y.ctx = x.ctx ∧ (s'.xchan x.tile ch.toNat).st = 3 ∧
      u ∈ (s'.xchan x.tile ch.toNat).closers ∧ ∀ j, s'.byte j = s.byte j) ∧
    (x.prog.phase = 2 → ∃ s' y, exec (.xclose d ch) s = .next s' ∧ s'.strand u = some y ∧ y.ctx.pc = x.ctx.pc + 4 ∧
      y.ctx.g = (x.setReg d x.prog.val).ctx.g ∧ ∀ j, s'.byte j = s.byte j) ∧
    (x.prog.phase = 0 → (x.reg a).toNat % 8 = 0 → s.vectorMemBusy u x = false →
      ∀ ws s1, wordTargets false u x (x.reg a) 4 s = .ok (ws, s1) → ∃ s' y,
      exec (.xopen d a ch) s = .next s' ∧ s'.strand u = some y ∧ y.run = .stalled ∧ y.prog.phase = 1 ∧
      y.ctx = x.ctx ∧ ∀ j, s'.byte j = s.byte j) ∧
    (x.prog.phase = 1 → ∀ w0 w1 w2 w3 : Word, x.prog.words.map (·.2) = [w0, w1, w2, w3] → x.prog.bad = none →
      let f (lo n : Nat) : Nat := w0.toNat / 2 ^ lo % 2 ^ n
      let runs : Prop := (s.tile x.tile).halted = false ∨ x.ctx.sup = true
      (∀ i, s.xchBadWord x.tile [w0, w1, w2, w3] = some i → x.ctx.tvec ≠ 0 → ∃ s',
        exec (.xopen d a ch) s = .next s' ∧ s'.xchs = s.xchs ∧
        s'.strand u = some (x.trapped 0x0E (BitVec.ofNat 64 i) s.now)) ∧
      (s.xchBadWord x.tile [w0, w1, w2, w3] = none → runs → k.st ≠ 0 → ∃ s' y, exec (.xopen d a ch) s = .next s' ∧
        s'.strand u = some y ∧ y.ctx.pc = x.ctx.pc + 4 ∧ y.ctx.g = (x.setReg d 1).ctx.g ∧ s'.xchs = s.xchs) ∧
      (s.xchBadWord x.tile [w0, w1, w2, w3] = none → runs → k.st = 0 → s.outCbOk x.tile (f 16 4) (f 32 16) = false →
        ∃ s' y, exec (.xopen d a ch) s = .next s' ∧ s'.strand u = some y ∧ y.ctx.pc = x.ctx.pc + 4 ∧
          y.ctx.g = (x.setReg d 2).ctx.g ∧ s'.xchs = s.xchs) ∧
      (s.xchBadWord x.tile [w0, w1, w2, w3] = none → runs → k.st = 0 → ∀ b : Cb, s.cb x.tile (f 16 4) = some b →
        b.consBy = none → b.waitC = [] → 64 * b.size = f 32 16 → ∃ s' y b', exec (.xopen d a ch) s = .next s' ∧
          s'.strand u = some y ∧ y.run = .held ∧ y.ctx = x.ctx ∧ s'.cb x.tile (f 16 4) = some b' ∧
          b'.consBy = some (.xch ch.toNat) ∧ (s'.xchan x.tile ch.toNat).st = 4 ∧
          (s'.xchan x.tile ch.toNat).peer = f 0 12 ∧ (s'.xchan x.tile ch.toNat).shipped = b.consumed ∧
          s.DueAt s' x.tile (f 0 12) (.xchBindArrival
            ⟨x.tile, ch.toNat, f 0 12, f 12 2, f 20 4, f 32 16, b.consumed, x.ctx.lin⟩) ∧
          ∀ j, s'.byte j = s.byte j)) ∧
    (x.prog.phase = 3 → x.nextAt ≤ s.now → ∃ s' y, exec (.xopen d a ch) s = .next s' ∧ s'.strand u = some y ∧
      y.ctx.pc = x.ctx.pc + 4 ∧ y.ctx.g = (x.setReg d x.prog.val).ctx.g ∧ ∀ j, s'.byte j = s.byte j)

/-- R231 to R233: a data flit at an open receive end writes its 64 bytes at their place in the slot that its index names,
and no other; the flit that completes the slot advances the in-CB's produced. A permit at an open send end advances the
channel's landed and consumed counts and never takes one back. R230, R231, R233 to R238: the other steps of the exchange
engine. A bind flit finds the first condition that fails (3 the channel in use, 4 the in-CB unset or its producer side
taken, 5 another slot size, 6 another count) or binds the end; its reply sets the send end up or frees it. A ready slot is
shipped flit by flit, and the last advances shipped. A receive end sends its permit when its refresh is due; after a counter
fault a send end asks for the counts, and the receive end answers with a permit. An error flit puts an end in error, and the
supervisor is told. A close request makes a send end closing, one that is binding when its reply is in; when nothing is on
its way it sends the unbind flit, at which the receive end is free, and then the send end. The model's own readings in it:
log entry 18. -/
def Obligations.ExchangeStepsExecute : Prop :=
  (∀ (s : State) (t ch : Nat), ch < 4 → SMap.find? s.retired t = none →
     (∀ (f : XFlit) (b : Cb), s.memoryOk → s.event = .xchDataFlitArrival f → f.dst = t → f.ch = ch → f.bad = false →
       f.bytes.length = 64 → (s.xchan t ch).sender = false → (s.xchan t ch).st = 2 → (s.xchan t ch).err = false →
       (s.xchan t ch).peer = f.src → s.cb t (s.xchan t ch).h = some b → s.unready t = false →
       s.pairWaits f.src t = false → (s.tile t).remote ≤ s.now →
       let k := cellNo t true (b.base + 64 * b.size * b.prodPos (fullIndex f.index b.produced)) + 64 * f.flit
       (∀ j, j < 64 → s.poisoned (k + j) = false) → ∃ s' b', exec .xchDataFlitArrival s = .next s' ∧
         s'.readBytes k 64 = f.bytes ∧ (∀ j, ¬ within k 64 j → s'.byte j = s.byte j) ∧
         s'.cb t (s.xchan t ch).h = some b' ∧ b'.consumed = b.consumed ∧
         b'.produced = if ((if f.flit = 0 then 0 else (s.xchan t ch).flits) + 1) * 64 = (s.xchan t ch).sbytes
           then b.produced + 1 else b.produced) ∧
     (∀ p : Permit, s.event = .xchPermitArrival p → p.dst = t → p.ch = ch → p.bad = false →
       (s.tile t).halted = false → (s.xchan t ch).sender = true → (s.xchan t ch).st = 1 → (s.xchan t ch).err = false →
       (s.xchan t ch).resync = false ∨ p.resync = false →
       ∃ s', exec .xchPermitArrival s = .next s' ∧ (∀ j, s'.byte j = s.byte j) ∧
         (s'.xchan t ch).landed =
           (if (p.landed - (s.xchan t ch).landed).toNat < 2 ^ 31 then p.landed else (s.xchan t ch).landed) ∧
         (s'.xchan t ch).consumed =
           (if (p.consumed - (s.xchan t ch).consumed).toNat < 2 ^ 31 then p.consumed else (s.xchan t ch).consumed) ∧
         (s'.xchan t ch).shipped = (s.xchan t ch).shipped ∧ (s'.xchan t ch).st = 1)) ∧
  (∀ (s : State) (t ch : Nat), ch < 4 → SMap.find? s.retired t = none →
     let x := s.xchan t ch
     let open_ : Prop := s.unready t = false ∧ s.pairWaits x.peer t = false
     (∀ b : Bind, s.event = .xchBindArrival b → b.dst = t → b.pch = ch → s.unready t = false →
       ¬ ((x.st = 2 ∨ x.st = 3) ∧ x.sender = false ∧ s.real x.peer = s.real b.src ∧ x.pch = b.ch ∧ x.h = b.ih) →
       let reply (s' : State) (r : Nat) : Prop := exec .xchBindArrival s = .next s' ∧ (∀ j, s'.byte j = s.byte j) ∧
         s.DueAt s' t b.src (.xchBindReply ⟨b.src, t, b.ch, r, ((s.cb t b.ih).map Cb.count).getD 0,
           ((s.cb t b.ih).map Cb.produced).getD 0, ((s.cb t b.ih).map Cb.consumed).getD 0, false⟩)
       (x.st ≠ 0 → ∃ s', reply s' 3 ∧ s'.xchs = s.xchs) ∧
       (x.st = 0 → s.cb t b.ih = none → ∃ s', reply s' 4 ∧ s'.xchs = s.xchs) ∧
       (∀ c : Cb, x.st = 0 → s.cb t b.ih = some c →
         (c.prodBy ≠ none → ∃ s', reply s' 4 ∧ s'.xchs = s.xchs) ∧
         (c.prodBy = none → 64 * c.size ≠ b.sbytes → ∃ s', reply s' 5 ∧ s'.xchs = s.xchs) ∧
         (c.prodBy = none → 64 * c.size = b.sbytes → c.produced ≠ b.consumed → ∃ s', reply s' 6 ∧ s'.xchs = s.xchs) ∧
         (c.prodBy = none → c.waitP = [] → 64 * c.size = b.sbytes → c.produced = b.consumed → ∃ s' c', reply s' 0 ∧
           s'.cb t b.ih = some c' ∧ c'.prodBy = some (.xch ch) ∧ (s'.xchan t ch).st = 2 ∧
           (s'.xchan t ch).sender = false ∧ (s'.xchan t ch).peer = b.src ∧ (s'.xchan t ch).pch = b.ch ∧
           (s'.xchan t ch).h = b.ih ∧ (s'.xchan t ch).sbytes = b.sbytes ∧
           s.Due s' (s.regs t).xrefresh (.xchRefreshTimer t ch (s.now + (s.regs t).xrefresh))))) ∧
     (∀ r : BindReply, s.event = .xchBindReply r → r.tile = t → r.ch = ch → x.st = 4 → s.unready t = false →
       r.bad = true → ∃ s',
       exec .xchBindReply s = .next s' ∧ s'.xchs = s.xchs ∧ s'.strands = s.strands ∧ (∀ j, s'.byte j = s.byte j) ∧
       s.DueAt s' t x.peer (.xchBindArrival ⟨t, ch, x.peer, x.pch, x.ih, x.sbytes, x.shipped, x.lin⟩)) ∧
     (∀ (r : BindReply) (y : Strand), s.event = .xchBindReply r → r.tile = t → r.ch = ch → x.st = 4 →
       s.unready t = false → r.bad = false → s.strand x.opener = some y → y.run = .held → y.tile = t →
       y.prog.phase = 2 → y.prog.val = BitVec.ofNat 64 ch →
       ∃ s' z, exec .xchBindReply s = .next s' ∧ s'.strand x.opener = some z ∧ z.run = .stalled ∧ z.prog.phase = 3 ∧
         z.prog.val = BitVec.ofNat 64 r.result ∧ z.nextAt = s.now + 4 ∧ z.ctx = y.ctx ∧ (∀ j, s'.byte j = s.byte j) ∧
         (r.result = 0 → s.Due s' 1 (.xchSlotStart t) ∧
           (x.closers = [] → x.flits = 0 → s'.xchan t ch =
             { x with st := 1, count := r.count, shipped := r.produced, landed := r.produced, consumed := r.consumed,
                      stamp := s.now + 1 }) ∧
           (x.closers ≠ [] ∨ x.flits ≠ 0 → (s'.xchan t ch).st = 3)) ∧
         (r.result ≠ 0 → s'.xchan t ch = XChan.reset)) ∧
     (∀ (c : Cb) (f : Nat), s.event = .xchSlotStart t → (s.xch t).freeAt ≤ s.now → (s.tile t).halted = false →
       ((s.xch t).sending = some (ch, f) ∨ ((s.xch t).sending = none ∧ f = 0 ∧ ch = ((s.xch t).rr + 1) % 4 ∧
         s.slotReady t ch = true ∧ s.gone x.peer = false)) →
       s.cb t x.h = some c → s.inError t x.h = false →
       let k := cellNo t true (c.base + 64 * c.size * c.consPos x.shipped) + 64 * f
       let last : Bool := decide (64 * (f + 1) = x.sbytes)
       s.anyPoison k 64 = false → ∃ s', exec .xchSlotStart s = .next s' ∧ (∀ j, s'.byte j = s.byte j) ∧
         s.DueAt s' t x.peer (.xchDataFlitArrival
           ⟨t, x.peer, x.pch, f, BitVec.ofNat 32 (x.shipped.toNat % 2 ^ 21), last, s.readBytes k 64, false⟩) ∧
         (s'.xch t).sending = (if last then none else some (ch, f + 1)) ∧
         (s'.xchan t ch).shipped = (if last then x.shipped + 1 else x.shipped) ∧ s.Due s' 1 (.xchSlotStart t)) ∧
     (∀ (c : Cb) (stamp : Nat), x.sender = false → s.cb t x.h = some c →
       (s.event = .xchRefreshTimer t ch stamp → x.stamp = stamp → x.st = 2 ∨ x.st = 3 → x.err = false →
         (s.tile t).halted = false → ∃ s', exec .xchRefreshTimer s = .next s' ∧ (∀ j, s'.byte j = s.byte j) ∧
         s.DueAt s' t x.peer (.xchPermitArrival ⟨x.peer, x.pch, c.produced, c.consumed, false, false⟩) ∧
         s.Due s' (s.regs t).xrefresh (.xchRefreshTimer t ch (s.now + (s.regs t).xrefresh))) ∧
       (s.event = .xchResyncFlitArrival t ch → open_ → x.st ≠ 0 → ∃ s', exec .xchResyncFlitArrival s = .next s' ∧
         s'.xchan t ch = { x with stamp := s.now + (s.regs t).xrefresh } ∧ (∀ j, s'.byte j = s.byte j) ∧
         s.DueAt s' t x.peer (.xchPermitArrival ⟨x.peer, x.pch, c.produced, c.consumed, true, false⟩) ∧
         s.Due s' (s.regs t).xrefresh (.xchRefreshTimer t ch (s.now + (s.regs t).xrefresh)))) ∧
     (s.event = .xchCounterParityError t ch → x.sender = true → x.st = 1 → x.err = false → (s.tile t).halted = false →
       ∃ s', exec .xchCounterParityError s = .next s' ∧ s'.xchan t ch = { x with resync := true } ∧
         (∀ j, s'.byte j = s.byte j) ∧
         (x.resync = false ∨ (∃ f, (s.xch t).sending = some (ch, f)) → s.Due s' 1 (.xchCounterParityError t ch)) ∧
         (x.resync = true → (∀ f, (s.xch t).sending ≠ some (ch, f)) →
           s.DueAt s' t x.peer (.xchResyncFlitArrival x.peer x.pch))) ∧
     (∀ ek, s.event = .xchErrorFlitArrival t ch ek → open_ → x.st = 1 → x.err = false → x.sender = true → x.peer < 2 ^ 12 →
       x.pch < 4 → x.h < 16 → ∃ s',
       exec .xchErrorFlitArrival s = .next s' ∧ s'.xchan t ch = { x with err := true, ek := ek } ∧
       (∀ j, s'.byte j = s.byte j) ∧ s.DueAt s' t (Config.tile0 (Config.dieOf t)) (.messageRingWrite (Config.dieOf t)
         (some ⟨BitVec.ofNat 64 (t + ch * 2 ^ 12 + ek.toNat * 2 ^ 16 + x.shipped.toNat * 2 ^ 32), 0, 0,
           BitVec.ofNat 64 (t + 2 * 2 ^ 56)⟩) false)) ∧
     (s.event = .xchCloseRequestArrival t ch → open_ → x.st = 1 → x.sender = true → x.err = false →
       (∀ f, (s.xch t).sending ≠ some (ch, f)) → ∃ s', exec .xchCloseRequestArrival s = .next s' ∧
         (s'.xchan t ch).st = 3 ∧ (∀ j, s'.byte j = s.byte j) ∧
         (x.landed = x.shipped → s.DueAt s' t x.peer (.xchUnbindArrival x.peer x.pch)) ∧
         (x.landed ≠ x.shipped → s'.agenda = s.agenda)) ∧
     (s.event = .xchCloseRequestArrival t ch → open_ → x.st = 4 → ∃ s', exec .xchCloseRequestArrival s = .next s' ∧
       s'.xchan t ch = { x with flits := 1 } ∧ ∀ j, s'.byte j = s.byte j) ∧
     (s.event = .xchUnbindArrival t ch → open_ → x.sender = false → x.st ≠ 0 → x.closers = [] → ∃ s',
       exec .xchUnbindArrival s = .next s' ∧ s'.xchan t ch = XChan.reset ∧ (∀ j, s'.byte j = s.byte j) ∧
       s.DueAt s' t x.peer (.xchUnbindReply x.peer x.pch)) ∧
     (∀ u y, s.event = .xchUnbindReply t ch → open_ → x.st = 3 → x.closers = [u] → s.strand u = some y →
       (∃ k, y.run = .waiting (.xclose k)) → ∃ s' z,
       exec .xchUnbindReply s = .next s' ∧ s'.xchan t ch = XChan.reset ∧ (∀ j, s'.byte j = s.byte j) ∧
       s'.strand u = some z ∧ z.run = .ready ∧ z.ctx = y.ctx ∧ z.prog.phase = 2 ∧
       z.prog.val = if x.err then 1 else 0))

/-! ## Traps, privilege and the control and status registers -/

/-- R93, R94, R96, R257, R258, R259: `trap` is cause 0x0C with its code, `brk` cause 0x0B with 0, `svc` cause 0x10 with
its code. The trap registers hold cause, value and pc. With a `tvec` the handler runs, but for `svc`; else, from user
mode, and for `svc`, the strand waits for the supervisor, and its die's message engine is sent the message of R263; a
supervisor strand without a `tvec` stops its core, and the host gets the stop record and a signal. The model's own
readings in it: log entry 18. -/
def Obligations.SystemTraps : Prop :=
  ∀ (s : State) (u : Nat) (x : Strand) (t c n : Nat), s.Issuing u x t c n →
  ∀ (i : Instr) (cause : Nat) (v : Word),
    (∃ k, i = .trap k ∧ cause = 0x0C ∧ v = k.setWidth 64) ∨ (i = .brk ∧ cause = 0x0B ∧ v = 0) ∨
      (∃ k, i = .svc k ∧ cause = 0x10 ∧ v = k.setWidth 64) →
    let y : Ctx := { x.ctx with tcause := BitVec.ofNat 8 cause, tval := v, tpc := x.ctx.pc }
    let d := Config.dieOf x.tile
    (cause ≠ 0x10 → x.ctx.tvec ≠ 0 → ∃ s', exec i s = .next s' ∧ s.TrappedAs s' u t c n x cause v) ∧
    (cause = 0x10 ∨ (x.ctx.sup = false ∧ x.ctx.tvec = 0) → ∃ s' z, exec i s = .next s' ∧ s'.strand u = some z ∧
      z.ctx = y ∧ z.run = .waiting .supervisor ∧ s.Due s' 1 (.seat t c u) ∧
      (∀ w, w ≠ u → s'.strand w = s.strand w) ∧ (∀ j, s'.byte j = s.byte j) ∧
      (x.tile < Config.tiles → SMap.find? s.retired (Config.tile0 d) = none →
        s.Due s' (max 12 ((s.pair x.tile (Config.tile0 d)).last + 1 - s.now))
          (.messageRingWrite d (some ⟨BitVec.ofNat 64 (x.ctx.sid.toNat + cause * 2 ^ 40 + c * 2 ^ 48),
            BitVec.ofNat 64 (x.ctx.pc.toNat + x.ctx.lin.toNat * 2 ^ 48), v, BitVec.ofNat 64 (x.tile + 2 ^ 56)⟩) false))) ∧
    (cause ≠ 0x10 → x.ctx.sup = true → x.ctx.tvec = 0 → ∃ s' z, exec i s = .next s' ∧ s'.strand u = some z ∧
      z.ctx = y ∧ (s'.core x.tile 0).stopped = true ∧ s'.msix = s.msix ++ [1] ∧
      SMap.find? s'.mailbox d = some [BitVec.ofNat 64 d, BitVec.ofNat 64 (x.ctx.sid.toNat + cause * 2 ^ 32),
        x.ctx.pc.setWidth 64, v, 0, 0, 0, 0] ∧
      (∀ w, w ≠ u → s'.strand w = s.strand w) ∧ ∀ j, s'.byte j = s.byte j)

/-- R41, R108, R273, R274: every supervisor-only instruction in user mode is cause 0x01 with the instruction word as
value, and does nothing else. `tret` in supervisor mode goes on at `tpc`; a misaligned `tpc` is cause 0x02. -/
def Obligations.PrivilegedInstructions : Prop :=
  ∀ (s : State) (u : Nat) (x : Strand) (t c n : Nat), s.Issuing u x t c n → 
    (∀ i, supervisorOnly i = true → x.ctx.sup = false → x.ctx.tvec ≠ 0 →
      ∃ s', exec i s = .next s' ∧ s.TrappedAs s' u t c n x 1 (s.word.setWidth 64)) ∧
    (x.ctx.sup = true → x.ctx.tpc.toNat % 4 = 0 →
      ∃ s', exec .tret s = .next s' ∧ s.RetiredAs s' u t c n x x.ctx.tpc) ∧
    (x.ctx.sup = true → x.ctx.tpc.toNat % 4 ≠ 0 → x.ctx.tvec ≠ 0 →
      ∃ s', exec .tret s = .next s' ∧ s.TrappedAs s' u t c n x 2 (x.ctx.tpc.setWidth 64))

/-- R85, R108 to R110, R281, R282: `csrr` reads each CSR of the user map, and, in supervisor mode, its tile's copy of a
supervisor CSR and `modnum`. `csrw`, `csrs` and `csrc` make the new value reg(a), old OR reg(a), old AND NOT reg(a): a
user CSR takes it at once (`pinhold` by an event of this cycle), a supervisor CSR of the own tile by the event of its
number. At another tile of the die they send a request there: `csrr` leaves rd pending, a write keeps the slot until
it is answered. R85, R281 to R283: the events that store a CSR. A supervisor CSR of a tile keeps the value, cut to its
field and moved to the nearest limit; no other CSR of any tile and no byte changes. A `pinhold` of 0 is kept as 1. A
request at another tile answers with the CSR's value, or makes the write there, and its answer leaves 4 cycles later.
The model's own readings in it: log entry 18. -/
def Obligations.CsrsReadAndWrite : Prop :=
  (∀ (s : State) (u : Nat) (x : Strand) (t c n : Nat), s.Issuing u x t c n →
     (∀ (d : Reg) (k : BitVec 14) (v : Word), x.Clear [] [d] →
       (k.toNat, v) ∈ s.userReadings x ∨
         (x.ctx.sup = true ∧ 0x800 ≤ k.toNat ∧ k.toNat < 0x810 ∧ s.csrTile x k.toNat = x.tile ∧
           v = (s.regs x.tile).csr k.toNat) ∨ (x.ctx.sup = true ∧ k.toNat = 0x810 ∧ v = s.modnum.setWidth 64) →
       ∃ s', exec (.csrr d k) s = .next s' ∧ s.RetiredAs s' u t c n (x.setReg d v) (x.ctx.pc + 4)) ∧
     (∀ (a : Reg) (k : BitVec 14) (i : Instr) (old v : Word), x.Clear [a] [] →
       (i = .csrw a k ∧ v = x.reg a) ∨ (i = .csrs a k ∧ v = old ||| x.reg a) ∨
         (i = .csrc a k ∧ v = old &&& ~~~(x.reg a)) →
       (∀ f, (k.toNat, old) ∈ s.userReadings x → (k.toNat, f) ∈ userWrites v →
         ∃ s', exec i s = .next s' ∧ s.RetiredAs s' u t c n { x with ctx := f x.ctx } (x.ctx.pc + 4)) ∧
       (k.toNat = 0x42 → old = x.ctx.phold.setWidth 64 → ∃ s', exec i s = .next s' ∧
         s.AccessedAs s' u t c n (x.finished (x.ctx.pc + 4) s.now) (fun _ => False) ∧
         s.Due s' 0 (.pinholdWrite (some u) x.tile v)) ∧
       (x.ctx.sup = true → 0x800 ≤ k.toNat → k.toNat < 0x810 → s.csrTile x k.toNat = x.tile →
         old = (s.regs x.tile).csr k.toNat → ∃ s', exec i s = .next s' ∧
         s.AccessedAs s' u t c n (x.finished (x.ctx.pc + 4) s.now) (fun _ => False) ∧
         s.Due s' 0 (csrEvent x.tile k.toNat v))) ∧
     (∀ (d : Reg) (k : BitVec 14), x.ctx.sup = true → 0x800 ≤ k.toNat → k.toNat < 0x810 →
       s.csrTile x k.toNat ≠ x.tile → s.csrTile x k.toNat < Config.tiles → Config.dieOf (s.csrTile x k.toNat) = Config.dieOf x.tile →
       SMap.find? s.retired (s.csrTile x k.toNat) = none →
       let tile := s.csrTile x k.toNat
       let wait := max 12 ((s.pair x.tile tile).last + 1 - s.now)
       (x.Clear [] [d] → x.pending.length < 8 → ∃ s', exec (.csrr d k) s = .next s' ∧
         s.AccessedAs s' u t c n ((x.asking d).finished (x.ctx.pc + 4) s.now) (fun _ => False) ∧
         s.Due s' wait (.remoteCsrRequest ⟨tile, k.toNat, 0, 0, u, d.toNat, x.ids⟩)) ∧
       (∀ (i : Instr) (op : Nat), (i = .csrw d k ∧ op = 1) ∨ (i = .csrs d k ∧ op = 2) ∨ (i = .csrc d k ∧ op = 3) →
         x.Clear [d] [] → ∃ s' y, exec i s = .next s' ∧ s.AccessedAs s' u t c n y (fun _ => False) ∧
           y.run = .held ∧ y.prog.phase = 1 ∧ y.ctx = x.ctx ∧
           s.Due s' wait (.remoteCsrRequest ⟨tile, k.toNat, op, x.reg d, u, 0, 0⟩)))) ∧
  (∀ (s : State),
     (∀ (t n : Nat) (v : Word), t < Config.tiles → 0x800 ≤ n → n < 0x810 → s.event = csrEvent t n v →
       ∃ s', exec (csrEvent t n v).instr s = .next s' ∧ ((s'.regs t).csr n).toNat = csrKept t n v ∧
         (∀ m, 0x800 ≤ m → m < 0x810 → m ≠ n → (s'.regs t).csr m = (s.regs t).csr m) ∧
         (∀ r, r ≠ t → s'.regs r = s.regs r) ∧
         (n ≠ 0x800 ∧ n ≠ 0x801 ∨ (s.tile t).hold = [] ∧ (∀ c, (s.core t c).inSlot = []) →
           ∀ j, s'.byte j = s.byte j)) ∧
     (∀ (u t : Nat) (v : Word) (x : Strand), s.event = .pinholdWrite (some u) t v → s.strand u = some x →
       ∃ s', exec .pinholdWrite s = .next s' ∧ s' = { s with strands := s'.strands } ∧
         (∀ w, w ≠ u → s'.strand w = s.strand w) ∧
         s'.strand u = some { x with ctx := { x.ctx with phold := BitVec.ofNat 32 (max 1 (v.toNat % 2 ^ 32)) } }) ∧
     (∀ (r : CsrReq) (x : Strand), s.event = .remoteCsrRequest r → s.strand r.uid = some x →
       SMap.find? s.retired r.tile = none →
       ∃ s', exec .remoteCsrRequest s = .next s' ∧ s' = { s with agenda := s'.agenda, seq := s'.seq } ∧
         (r.op = 0 → s.Due s' 4 (.inject r.tile x.tile
           (.resp ⟨.reg r.uid r.id r.reg false, 0, .data (bytesOf 8 ((s.regs r.tile).csr r.num))⟩))) ∧
         (r.op ≠ 0 → s.Due s' 4 (.inject r.tile x.tile (.opAck r.uid 0))) ∧
         (r.op = 1 → s.Due s' 0 (csrEvent r.tile r.num r.val)) ∧
         (r.op = 2 → s.Due s' 0 (csrEvent r.tile r.num ((s.regs r.tile).csr r.num ||| r.val))) ∧
         (r.op = 3 → s.Due s' 0 (csrEvent r.tile r.num ((s.regs r.tile).csr r.num &&& ~~~r.val)))))

/-! ## Memory maintenance, partitions and contexts -/

/-- R51, R54, R55, R61 to R63, R87, R272: the events of translation and of the memories. The entry of a walk ends it or
takes it a level on: an invalid entry is cause 4, as is an entry whose read is refused otherwise than for unreadable data
(log entry 23); a leaf without the permission is cause 5, unreadable data cause 7, and a good leaf enters the TLB as the
most recently used; a walk whose table was invalidated starts again. A fill puts its line into the instruction cache, and
the strands that wait for it go on or meet its fault; one that an invalidation has overtaken does nothing. A parity error
drops a line, an uncorrectable error found by patrol scrub poisons its 64-byte sector, or, where the cache holds that dirty,
the memory behind it, and a refresh changes nothing. No byte of memory changes. The model's own readings in it: log entries
10, 23, 52. -/
def Obligations.MemoryEventsExecute : Prop :=
  ∀ (s : State),
    (∀ (id : Nat) (ans : Answer) (w : Walk) (u : Nat) (x : Strand), s.event = .walkEntryResponse id ans →
      SMap.find? s.walks id = some w → (w.who = .strand u ∨ w.who = .fetch u) → s.strand u = some x →
      let ended (s' : State) (f : Option WalkFault) : Prop :=
        exec .walkEntryResponse s = .next s' ∧ s'.strand u = some { x with walking := false, fault := f } ∧
        (∀ v, v ≠ u → s'.strand v = s.strand v) ∧ ∀ j, s'.byte j = s.byte j
      (w.stale = true → ∃ s', exec .walkEntryResponse s = .next s' ∧ s'.strands = s.strands ∧
        SMap.find? s'.walks id = some { w with level := 0, stale := false } ∧ ∀ j, s'.byte j = s.byte j) ∧
      (w.stale = false → ans = .fail 7 → ∃ s', ended s' (some ⟨w.va, 7⟩)) ∧
      (∀ k, w.stale = false → ans = .fail k → k ≠ 7 → ∃ s', ended s' (some ⟨w.va, 4⟩)) ∧
      (∀ bs, w.stale = false → ans = .data bs → (wordOf bs).getLsbD 0 = false → ∃ s', ended s' (some ⟨w.va, 4⟩)) ∧
      (∀ bs d k, w.stale = false → ans = .data bs → pteOf (wordOf bs) w.level w.va.toNat = .pointer d k → ∃ s',
        exec .walkEntryResponse s = .next s' ∧ s'.strands = s.strands ∧
        SMap.find? s'.walks id = some { w with level := w.level + 1 } ∧ ∀ j, s'.byte j = s.byte j) ∧
      (∀ bs e, w.stale = false → ans = .data bs → pteOf (wordOf bs) w.level w.va.toNat = .leaf e →
        (w.perm.within e = false → ∃ s', ended s' (some ⟨w.va, 5⟩)) ∧
        (w.perm.within e = true → w.fn = none →
          s.locate w.tile (.md (s.partOfTile w.tile) e.dom (e.offset w.va.toNat)) ≠ none →
          ∃ s', ended s' none ∧ (s'.tile w.tile).tlb = (e :: (s.tile w.tile).tlb.filter (· != e)).take 512))) ∧
    (∀ (t fill : Nat) (ans : Answer), s.event = .icacheFill t fill ans → SMap.find? (s.tile t).fills fill = none →
      exec .icacheFill s = .next s) ∧
    (∀ (t fill : Nat) (i : IFill) (ans : Answer), s.event = .icacheFill t fill ans →
      SMap.find? (s.tile t).fills fill = some i →
      ∃ s', exec .icacheFill s = .next s' ∧ (∀ j, s'.byte j = s.byte j) ∧
        (∀ bs, ans = .data bs → SMap.find? (s'.tile t).icache i.line = some ⟨i.dom, i.giant, bs⟩) ∧
        ∀ u x, s.strand u = some x → s'.strand u = some (
          if x.tile = t ∧ x.walking = true ∧ x.ctx.pc.toNat / 64 = i.line then
            match ans with
            | .data _ => { x with walking := false }
            | .fail c => { x with walking := false, fault := some ⟨x.ctx.pc.setWidth 64, c⟩ }
          else x)) ∧
    (∀ t line, s.event = .icacheParityRefill t line → ∃ s', exec .icacheParityRefill s = .next s' ∧
      s' = { s with tiles := s'.tiles } ∧ (s'.tile t).icache = SMap.erase (s.tile t).icache line) ∧
    (∀ t sec bad, s.event = .patrolScrub t sec bad → s.lentAt t sec = none → 64 * sec < Config.memSize t → ∃ s', exec .patrolScrub s = .next s' ∧
      s' = { s with poison := s'.poison, backing := s'.backing } ∧
      (let q := cellNo t false (64 * sec)
       (s.regs t).scrubrate ≠ 0 → bad = true →
        (SMap.find? s.backing q = none → ∀ j, j < 64 → s'.poisoned (q + j) = true) ∧
        (∀ b, SMap.find? s.backing q = some b → s'.poison = s.poison ∧
          SMap.find? s'.backing q = some (b.1, true))) ∧
      ((s.regs t).scrubrate = 0 ∨ bad = false → s' = s)) ∧
    (∀ t, s.event = .dramRefresh t → exec .dramRefresh s = .next s)

/-- R57, R273, R275, R276: `tlbi` and `tlbia` send a flit to every tile of the partition, the issuer acting in this cycle
and the k-th other from the cycle 1 + k, and wait; a flit drops the entries of the page, or all, with the instruction-cache
lines of the same, makes the tile's walks start again and its fills bring nothing in, and is acknowledged; after the last
the instruction retires. `cwb` and `cinv` act on a range of a tile's memory: a misaligned range is
cause 0x02, one outside memory cause 0x03, an empty one retires; else the request goes to the tile, a line in a cycle.
`cwb` changes no byte; `cinv` of a dirty sector shows the memory behind it again. The model's own readings in it: log
entries 18, 35, 40. -/
def Obligations.InvalidationsExecute : Prop :=
  ∀ (s : State) (u : Nat) (x : Strand) (t c n : Nat), s.focus = u → s.strand u = some x → x.place = .slot t c n →
    x.ctx.sup = true → x.poison = [] → x.pending = [] →
    (∀ (i : Instr) (a b : Reg) (kind : Nat) (va : Word),
      (i = .tlbi a b ∧ kind = 1 ∧ va = x.reg a) ∨ (i = .tlbia b ∧ kind = 2 ∧ va = 0) → x.prog.phase = 0 →
      let tiles := s.tilesOf ((x.reg b).toNat % 64)
      (tiles = [] → ∃ s', exec i s = .next s' ∧ s.RetiredAs s' u t c n x (x.ctx.pc + 4)) ∧
      (tiles ≠ [] → ∃ s' y p, exec i s = .next s' ∧ s'.strand u = some y ∧ y.run = .held ∧ y.prog.phase = 4 ∧
        y.ctx = x.ctx ∧ s'.proto s.uids = some p ∧ p.kind = kind ∧ p.va = va ∧ p.acks = 0 ∧ p.n = tiles.length ∧
        (∀ k r, (tiles.filter (· != x.tile))[k]? = some r →
          s.Due s' (1 + k) (.inject x.tile r (.tlbi ⟨s.uids, r⟩))) ∧
        (x.tile ∈ tiles → s.Due s' 0 (.tlbiFlitArrival ⟨s.uids, x.tile⟩)) ∧
        ∀ j, s'.byte j = s.byte j)) ∧
    (∀ (i : Instr) (a b : Reg) (inval : Bool), i = (if inval then .cinv a b else .cwb a b) → x.prog.phase = 0 →
      let off := (x.reg a).toNat % 2 ^ 48
      let tile := (x.reg a).toNat / 2 ^ 48 % 2 ^ 12
      let len := (x.reg b).toNat
      let bad : Prop := 2 ^ 60 ≤ (x.reg a).toNat ∨ Config.tiles ≤ tile ∨ Config.memSize tile < off + len
      (off % 64 ≠ 0 ∨ len % 64 ≠ 0 → x.ctx.tvec ≠ 0 → ∃ s', exec i s = .next s' ∧
        s.TrappedAs s' u t c n x 2 (x.reg a)) ∧
      (off % 64 = 0 → len % 64 = 0 → bad → x.ctx.tvec ≠ 0 → ∃ s', exec i s = .next s' ∧
        s.TrappedAs s' u t c n x 3 (x.reg a)) ∧
      (off % 64 = 0 → len % 64 = 0 → ¬ bad → len = 0 → ∃ s', exec i s = .next s' ∧
        s.RetiredAs s' u t c n x (x.ctx.pc + 4)) ∧
      (off % 64 = 0 → len % 64 = 0 → ¬ bad → len ≠ 0 → Config.dieOf tile = Config.dieOf x.tile →
        SMap.find? s.retired tile = none → ∃ s' y, exec i s = .next s' ∧ s'.strand u = some y ∧ y.run = .held ∧
        y.prog.phase = 1 ∧ y.ctx = x.ctx ∧ (∀ j, s'.byte j = s.byte j) ∧
        s.Due s' (max 12 ((s.pair x.tile tile).last + 1 - s.now)) (.cacheOpArrival ⟨tile, off, len, inval, u⟩))) ∧
    (∀ (i : Instr) (a b : Reg), i = .tlbi a b ∨ i = .tlbia b ∨ i = .cwb a b ∨ i = .cinv a b → x.prog.phase = 2 →
      ∃ s' y, exec i s = .next s' ∧ s'.strand u = some y ∧ y.ctx.pc = x.ctx.pc + 4 ∧ y.ctx.g = x.ctx.g ∧
        y.run = .ready ∧ ∀ j, s'.byte j = s.byte j) ∧
    (∀ (r : Round) (p : Proto), s.event = .tlbiFlitArrival r → s.proto r.id = some p →
      let q := s.real r.tile
      let covers (line : Nat) (giant : Bool) : Bool := p.kind != 1 ||
        line * 64 / (if giant then 2 ^ 30 else 2 ^ 21) == p.va.toNat / (if giant then 2 ^ 30 else 2 ^ 21)
      ∃ s', exec .tlbiFlitArrival s = .next s' ∧ s'.mem = s.mem ∧
        (∀ v y, s.strand v = some y → ∃ z, s'.strand v = some z ∧ z = { y with walking := z.walking }) ∧
        (s'.tile q).tlb = (if p.kind = 1 then (s.tile q).tlb.filter (fun e => !(e.holds p.va.toNat)) else []) ∧
        (s'.tile q).icache = (s.tile q).icache.filter (fun l => !(covers l.1 l.2.giant)) ∧
        (s'.tile q).fills = (s.tile q).fills.filter (fun f => !(covers f.2.line f.2.giant)) ∧
        (∀ w ∈ s'.walks, w.2.tile = q → w.2.stale = true) ∧
        (r.tile = p.lead → s.Due s' 0 (.responseArrival ⟨.round r.id, 0, .data []⟩)) ∧
        (r.tile ≠ p.lead → s.Due s' 4 (.inject r.tile p.lead (.roundAck r.id)))) ∧
    (∀ (id : Nat) (p : Proto), s.event = .responseArrival ⟨.round id, 0, .data []⟩ → s.proto id = some p →
      p.kind ≠ 3 → p.n ≤ p.acks + 1 → p.uid = u → x.run = .held → x.prog.phase = 4 →
      x.prog.val = BitVec.ofNat 64 id → ∃ s' y, exec .responseArrival s = .next s' ∧ s'.strand u = some y ∧
        y.run = .ready ∧ y.prog.phase = 2 ∧ y.ctx = x.ctx ∧ ∀ j, s'.byte j = s.byte j) ∧
    (∀ r : CacheOp, s.event = .cacheOpArrival r → r.uid = u → s.memoryOk → SMap.find? s.retired r.tile = none →
      ∃ s', exec .cacheOpArrival s = .next s' ∧ (r.inval = false → ∀ j, s'.byte j = s.byte j) ∧
        (512 < r.off % 512 + r.len → s.Due s' 1 (.cacheOpArrival
          { r with off := r.off + (512 - r.off % 512), len := r.len - (512 - r.off % 512) })) ∧
        (∀ l bs bad, r.inval = true → r.len = 64 → r.off % 64 = 0 → r.off < 2 ^ 32 →
          let q := cellNo r.tile false r.off
          let bit : BitVec 8 := 1#8 <<< (r.off / 64 % 8)
          (SMap.getD s.cache (cacheSet q) []).find? (fun y => y.line == r.off / 512) = some l →
          l.valid &&& bit ≠ 0 → l.dirty &&& bit ≠ 0 → SMap.find? s.backing q = some (bs, bad) → bs.length = 64 →
          s'.readBytes q 64 = bs ∧ ∀ j, ¬ within q 64 j → s'.byte j = s.byte j))

/-- R56, R57, R277: `domset` reads its descriptor, two words and then the list; a wrong length or record gives 1, an owner's
range into the lent-slot pool 2, a tile that is not the partition's, or a number that is no partition's, 3. Else it waits
for another `domset` of the partition, sends every tile a hold flit, and waits. After the last acknowledgement of the holds
each tile is sent the descriptor; a tile drops the domain's instruction-cache lines and releases the packets it held; after
the last acknowledgement the partition has the descriptor, and rd is 0. The model's own readings in it: log entry 19. -/
def Obligations.DomsetExecutes : Prop :=
  (∀ ws d, descOf ws = some d → ws.length = 2 + ((ws.headD 0).toNat % 2 ^ 11 + 3) / 4 →
    1 ≤ d.list.length ∧ d.list.length ≤ 1024 ∧ d.list.Nodup ∧ d.size = (ws.getD 0 0).toNat / 2 ^ 16 ∧ d.base = (ws.getD 1 0).toNat) ∧
  (∀ (d : Desc) (a b : Nat) (p : Nat × Nat), d.list.Nodup →
    locateIn d a = some p → locateIn d b = some p → a = b) ∧
  ∀ (s : State) (u : Nat) (x : Strand) (t c n : Nat) (d a b : Reg), s.focus = u → s.strand u = some x →
    x.place = .slot t c n → x.ctx.sup = true → x.poison = [] → x.pending = [] →
    let part := (x.reg a).toNat / 2 ^ 8 % 64
    let dom := (x.reg a).toNat % 64
    let ended (v : Word) : Prop := ∃ s' y, exec (.domset d a b) s = .next s' ∧ s'.strand u = some y ∧ y.run = .ready ∧
      y.ctx.pc = x.ctx.pc + 4 ∧ y.ctx.g = (x.setReg d v).ctx.g ∧ s'.descs = s.descs ∧ ∀ j, s'.byte j = s.byte j
    (x.prog.phase = 0 → (x.reg b).toNat % 8 ≠ 0 → x.ctx.tvec ≠ 0 → ∃ s', exec (.domset d a b) s = .next s' ∧
      s.TrappedAs s' u t c n x 2 (x.reg b)) ∧
    (x.prog.phase = 0 → (x.reg b).toNat % 8 = 0 → s.vectorMemBusy u x = false →
      ∀ ws s1, wordTargets true u x (x.reg b) 2 s = .ok (ws, s1) → ∃ s' y,
      exec (.domset d a b) s = .next s' ∧ s'.strand u = some y ∧ y.run = .stalled ∧ y.prog.phase = 1 ∧ y.ctx = x.ctx) ∧
    (∀ w0 w1, x.prog.phase = 1 → x.prog.words.map (·.2) = [w0, w1] → x.prog.bad = none →
      w0.toNat % 2 ^ 11 = 0 ∨ 1024 < w0.toNat % 2 ^ 11 → ended 1) ∧
    (∀ w0 w1, x.prog.phase = 1 → x.prog.words.map (·.2) = [w0, w1] → x.prog.bad = none → 1 ≤ w0.toNat % 2 ^ 11 →
      w0.toNat % 2 ^ 11 ≤ 1024 → s.vectorMemBusy u x = false → ∀ ws s1,
      wordTargets true u x (x.reg b + 16) ((w0.toNat % 2 ^ 11 + 3) / 4) s = .ok (ws, s1) → ∃ s' y,
      exec (.domset d a b) s = .next s' ∧ s'.strand u = some y ∧ y.prog.phase = 3 ∧ y.prog.words = x.prog.words ∧
        y.ctx = x.ctx) ∧
    (∀ ws, x.prog.phase = 3 → x.prog.words.map (·.2) = ws → x.prog.bad = none →
      ws.length = 2 + ((ws.headD 0).toNat % 2 ^ 11 + 3) / 4 →
      (descOf ws = none → ended 1) ∧
      (∀ e, descOf ws = some e → intoPool e = true → ended 2) ∧
      (∀ e, descOf ws = some e → intoPool e = false →
        (Config.partitions ≤ part ∨ ∃ r ∈ e.list, Config.tiles ≤ r ∨ s.partOfTile r ≠ part) → ended 3) ∧
      (∀ e, descOf ws = some e → intoPool e = false → part < Config.partitions → (∀ r ∈ e.list, r < Config.tiles ∧ s.partOfTile r = part) →
        (∀ q ∈ s.protos, ¬ (q.2.kind = 3 ∧ q.2.part = part)) → ∃ s' y p, exec (.domset d a b) s = .next s' ∧
          s'.strand u = some y ∧ y.run = .held ∧ y.prog.phase = 4 ∧ y.ctx = x.ctx ∧ s'.proto s.uids = some p ∧
          p.kind = 3 ∧ p.desc = e ∧ p.dom = dom ∧ p.phase = 1 ∧ p.acks = 0 ∧ p.n = (s.tilesOf part).length ∧
          (∀ k r, ((s.tilesOf part).filter (· != x.tile))[k]? = some r →
            s.Due s' (1 + k) (.inject x.tile r (.domHold ⟨s.uids, r⟩))) ∧ ∀ j, s'.byte j = s.byte j)) ∧
    (x.prog.phase = 2 → ended x.prog.val) ∧
    (∀ (r : Round) (p : Proto), s.proto r.id = some p →
      (s.event = .domsetHoldArrival r → ∃ s' q, exec .domsetHoldArrival s = .next s' ∧ s'.proto r.id = some q ∧
        q.tiles = p.tiles ++ [s.real r.tile] ∧ ∀ j, s'.byte j = s.byte j) ∧
      (s.event = .domsetDescriptorArrival r → ∃ s' q, exec .domsetDescriptorArrival s = .next s' ∧
        s'.proto r.id = some q ∧ q.tiles = p.tiles ++ [s.real r.tile] ∧
        (∀ l ∈ (s'.tile (s.real r.tile)).icache, l.2.dom ≠ p.dom) ∧
        (∀ f ∈ (s'.tile (s.real r.tile)).fills, f.2.dom ≠ p.dom) ∧
        (∀ e ∈ (s.tile (s.real r.tile)).domHeld, ⟨s.now, 2, e.1, e.2.1, e.2.2⟩ ∈ s'.agenda) ∧
        ∀ j, s'.byte j = s.byte j)) ∧
    (∀ (id : Nat) (p : Proto), s.event = .responseArrival ⟨.round id, 0, .data []⟩ → s.proto id = some p → p.kind = 3 →
      (p.acks + 1 < p.n → ∃ s', exec .responseArrival s = .next s' ∧ s'.descs = s.descs ∧
        s'.proto id = some { p with acks := p.acks + 1 }) ∧
      (p.n ≤ p.acks + 1 → p.phase = 1 → ∃ s' q, exec .responseArrival s = .next s' ∧ s'.proto id = some q ∧
        q.phase = 2 ∧ q.acks = 0 ∧ (∀ k r, ((s.tilesOf p.part).filter (· != p.lead))[k]? = some r →
          s.Due s' (1 + k) (.inject p.lead r (.domDesc ⟨id, r⟩)))) ∧
      (p.n ≤ p.acks + 1 → p.phase ≠ 1 → p.uid = u → x.run = .held → x.prog.phase = 4 →
        x.prog.val = BitVec.ofNat 64 id → ∃ s' y, exec .responseArrival s = .next s' ∧
          SMap.find? s'.descs (descNo p.part p.dom) = some p.desc ∧ s'.strand u = some y ∧ y.run = .ready ∧
          y.prog.phase = 2 ∧ y.prog.val = 0))

/-- R66, R84, R279, R280: `pack`, `prest`, `sres` and `sredir`. `pack` of a strand that waits for the supervisor takes its
context, zero for poisoned registers, and stores its 32 words one by one; rd is the poison mask. `prest` reads 32
words: a record with a bit that R66 marks zero gives 2, another gives the strand its values, all but sid, mode and
tiles. Without such a strand both give 1. The words of a record are asked for in one cycle, once the pieces of the strand's
vector store are sent (log entry 19). The words of a context give the context back. `sres` and `sredir` ask the
strand's tile: it goes on at its trap pc, past an `svc`, or at its `tvec`; without such a strand the answer is 1,
without a `tvec` 2. The model's own readings in it: log entries 18, 19, 41. -/
def Obligations.ContextRecordsExecute : Prop :=
  (∀ (c d : Ctx) (h : BitVec 32), ctxReserved (c.words h) = false ∧ (c.words h).length = 32 ∧
    d.ofWords (c.words h) = { c with pred := c.pred ||| 1, hleft := h, tvec := c.tvec &&& ~~~3, sid := d.sid,
                                     sup := d.sup, cur := d.cur, prev := d.prev }) ∧
  ∀ (s : State) (u : Nat) (x : Strand) (t c n : Nat) (d a b : Reg), s.focus = u → s.strand u = some x →
    x.place = .slot t c n → x.ctx.sup = true → x.poison = [] → x.pending = [] →
    let ended (i : Instr) (v : Word) : Prop := ∃ s' y, exec i s = .next s' ∧ s'.strand u = some y ∧
      y.ctx.pc = x.ctx.pc + 4 ∧ y.ctx.g = (x.setReg d v).ctx.g ∧ (∀ w, w ≠ u → s'.strand w = s.strand w) ∧
      ∀ j, s'.byte j = s.byte j
    (s.named x (x.reg a) = none → (x.prog.phase = 0 → ended (.pack d a b) 1) ∧ ended (.prest d a b) 1) ∧
    (∀ v y, s.named x (x.reg a) = some v → s.strand v = some y → v ≠ u →
      (x.prog.phase = 0 → (x.reg b).toNat % 64 ≠ 0 → x.ctx.tvec ≠ 0 →
        (∃ s', exec (.pack d a b) s = .next s' ∧ s.TrappedAs s' u t c n x 2 (x.reg b)) ∧
        (∃ s', exec (.prest d a b) s = .next s' ∧ s.TrappedAs s' u t c n x 2 (x.reg b))) ∧
      (x.prog.phase = 0 → (x.reg b).toNat % 64 = 0 → y.poison = [] → ∃ s' z, exec (.pack d a b) s = .next s' ∧
        s'.strand u = some z ∧ z.ctx = x.ctx ∧ z.prog.phase = 1 ∧ z.prog.val = 0 ∧
        z.prog.words = (List.range 32).zip (y.ctx.words (s.hleft y)) ∧ ∀ j, s'.byte j = s.byte j) ∧
      (x.prog.phase = 0 → (x.reg b).toNat % 64 = 0 → s.vectorMemBusy u x = false →
        ∀ ws s1, wordTargets true u x (x.reg b) 32 s = .ok (ws, s1) →
        ∃ s' z, exec (.prest d a b) s = .next s' ∧ s'.strand u = some z ∧ z.ctx = x.ctx ∧ z.prog.phase = 1) ∧
      (∀ ws, x.prog.phase = 1 → x.prog.words.map (·.2) = ws → ws.length = 32 → x.prog.bad = none →
        (ctxReserved ws = true → ended (.prest d a b) 2) ∧
        (ctxReserved ws = false → ∃ s' z y', exec (.prest d a b) s = .next s' ∧ s'.strand u = some z ∧
          z.ctx.pc = x.ctx.pc + 4 ∧ z.ctx.g = (x.setReg d 0).ctx.g ∧ s'.strand v = some y' ∧
          y'.ctx = y.ctx.ofWords ws ∧ y'.poison = [] ∧ y'.run = y.run ∧ y'.place = y.place ∧
          ∀ j, s'.byte j = s.byte j))) ∧
    (∀ tgt o k s1, 1 ≤ x.prog.phase → x.prog.phase ≤ 32 → s.memoryOk → s.vectorMemBusy u x = false →
      let va := x.reg b + BitVec.ofNat 64 (8 * (x.prog.phase - 1))
      let w := SMap.getD x.prog.words (x.prog.phase - 1) 0
      s.translate u x va permW = .ok (.here tgt o k, s1) → s.real o = x.tile → (∀ j, j < 8 → s.poisoned (k + j) = false) →
      ∃ s' z, exec (.pack d a b) s = .next s' ∧ s'.strand u = some z ∧ z.prog = { x.prog with phase := x.prog.phase + 1 } ∧
        z.ctx = x.ctx ∧ s'.Holds k 8 w ∧ ∀ j, ¬ within k 8 j → s'.byte j = s.byte j) ∧
    (x.prog.phase = 33 → ended (.pack d a b) x.prog.val) ∧
    (∀ (i : Instr) (redir : Bool), i = (if redir then .sredir d a else .sres d a) →
      let tile := (x.reg a).toNat / 2 ^ 32 % 2 ^ 12
      (x.prog.phase = 0 → Config.tiles ≤ tile ∨ Config.dieOf tile ≠ Config.dieOf x.tile → ended i 1) ∧
      (x.prog.phase = 0 → tile < Config.tiles → Config.dieOf tile = Config.dieOf x.tile →
        SMap.find? s.retired tile = none → ∃ s' y, exec i s = .next s' ∧ s'.strand u = some y ∧ y.run = .held ∧
        y.prog.phase = 1 ∧ y.ctx = x.ctx ∧ (∀ j, s'.byte j = s.byte j) ∧
        s.Due s' (max 12 ((s.pair x.tile tile).last + 1 - s.now))
          (.sresArrival ⟨BitVec.ofNat 32 ((x.reg a).toNat % 2 ^ 32), tile, redir, u⟩)) ∧
      (x.prog.phase = 2 → ended i x.prog.val)) ∧
    (∀ r : SresReq, s.event = .sresArrival r → r.uid = u →
      let answer (s' : State) (v : Word) : Prop := exec .sresArrival s = .next s' ∧ (∀ j, s'.byte j = s.byte j) ∧
        s.Due s' 4 (.inject (s.real r.tile) x.tile (.opAck u v))
      (s.waiter r.tile r.sid r.tile = none → ∃ s', answer s' 1 ∧ s'.strands = s.strands) ∧
      (∀ v y, s.waiter r.tile r.sid r.tile = some v → s.strand v = some y → v ≠ u →
        (r.redir = true → y.ctx.tvec = 0 → ∃ s', answer s' 2 ∧ s'.strands = s.strands) ∧
        (r.redir = true → y.ctx.tvec ≠ 0 → ∃ s' z, answer s' 0 ∧ s'.strand v = some z ∧ z.run = .ready ∧
          z.ctx = { y.ctx with pc := y.ctx.tvec }) ∧
        (r.redir = false → ∃ s' z, answer s' 0 ∧ s'.strand v = some z ∧ z.run = .ready ∧
          z.ctx = { y.ctx with pc := if y.ctx.tcause = 0x10 then y.ctx.tpc + 4 else y.ctx.tpc })))

/-- R133, R134, R264, R278: `cancel` of a family that holds the issuer is cause 0x0D with the lineage. Else, with fewer
than four cancellations from its tile and its partition running, a flit goes to every tile of the partition and the
strand waits; over no partition it is complete. `preempt` gives 4 for operation 3; a save gives 1 unless the partition
runs and 2 where the area does not fit; a restore gives 1 unless the partition is saved and the area lies in every tile's
memory; a reset gives 1 unless it is
saved or stopped. Else its flits leave and the strand waits; when the protocol has ended rd is 0. The model's own readings in
it: log entries 14, 42, 43. -/
def Obligations.PartitionMembersExecute : Prop :=
  ∀ (s : State) (u : Nat) (x : Strand) (t c n : Nat), s.focus = u → s.strand u = some x → x.place = .slot t c n →
    x.poison = [] → x.pending = [] →
    (∀ a b : Reg, x.prog.phase = 0 →
      let l : BitVec 16 := (x.reg a).setWidth 16
      let m : BitVec 16 := (x.reg b).setWidth 16
      let part := s.partOfTile x.tile
      ((x.ctx.lin ^^^ l) &&& m = 0 → x.ctx.tvec ≠ 0 → ∃ s', exec (.cancel a b) s = .next s' ∧
        s.TrappedAs s' u t c n x 0x0D (l.setWidth 64)) ∧
      ((x.ctx.lin ^^^ l) &&& m ≠ 0 → s.tilesOf part = [] → ∃ s', exec (.cancel a b) s = .next s' ∧
        s.RetiredAs s' u t c n x (x.ctx.pc + 4)) ∧
      ((x.ctx.lin ^^^ l) &&& m ≠ 0 → s.tilesOf part ≠ [] → s.cancelsFrom x.tile < 4 → (s.part part).mode = .running → ∃ s' y p,
        exec (.cancel a b) s = .next s' ∧ s'.strand u = some y ∧ y.run = .waiting .cancel ∧ y.ctx = x.ctx ∧
        (∀ w, w ≠ u → s'.strand w = s.strand w) ∧ s'.proto s.uids = some p ∧ p.kind = 0 ∧ p.a = l ∧ p.m = m ∧
        p.users = !x.ctx.sup ∧ p.part = part ∧ p.lead = x.tile ∧ p.acks = 0 ∧ p.n = (s.tilesOf part).length ∧
        (∀ k r, ((s.tilesOf part).filter (· != x.tile))[k]? = some r →
          s.Due s' (1 + k) (.inject x.tile r (.cancel ⟨s.uids, r⟩))) ∧
        (x.tile ∈ s.tilesOf part → s.Due s' 0 (.cancelFlitArrival ⟨s.uids, x.tile⟩)) ∧ ∀ j, s'.byte j = s.byte j)) ∧
    (∀ (d a b : Reg) (i : Instr) (kind : Nat), x.ctx.sup = true →
      (i = .preemptSave d a b ∧ kind = 4) ∨ (i = .preemptRestore d a b ∧ kind = 5) ∨ (i = .preemptReset d a b ∧ kind = 7) →
      let part := (x.reg a).toNat % 64
      let area := (x.reg b).toNat
      let mode := (s.part part).mode
      let gives (v : Word) : Prop := ∃ s', exec i s = .next s' ∧ s.RetiredAs s' u t c n (x.setReg d v) (x.ctx.pc + 4)
      let fits : Prop := ∀ r ∈ s.tilesOf part, area % 4096 = 0 ∧ area + s.areaSize r ≤ Config.memSize r - Config.poolSize
      let there : Prop := area % 4096 = 0 ∧ ∀ r ∈ s.tilesOf part, area < Config.memSize r - Config.poolSize
      (x.prog.phase = 0 → (x.reg a).toNat / 2 ^ 8 % 4 = 3 → gives 4) ∧
      (x.prog.phase = 0 → (x.reg a).toNat / 2 ^ 8 % 4 ≠ 3 →
        (∀ q ∈ s.protos, ¬ (q.2.part = part ∧ (q.2.kind = 0 ∨ q.2.kind = 3))) →
        (kind = 4 → mode ≠ .running → gives 1) ∧ (kind = 4 → mode = .running → ¬ fits → gives 2) ∧
        (kind = 5 → ¬ (mode = .saved ∧ there) → gives 1) ∧
        (kind = 7 → mode ≠ .saved → mode ≠ .stopped → gives 1) ∧
        ((kind = 4 ∧ mode = .running ∧ fits) ∨ (kind = 5 ∧ mode = .saved ∧ there) ∨
            (kind = 7 ∧ (mode = .saved ∨ mode = .stopped)) → s.tilesOf part ≠ [] → ∃ s' y p, exec i s = .next s' ∧
          s'.strand u = some y ∧ y.run = .held ∧ y.prog.phase = 4 ∧ y.ctx = x.ctx ∧
          (∀ w, w ≠ u → s'.strand w = s.strand w) ∧ s'.proto s.uids = some p ∧ p.kind = kind ∧ p.part = part ∧
          p.key = opKey area ∧ p.area = area ∧ p.lead = x.tile ∧ p.acks = 0 ∧ p.n = (s.tilesOf part).length ∧
          (s'.part part).mode = (if kind = 4 then .saving else if kind = 5 then .restoring else mode) ∧
          (∀ k r, ((s.tilesOf part).filter (· != x.tile))[k]? = some r → s.Due s' (1 + k) (.inject x.tile r
            (if kind = 5 then .restore ⟨s.uids, r⟩ else .preempt ⟨s.uids, r⟩))) ∧ ∀ j, s'.byte j = s.byte j)) ∧
      (x.prog.phase = 2 → ∃ s' y, exec i s = .next s' ∧ s'.strand u = some y ∧ y.ctx.pc = x.ctx.pc + 4 ∧
        y.ctx.g = (x.setReg d x.prog.val).ctx.g ∧ ∀ j, s'.byte j = s.byte j))

/-- R133, R134, R135: what a cancellation does at each of its flits. At the cancel flit a tile marks the contexts of the
family, takes them out of its watch table and hold list, sets its filter, and acknowledges 4 cycles later if no engine
works for the family; else it looks again in each cycle. After the last acknowledgement the issuing tile sends the
sweep; at the sweep a tile sends a marker to every other tile; with all of them in it frees the marked contexts,
removes its filter and acknowledges after one cycle for sixteen contexts. After the last of these the issuer retires.
The model's own readings in it: log entry 18. -/
def Obligations.CancellationRuns : Prop :=
  ∀ (s : State) (id t : Nat) (p : Proto), s.proto id = some p → t < 4096 →
    let tiles := s.tilesOf p.part
    (s.event = .cancelFlitArrival ⟨id, t⟩ → (s.tile t).calls = [] → (∀ ch, (s.chan t ch).cmds = []) →
      (s.matrix t).holder = none → (∀ c, (s.vunit t c).holder = none) → ∃ s', exec .cancelFlitArrival s = .next s' ∧
      (s'.tile t).filters = (s.tile t).filters ++ [⟨id, p.part, p.a, p.m, p.users⟩] ∧
      (∀ w, w ∈ (s'.tile t).watch ↔ w ∈ (s.tile t).watch ∧ ∃ y, s.strand w.uid = some y ∧ ¬ p.Family y) ∧
      (∀ h, h ∈ (s'.tile t).hold ↔ h ∈ (s.tile t).hold ∧ ∃ y, s.strand h.uid = some y ∧ ¬ p.Family y) ∧
      (∀ v y, s.strand v = some y → (y.tile = t → p.Family y → y.marked = none →
          s'.strand v = some { y with marked := some id }) ∧
        (y.tile ≠ t ∨ ¬ p.Family y ∨ y.marked ≠ none → s'.strand v = some y)) ∧
      s.Tells s' 4 t p.lead (.cancelAck id) ∧ ∀ j, s'.byte j = s.byte j) ∧
    (s.event = .cancelFlitArrival ⟨id, t + 4096⟩ →
      (s.familyBusy t (p.filter id) = true → ∃ s', exec .cancelFlitArrival s = .next s' ∧
        s' = { s with agenda := s'.agenda, seq := s'.seq } ∧ s.Due s' 1 (.cancelFlitArrival ⟨id, t + 4096⟩)) ∧
      (s.familyBusy t (p.filter id) = false → ∃ s', exec .cancelFlitArrival s = .next s' ∧
        s.Tells s' 4 t p.lead (.cancelAck id) ∧ ∀ j, s'.byte j = s.byte j)) ∧
    (s.event = .cancelStopAck id →
      (p.acks + 1 < p.n → ∃ s', exec .cancelStopAck s = .next s' ∧ s' = { s with protos := s'.protos } ∧
        s'.proto id = some { p with acks := p.acks + 1 }) ∧
      (p.n ≤ p.acks + 1 → ∃ s', exec .cancelStopAck s = .next s' ∧ s'.proto id = some { p with acks := 0, phase := 2 } ∧
        s'.strands = s.strands ∧ s.Announces s' p.lead tiles (fun r => .sweep ⟨id, r⟩) ∧
        (p.lead ∈ tiles → s.Due s' 0 (.sweepFlitArrival ⟨id, p.lead⟩)) ∧ ∀ j, s'.byte j = s.byte j)) ∧
    (s.event = .sweepFlitArrival ⟨id, t⟩ → SMap.getD p.counts t 0 + 1 < p.n → ∃ s', exec .sweepFlitArrival s = .next s' ∧
      s'.proto id = some { p with counts := SMap.put p.counts t (SMap.getD p.counts t 0 + 1) } ∧
      s'.strands = s.strands ∧ s.Announces s' t tiles (fun r => .marker ⟨id, r⟩) ∧ ∀ j, s'.byte j = s.byte j) ∧
    (s.event = .markerFlitArrival ⟨id, t⟩ → SMap.getD p.counts t 0 + 1 < p.n → ∃ s',
      exec .markerFlitArrival s = .next s' ∧ s' = { s with protos := s'.protos } ∧
      s'.proto id = some { p with counts := SMap.put p.counts t (SMap.getD p.counts t 0 + 1) }) ∧
    (∀ i, (i = .markerFlitArrival ∧ s.event = .markerFlitArrival ⟨id, t⟩) ∨
        (i = .sweepFlitArrival ∧ s.event = .sweepFlitArrival ⟨id, t⟩) → p.n ≤ SMap.getD p.counts t 0 + 1 → s.strandsOk →
      (∀ v y, s.strand v = some y → y.tile = t → s.peerOut? v y = false) → s.killedBack t (p.filter id) = false →
      ∃ s', exec i s = .next s' ∧
      (∀ v y, s.strand v = some y → y.tile = t → y.marked ≠ none → p.Family y → s'.strand v = none) ∧
      (∀ g ∈ (s'.tile t).filters, g.id ≠ id) ∧
      s.Tells s' (((s.doomed t (p.filter id)).length + 15) / 16) t p.lead (.cancelFinal id) ∧
      ∀ j, (∀ i, ¬ within (lentCell t i) 256 j) → s'.byte j = s.byte j) ∧
    (s.event = .cancelFinalAck id →
      (p.acks + 1 < p.n → ∃ s', exec .cancelFinalAck s = .next s' ∧ s' = { s with protos := s'.protos } ∧
        s'.proto id = some { p with acks := p.acks + 1 }) ∧
      (∀ y, p.n ≤ p.acks + 1 → s.strand p.uid = some y → y.run = .waiting .cancel → y.prog.val = BitVec.ofNat 64 id →
        y.marked = none → ∃ s' z, exec .cancelFinalAck s = .next s' ∧ s'.strand p.uid = some z ∧
          z.ctx = (y.finished (y.ctx.pc + 4) s.now).ctx ∧ z.run = .ready ∧
          (∀ v, v ≠ p.uid → s'.strand v = s.strand v) ∧ ∀ j, s'.byte j = s.byte j))

/-- R254, R264 to R270, R278: the steps of a pre-emption. At its flit a tile stops at its boundaries, and looks in each
cycle whether it has settled; then its contexts, with `hleft` standing still, and its engines go into the area, each context's
256 bytes at its place in its core's record, its cores are empty, and it acknowledges to its die's collector after the
save time; a reset drops the user contexts instead. The collector tells the lead; after the last acknowledgement the
partition is saved, running, stopped or reset. A restore reads the records back from the area after the same time: as many
contexts as a core's record has, each with the 256 bytes and the entry state of its record, then the engines and handles.
The end of a slice of a time-sliced partition saves the function whose turn it is; a flit whose header fails stops the
partition, and the collectors' supervisors are told. Where a record lies in its area and how it is laid out is the model's
own (log entry 13), and its other readings: log entries 18, 44, 46, 70, 85, 89. -/
def Obligations.PreemptionRuns : Prop :=
  ∀ (s : State) (t : Nat), t < 4096 →
    let c0 := Config.tile0 (Config.dieOf t)
    (∀ (id : Nat) (p : Proto), s.proto id = some p →
      (s.event = .preemptFlitArrival ⟨id, t⟩ → p.kind = 7 → (s.tile t).calls = [] → ∃ s', exec .preemptFlitArrival s = .next s' ∧
        (∀ v y, s'.strand v = some y → y.tile = t → y.ctx.sup = true) ∧
        (∀ v y, s.strand v = some y → y.ctx.sup = true → s'.strand v = some y) ∧ (s'.tile t).halted = false ∧
        (∀ c ∈ Config.userCores t, (s'.core t c).slots = [] ∧ (s'.core t c).kennel = [] ∧ (s'.core t c).lent = []) ∧
        s.Tells s' 0 t c0 (.preemptAck ⟨id, t⟩) ∧ ∀ j, s'.byte j = s.byte j) ∧
      (s.event = .preemptFlitArrival ⟨id, t⟩ → p.kind ≠ 7 → p.tiles.length + 1 < p.n → ∃ s',
        exec .preemptFlitArrival s = .next s' ∧ (s'.tile t).halted = true ∧
        s'.proto id = some { p with tiles := p.tiles ++ [t] } ∧ s.Due s' 1 (.preemptFlitArrival ⟨id, t + 4096⟩) ∧
        ∀ j, (∀ i, ¬ within (lentCell t i) 256 j) → s'.byte j = s.byte j) ∧
      (s.event = .preemptFlitArrival ⟨id, t + 4096⟩ → p.kind ≠ 7 → s.tileSettled t p = true → s.memoryOk →
        (∀ e ∈ s.usersOf t, e.2.anyPoison = none) → ∃ s' w,
        let k := s.areaCell t p.key
        exec .preemptFlitArrival s = .next s' ∧ SMap.find? s'.saved (savedNo t p.key) = some w ∧ w.cell = k ∧
        w.fetch = s.fetch t ∧ w.matrix = s.matrix t ∧ w.xch = s.xch t ∧
        (∀ i c j v y, (Config.userCores t)[i]? = some c →
          ((s.core t c).slots.map (·.2) ++ (s.core t c).kennel ++ (s.core t c).lent)[j]? = some v →
          j < s.contexts t → s.strand v = some y →
          s'.readBytes (k + s.coreSize t * i + 64 + 320 * j) 256 = Ctx.bytes { y.ctx with hleft := s.hleft y }) ∧
        (∀ c ∈ Config.userCores t, SMap.find? w.kennel c = some ((s.core t c).slots.map (·.2) ++ (s.core t c).kennel) ∧
          SMap.find? w.lent c = some (s.core t c).lent ∧ (s'.core t c).slots = [] ∧ (s'.core t c).kennel = [] ∧
          (s'.core t c).lent = []) ∧
        s.Tells s' (s.saveTime t) t c0 (.preemptAck ⟨id, t⟩) ∧
        (∀ j, ¬ within k (s.areaSize t) j → s'.byte j = s.byte j)) ∧
      (s.event = .preemptTileAck ⟨id, t⟩ → ∃ s', exec .preemptTileAck s = .next s' ∧ s'.strands = s.strands ∧
        (∀ j, s'.byte j = s.byte j) ∧ ((s.core c0 0).stopped = true → s.Due s' 1 (.preemptTileAck ⟨id, t⟩)) ∧
        ((s.core c0 0).stopped = false → s.Tells s' 0 c0 p.lead (.preemptAck ⟨id, t + 4096⟩))) ∧
      (s.event = .preemptTileAck ⟨id, t + 4096⟩ → p.acks + 1 < p.n → ∃ s', exec .preemptTileAck s = .next s' ∧
        s' = { s with protos := s'.protos } ∧ s'.proto id = some { p with acks := p.acks + 1 }) ∧
      (s.event = .preemptTileAck ⟨id, t + 4096⟩ → p.n ≤ p.acks + 1 → p.users = false → (s.part p.part).reason = 0 →
        4 ≤ p.kind → p.kind ≤ 7 → ∃ s', exec .preemptTileAck s = .next s' ∧
        (s'.part p.part).mode = (if p.kind = 4 then .saved else if p.kind = 6 then .stopped else .running) ∧
        (p.kind = 5 ∨ p.kind = 7 → s.Due s' 0 (.launchDispatch p.part)) ∧
        (∀ y, s.strand p.uid = some y → y.run = .held → y.prog.phase = 4 → y.prog.val = BitVec.ofNat 64 id →
          ∃ z, s'.strand p.uid = some z ∧ z.run = .ready ∧ z.prog.phase = 2 ∧ z.prog.val = 0 ∧ z.ctx = y.ctx) ∧
        ∀ j, s'.byte j = s.byte j) ∧
      (s.event = .restoreFlitArrival ⟨id, t⟩ → ∃ s', exec .restoreFlitArrival s = .next s' ∧
        s' = { s with agenda := s'.agenda, seq := s'.seq } ∧
        s.Due s' (s.saveTime t) (.restoreFlitArrival ⟨id, t + 4096⟩)) ∧
      (∀ w, s.event = .restoreFlitArrival ⟨id, t + 4096⟩ → s.savedAt t p.key = some w → w.key = p.key → w.ops = [] →
        w.fixes = [] → w.wakes = [] → s.memoryOk → s.strandsOk →
        (∀ v y a l, s.strand v = some y → y.place ≠ .saved a 4 p.key l) →
        let k := w.cell
        let n := s.roomAt t k
        let header (i : Nat) : Nat := (s.wordAt (k + coreBytes n * i)).toNat
        let front (i : Nat) : Nat := header i % 2 ^ 16
        let lent (i : Nat) : Nat := header i / 2 ^ 16 % 2 ^ 16
        let ctxAt (i j : Nat) : Nat := k + coreBytes n * i + 64 + 320 * j
        let fo := k + fetchAt t n
        let mo := fo + 94720
        let xo := mo + 70208
        s.spanBad k (areaBytes t n) = false → (∀ i, i < (Config.userCores t).length → front i + lent i ≤ n) →
        (∀ i, i < 1024 → (s.wordAt (fo + 65536 + 24 * i + 16)).getLsbD 63 = false) →
        (s.wordAt (mo + 70144)).toNat % 2 ^ 5 = 0 →
        (∀ i, i < 4 → s.gone ((s.wordAt (xo + 64 * i + 8)).toNat % 2 ^ 12) = false) → ∃ s',
        exec .restoreFlitArrival s = .next s' ∧ (s'.tile t).halted = false ∧
        (s'.fetch t).chans = (w.fetch.ofRecord (s.readBytes fo 94720)).chans ∧
        s'.matrix t = { w.matrix.ofRecord (s.readBytes mo 70208) (fun _ => false) with
          holder := (s'.matrix t).holder, waiters := (s'.matrix t).waiters } ∧
        (∀ i, i < 4 →
          let x := (w.xch.chans[i]?.getD XChan.reset).ofRecord (s.readBytes (xo + 64 * i) 64)
          let y := s'.xchan t i
          y.st = x.st ∧ y.sender = x.sender ∧ y.err = x.err ∧ y.peer = x.peer ∧ y.pch = x.pch ∧ y.h = x.h ∧
            y.sbytes = x.sbytes ∧ y.shipped = x.shipped ∧ y.landed = x.landed ∧ y.consumed = x.consumed) ∧
        (∀ h, h < 16 →
          let c := Cb.ofRecord (SMap.getD w.cbs h default) (s.readBytes (mo + 69120 + 64 * h) 64)
          c.size ≠ 0 → s'.cb t h = some c) ∧
        (∀ i c, (Config.userCores t)[i]? = some c →
          s'.vunit t c = { (SMap.getD w.vunits c VUnit.reset).ofRecord (s.readBytes (k + vectorAt t n i) 33856) with
            holder := (s'.vunit t c).holder, waiters := (s'.vunit t c).waiters } ∧
          ∃ us ls : List Nat, us.length = front i ∧ ls.length = lent i ∧
            (s'.core t c).kennel = (s.core t c).kennel ++ us ∧ (s'.core t c).lent = (s.core t c).lent ++ ls ∧
            ∀ j v, (us ++ ls)[j]? = some v → ∃ z, s'.strand v = some z ∧ z.tile = t ∧
              z.place = (if j < front i then .kennel t c else .lent t c) ∧
              z.ctx = Ctx.ofRecord default ((List.range 32).map (fun m => s.wordAt (ctxAt i j + 8 * m))) ∧
              let e := (s.wordAt (ctxAt i j + 256)).toNat
              let code := e / 2 ^ 8 % 2 ^ 8
              let wait := waitOf code (e / 2 ^ 16 % 2 ^ 16) (s.wordAt (ctxAt i j + 264)).toNat
              (∀ q, wait = some q → z.run = .waiting q) ∧ (wait = none → code ≠ 12 → z.run = .ready)) ∧
        (∀ v y, s.strand v = some y → (∀ c m l, y.place ≠ .saved t c m l) → s'.strand v = some y) ∧
        s.Tells s' 0 t c0 (.preemptAck ⟨id, t⟩) ∧
        ∀ j, (∀ i, ¬ within (lentCell t i) 256 j) → s'.byte j = s.byte j)) ∧
    (∀ (part stamp : Nat), s.event = .sliceExpiry part stamp → (s.part part).sliceStamp = stamp →
      (s.part part).mode = .running → s.tilesOf part ≠ [] →
      let lead := Config.tile0 (Config.dieOf ((s.leadTile part).getD 0))
      let waits : Prop := (∃ e ∈ s.protos, e.2.part = part ∧ (e.2.kind = 0 ∨ e.2.kind = 3)) ∨ ∃ l ∈ s.locks, l.1 / 64 = part
      (s.timeSliced part = false → exec .sliceExpiry s = .next s) ∧
      (s.timeSliced part = true → waits → ∃ s', exec .sliceExpiry s = .next s' ∧
        s' = { s with agenda := s'.agenda, seq := s'.seq } ∧ s.Due s' 1 (.sliceExpiry part stamp)) ∧
      (s.timeSliced part = true → ¬ waits → ∃ s' p, exec .sliceExpiry s = .next s' ∧
        (s'.part part).mode = .saving ∧ s'.proto s.uids = some p ∧ p.kind = 4 ∧ p.part = part ∧
        p.key = fnKey (s.part part).turn ∧ p.users = true ∧
        s.Announces s' lead (s.tilesOf part) (fun r => .preempt ⟨s.uids, r⟩) ∧ s'.strands = s.strands ∧
        ∀ j, s'.byte j = s.byte j)) ∧
    (∀ (r : BitVec 8) (lo hi : Word), s.event = .flitHeaderFailure t false r lo hi → t < Config.tiles →
      let part := s.partOfTile t
      part < Config.partitions →
      ((s.part part).mode = .running → ∃ s' p, exec .flitHeaderFailure s = .next s' ∧
        (s'.part part).reason = r.toNat ∧ (s'.part part).mode = .saving ∧ s'.proto s.uids = some p ∧ p.kind = 6 ∧
        p.part = part ∧ s.Announces s' c0 (s.tilesOf part) (fun q => .preempt ⟨s.uids, q⟩) ∧
        s.DueAt s' t c0 (.messageRingWrite (Config.dieOf t)
          (some ⟨BitVec.ofNat 64 (part + r.toNat * 2 ^ 8), lo, hi, BitVec.ofNat 64 (t + 4 * 2 ^ 56)⟩) false) ∧
        s'.strands = s.strands ∧ ∀ j, s'.byte j = s.byte j) ∧
      ((s.part part).mode = .saved → ∃ s', exec .flitHeaderFailure s = .next s' ∧
        (s'.part part).reason = r.toNat ∧ (s'.part part).mode = .stopped ∧ s'.strands = s.strands ∧
        ∀ j, s'.byte j = s.byte j))

/-! ## The fabric, the links, the ports and the module -/

/-- R244 to R249: the header of a flit and its fields; a flit that a packet is sent with passes every check, and its age is
the packet's. At the port of its destination die a flit whose header fails stops every partition with a tile there. One
that its pair expects, by number and flit index, is counted in, and the packet's last is ejected with the greatest age of
its flits; it reaches its tile 12 cycles later, after the packet before it; another flit goes round again, 16 cycles.
Every 32 deliveries, and 64 cycles after the last if the count has changed, the source is told how many are delivered; it
keeps a later count and sends what its window of 128 held back. R59, R250 to R253, R255: a link. A frame whose check
fails, or while the link trains or is down, is dropped; one that is not expected is not accepted; an accepted one advances
expected, its message acts in its pair's order, and the acknowledgement that it calls for leaves within 256 cycles, alone
if need be. An acknowledgement frees the frames below it. 2048 cycles without progress send the whole replay store again.
A lane failure takes a direction of the link one mode down for 4,500 cycles, and below the lowest the link leaves every
set. A counter fault stops new frames and asks for the peer's expected number, from which the store is sent again; asked
itself, a link answers with its own. A wrong copy of expected is repaired; both wrong, the link trains and is out of its
set. A lane recalibrates every 100 ms. The model's own readings in it: log entries 8, 18, 32, 33, 34, 77, 78. -/
def Obligations.FabricAndLinksExecute : Prop :=
  (∀ h : FlitHeader, let b := headerBits h
     b.extractLsb' 120 8 = h.age ∧ b.extractLsb' 112 8 = h.seq ∧ b.extractLsb' 110 2 = h.fi ∧ b.extractLsb' 108 2 = h.nf ∧
     b.extractLsb' 104 4 = h.kind ∧ b.extractLsb' 92 12 = h.dst ∧ b.extractLsb' 80 12 = h.src ∧ b.extractLsb' 64 16 = h.lin ∧
     b.extractLsb' 32 32 = h.ctx ∧ b.getLsbD 27 = h.ap ∧ b.extractLsb' 16 11 = h.pecc ∧ b.extractLsb' 0 16 = h.crc) ∧
  (∀ (s : State) (a b : Nat) (n : BitVec 8) (age i : Nat) (p : Packet), b < Config.tiles →
     let h := s.flitHeader a b n age i p
     headerFails h = 0 ∧ headerAge h = BitVec.ofNat 8 (min age 255) ∧ h.seq = n ∧ h.dst = BitVec.ofNat 12 b ∧
     h.src = BitVec.ofNat 12 a ∧ h.kind = packetKind p ∧ h.nf = (if packetLong p then 3 else 0)) ∧
  (∀ (s : State),
     (∀ f : PortFlit, s.event = .diePortFlitArrival f → f.dst < Config.tiles →
       let q := s.pair f.src f.dst
       let age := if q.age.toNat < (headerAge f.hdr).toNat then headerAge f.hdr else q.age
       (headerFails f.hdr ≠ 0 → ∃ s', exec .diePortFlitArrival s = .next s' ∧ s'.strands = s.strands ∧
         (∀ j, s'.byte j = s.byte j) ∧
         ∀ t part, t ∈ Config.tilesOfDie (Config.dieOf f.dst) → s.partOfTile t = part → part < Config.partitions →
           (s.part part).mode = .running →
           (s'.part part).mode = .saving ∧ (s'.part part).reason = (headerFails f.hdr).toNat) ∧
       (headerFails f.hdr = 0 → q.expected ≠ f.hdr.seq ∨ q.fi ≠ f.hdr.fi → ∃ s', exec .diePortFlitArrival s = .next s' ∧
         s' = { s with agenda := s'.agenda, seq := s'.seq } ∧
         s.Due s' 16 (.diePortFlitArrival { f with extra := f.extra + 1 })) ∧
       (headerFails f.hdr = 0 → q.expected = f.hdr.seq → q.fi = f.hdr.fi → f.hdr.fi ≠ f.hdr.nf → ∃ s',
         exec .diePortFlitArrival s = .next s' ∧ s' = { s with pairs := s'.pairs } ∧
         s'.pair f.src f.dst = { q with fi := q.fi + 1, age := age, bad := q.bad || packetBad f.pkt }) ∧
       (headerFails f.hdr = 0 → q.expected = f.hdr.seq → q.fi = f.hdr.fi → f.hdr.fi = f.hdr.nf →
         SMap.find? s.retired f.dst = none → (∀ r, f.pkt ≠ .resp r) →
         let p := if q.bad then spoilPacket f.pkt else f.pkt
         ∃ s', exec .diePortFlitArrival s = .next s' ∧ (s'.pair f.src f.dst).expected = q.expected + 1 ∧
         (s'.pair f.src f.dst).fi = 0 ∧ (s'.pair f.src f.dst).delivered = q.delivered + 1 ∧
         s.Due s' (max 12 (q.last + 1 - s.now)) (packetEvent (withAge p age.toNat)).2 ∧
         s.Due s' 64 (.orderCountTimer f.src f.dst s.now) ∧
         ((q.delivered + 1).toNat % 32 = 0 → ∃ d,
           s.Due s' (Config.oneWay f.dst f.src + 16 * d) (.orderCountArrival f.src f.dst (q.delivered + 1))) ∧
         s'.strands = s.strands ∧ ∀ j, s'.byte j = s.byte j)) ∧
     (∀ a b stamp, s.event = .orderCountTimer a b stamp →
       let q := s.pair a b
       (q.stamp = stamp → q.told ≠ q.delivered → ∃ s' d, exec .orderCountTimer s = .next s' ∧
         s' = { s with pairs := s'.pairs, agenda := s'.agenda, seq := s'.seq, ctr := s'.ctr } ∧
         s'.pair a b = { q with told := q.delivered } ∧
         s.Due s' (Config.oneWay b a + 16 * d) (.orderCountArrival a b q.delivered)) ∧
       (q.stamp ≠ stamp ∨ q.told = q.delivered → exec .orderCountTimer s = .next s)) ∧
     (∀ a b n, s.event = .orderCountArrival a b n →
       let q := s.pair a b
       let seen := if (n - q.seen).toNat < 2 ^ 7 then n else q.seen
       (q.queue = [] → ∃ s', exec .orderCountArrival s = .next s' ∧ s' = { s with pairs := s'.pairs } ∧
         s'.pair a b = { q with seen := seen }) ∧
       (∀ p, q.queue = [p] → Config.dieOf a ≠ Config.dieOf b → (q.seq - seen).toNat < 128 → s.filtered a p = false →
         ∃ s', exec .orderCountArrival s = .next s' ∧ (s'.pair a b).queue = [] ∧ (s'.pair a b).seq = q.seq + 1 ∧
         ∀ i, i ≤ (if packetLong p then 3 else 0) → ∃ d,
           s.Due s' (i + 24 + 8 * Config.hops (Config.dieOf a) (Config.dieOf b) + 16 * d)
             (.diePortFlitArrival ⟨a, b, s.flitHeader a b q.seq (packetAge p + d) i p, 0, p⟩)))) ∧
  (∀ (s : State) (l : Nat), l < Config.links →
     let k := s.link l
     let frame (x : FrameCtl) : Nat × Frame := (s.now + 240, ⟨s.modnum.toNat, k.next, k.expected, true, true, x, []⟩)
     let resent (st : List Frame) : List (Nat × Frame) :=
       k.sent ++ st.map (fun f => (s.now + 240, { f with ack := k.expected }))
     (∀ f : Frame, s.event = .gorrexFrameArrival l f →
       (f.ok = false ∨ k.ready = false → exec .gorrexFrameArrival s = .next s) ∧
       (f.ok = true → k.ready = true → f.ctl = .none → f.ack = k.ack → f.idle = true ∨ f.seq ≠ k.expected →
         exec .gorrexFrameArrival s = .next s) ∧
       (f.ok = true → k.ready = true → f.ctl = .request → f.ack = k.ack → f.idle = true → ∃ s',
         exec .gorrexFrameArrival s = .next s' ∧ s' = { s with links := s'.links } ∧
         s'.link l = { k with sent := k.sent ++ [frame .answer], owed := 0 }) ∧
       (∀ src num tag v agent va c n, f.ok = true → k.ready = true → f.ctl = .none → f.ack = k.ack →
         f.idle = false → f.seq = k.expected → f.msgs = [(src, num, .data tag v)] → s.peerHeld = [] →
         (SMap.getD s.peerPairs (peerPairNo f.peer src) (0, 0)).2 = num →
         SMap.find? s.peerTags tag = some (agent, va, c, n) → ∃ s', exec .gorrexFrameArrival s = .next s' ∧
         s'.link l = { k with expected := k.expected + 1, expected2 := k.expected + 1,
                              owed := if k.owed = 0 then s.now + 1 else k.owed } ∧
         (SMap.getD s'.peerPairs (peerPairNo f.peer src) (0, 0)).2 = num + 1 ∧ s'.peerHeld = [] ∧
         (k.owed = 0 → s.Due s' 256 (.gorrexIdleFrameTimer l (s.now + 1))) ∧
         s.Due s' 34 (.responseArrival ⟨agent, va, .data (bytesOf n v)⟩) ∧ s'.strands = s.strands ∧
         ∀ j, s'.byte j = s.byte j) ∧
       (f.ok = true → k.ready = true → k.resync = false → f.ctl = .none → f.idle = true → f.ack ≠ k.ack →
         (f.ack - k.ack).toNat < 2 ^ 15 → s.peerOut = [] → ∃ s', exec .gorrexFrameArrival s = .next s' ∧
         s'.link l = { k with ack := f.ack, timer := s.now,
                              store := k.store.filter (fun g => decide ((g.seq - f.ack).toNat < 2 ^ 15)) } ∧
         ((s'.link l).store ≠ [] → s.Due s' 2048 (.gorrexReplayTimeout l s.now)))) ∧
     (∀ n, s.event = .gorrexIdleFrameTimer l n →
       (k.owed = n → k.ready = true → ∃ s', exec .gorrexIdleFrameTimer s = .next s' ∧
         s' = { s with links := s'.links } ∧ s'.link l = { k with sent := k.sent ++ [frame .none], owed := 0 }) ∧
       (k.owed ≠ n ∨ k.ready = false → exec .gorrexIdleFrameTimer s = .next s)) ∧
     (∀ n, s.event = .gorrexReplayTimeout l n →
       (k.timer = n → k.store ≠ [] → k.ready = true → k.resync = false → ∃ s', exec .gorrexReplayTimeout s = .next s' ∧
         s'.link l = { k with sent := resent k.store, timer := s.now, owed := 0 } ∧
         s.Due s' 2048 (.gorrexReplayTimeout l s.now)) ∧
       (k.timer ≠ n ∨ k.ready = false → exec .gorrexReplayTimeout s = .next s)) ∧
     (∀ rx m, (s.event = .gorrexLaneFailure l rx ∧
           (let old := if rx then k.rmode else k.mode
            (old = .full ∧ m = .nrz) ∨ (old = .nrz ∧ m = .half) ∨ (old = .half ∧ m = .halfNrz) ∨
              (old = .halfNrz ∧ m = .down))) ∨
         s.event = .supervisorStartedRetrain l rx m →
       let moved := if rx then { k with rmode := m } else { k with mode := m }
       ∃ s', exec s.event.instr s = .next s' ∧ (∀ j, s'.byte j = s.byte j) ∧
         (m ≠ .down → s'.link l = { moved with training := true, trainEnd := s.now + 4500 } ∧
           s.Due s' 4500 (.gorrexRetrainDone l (s.now + 4500))) ∧
         (m = .down → s'.link l = { moved with training := false, store := k.store.map (fun f => { f with msgs := [] }) } ∧
           ∀ q, l ∉ s'.upLinks q)) ∧
     (∀ n, s.event = .gorrexRetrainDone l n →
       (k.training = true → k.trainEnd = n → s.peerOut = [] → k.resync = false → ∃ s',
         exec .gorrexRetrainDone s = .next s' ∧
         (k.store ≠ [] → s'.link l =
           { k with training := false, out := false, sent := resent k.store, timer := s.now, owed := 0 } ∧
           s.Due s' 2048 (.gorrexReplayTimeout l s.now)) ∧
         (k.store = [] → k.owed = 0 → s'.link l = { k with training := false, out := false }) ∧
         (k.store = [] → k.owed ≠ 0 → k.mode ≠ .down → k.rmode ≠ .down → s'.link l =
           { k with training := false, out := false, sent := k.sent ++ [frame .none], owed := 0 })) ∧
       (k.training = false ∨ k.trainEnd ≠ n → exec .gorrexRetrainDone s = .next s)) ∧
     (s.event = .gorrexCounterParityError l → ∃ s', exec .gorrexCounterParityError s = .next s' ∧
       s.Due s' 2048 (.gorrexReplayTimeout l s.now) ∧ s'.strands = s.strands ∧
       (k.ready = true →
         s'.link l = { k with resync := true, sent := k.sent ++ [frame .request], owed := 0, timer := s.now }) ∧
       (k.ready = false → s'.link l = { k with resync := true, timer := s.now })) ∧
     (∀ x, s.event = .gorrexResyncAnswer l x → k.resync = true → k.ready = true → s.peerOut = [] →
       let st := k.store.filter (fun g => decide ((g.seq - x).toNat < 2 ^ 15))
       ∃ s', exec .gorrexResyncAnswer s = .next s' ∧ s'.link l = { k with
         ack := x, store := st, next := x + BitVec.ofNat 16 st.length, resync := false, sent := resent st,
         timer := if st = [] then k.timer else s.now, owed := if st = [] then k.owed else 0 }) ∧
     (∀ both, s.event = .gorrexExpectedParityError l both → ∃ s', exec .gorrexExpectedParityError s = .next s' ∧
       (both = false → s' = { s with links := s'.links } ∧ s'.link l = { k with expected := k.expected2 }) ∧
       (both = true → s'.link l = { k with training := true, trainEnd := s.now + 4500, out := true } ∧
         (∀ q, l ∉ s'.upLinks q) ∧ s.Due s' 4500 (.gorrexRetrainDone l (s.now + 4500)))) ∧
     (s.event = .gorrexLaneRecalibration l → ∃ s', exec .gorrexLaneRecalibration s = .next s' ∧
       s' = { s with links := s'.links, agenda := s'.agenda, seq := s'.seq } ∧
       s'.link l = { k with recal := k.recal + 1 } ∧ s.Due s' 225000000 (.gorrexLaneRecalibration l)))

/-- R292: `psend`. A malformed command is cause 0x0E with the index of its first wrong word. With its addresses translated
and no store or posted operation inside the module out, it takes the next of the 64 places of its partition's queue for
the channel and clears pd; with the queue full it sets pd and nothing else. The oldest command of a queue is read in the
cycle after. The model's own readings in it: log entry 37. -/
def Obligations.PsendExecutes : Prop :=
  ∀ (s : State) (u : Nat) (x : Strand) (t c n : Nat) (r : Reg) (p : Pred) (ch : BitVec 4), s.Issuing u x t c n →
    x.Clear (eightFrom r) [] →
    let w := x.eight r
    let part := s.partOfTile x.tile
    let l := SMap.getD s.psendq (sendNo part ch.toNat) []
    (∀ i, psendBadWord w ch.toNat = some i → x.ctx.tvec ≠ 0 → ∃ s', exec (.psend r p ch) s = .next s' ∧
      s.TrappedAs s' u t c n x 0x0E (BitVec.ofNat 64 i)) ∧
    (∀ pay s1 blk s2 meet s3, psendBadWord w ch.toNat = none → (∀ q ∈ x.posted, q.cls = 2) →
      payTargets u x (pagePieces (w[0]).toNat (w[1]).toNat) s = .ok (pay, s1) →
      optTarget u x (w[2]) permR (ch != 4) s1 = .ok (blk, s2) →
      optTarget u x (w[3]) permRW (w[3] != 0) s2 = .ok (meet, s3) → s3.vectorMemBusy u x = false →
      ∃ s', exec (.psend r p ch) s = .next s' ∧ (∀ j, s'.byte j = s.byte j) ∧ (∀ v, v ≠ u → s'.strand v = s.strand v) ∧
        s'.strand u = some ((x.setPred p (decide (64 ≤ l.length))).finished (x.ctx.pc + 4) s.now) ∧
        SMap.getD s'.psendq (sendNo part ch.toNat) [] =
          (if 64 ≤ l.length then l else l ++ [⟨x.tile, pay, blk, meet⟩]) ∧
        (l = [] → s.Due s' 1 (.psendTransmit part ch.toNat)))

/-- R285 to R293: what arrives at the ports and from the host. A faulty frame is dropped and counted; one that matches no
entry goes to the host; one that matches waits for those before it: it is dropped and counted if it is too long or the ring
is full, once the count consumed has been read, else its slot is written, it is counted in, and a launch record is queued.
The host writes words of the 256 entries; one whose v is set is checked, its ring's pages are translated, and it takes
frames from then on, or is refused with a code. A launch record joins the queue of its class; the dispatcher of a die starts
its first of the highest class on the least loaded of its tiles, the first among equals, with pc and g0 to g2 of the record.
The oldest send of a queue is read, leaves as a frame, and its arrival is posted. A host access of a function that is not
bound reads ones and writes nothing; another goes by the function's page table. A function that exists is bound to a
partition with its page table; the order that comes with it, and behind it the bound functions that it leaves out, is the
partition's order from then on, the running function runs on, and a time-sliced partition's slice begins. The model's own
readings in it: log entries 16 and 68 (where a unit's accesses start), 36, 37, 46, 47 (what names an entry, a function or a
partition that does not exist), 48, 71 to 75. -/
def Obligations.EdgeEventsExecute : Prop :=
  ∀ (s : State),
    (∀ f : EthFrame, s.event = .ethernetFrameArrival f →
      let ips := (s.ethPort f.port).ips
      (f.faulty = true → ∃ s', exec .ethernetFrameArrival s = .next s' ∧ s' = { s with badFrames := s.badFrames + 1 }) ∧
      (f.faulty = false → (∀ e ∈ s.svc, e.2.takes ips f = false) → ∃ s', exec .ethernetFrameArrival s = .next s' ∧
        s' = { s with physQueue := s.physQueue ++ [f] }) ∧
      (∀ i w d, f.faulty = false → List.find? (fun e => e.2.takes ips f) s.svc = some (i, s.service i) →
        (s.service i).live = some w → f.datagram = some d →
        let e := s.service i
        let r : Request := ⟨d.block i s.now, d.payload⟩
        (e.frames ≠ [] → ∃ s', exec .ethernetFrameArrival s = .next s' ∧ s' = { s with svc := s'.svc } ∧
          s'.service i = { e with frames := e.frames ++ [r] }) ∧
        (e.frames = [] → w.slotSize - 64 < d.payload.length → ∃ s', exec .ethernetFrameArrival s = .next s' ∧
          s' = { s with svc := s'.svc } ∧ s'.service i = { e with drops := e.drops + 1 }) ∧
        (∀ lead, e.frames = [] → d.payload.length ≤ w.slotSize - 64 → s.leadTile w.part = some lead →
          (w.slots ≤ (e.produced - e.consumed).toNat → ∃ s', exec .ethernetFrameArrival s = .next s' ∧
            s'.service i = { e with frames := [r] } ∧ s.Begins s' ⟨.frame i 0, lead, none, false, 0,
              [⟨w.w1 + 8, e.target w 8, permRW, some (.load 4)⟩], none, [], []⟩ ∧ ∀ j, s'.byte j = s.byte j) ∧
          ((e.produced - e.consumed).toNat < w.slots → s.queueFull w.part w.cls = false → ∃ s',
            exec .ethernetFrameArrival s = .next s' ∧ s'.service i = { e with frames := [r] } ∧
            s.Begins s' ⟨.frame i 1, lead, none, false, 0, e.writes w r, none, [], []⟩ ∧ ∀ j, s'.byte j = s.byte j)))) ∧
    (∀ id j i w r rest, s.UnitDone id j → (s.service i).live = some w → (s.service i).frames = r :: rest →
      let e := s.service i
      let old := (s.part w.part).queue w.cls
      (j.who = .frame i 1 → allDone j.got = true → ∃ s', step s = .next s' ∧
        (s'.part w.part).queue w.cls = old ++ [⟨w.part, w.w3.setWidth 48,
          w.w1 + BitVec.ofNat 64 (128 + w.slotSize * (e.produced.toNat % w.slots)), BitVec.ofNat 64 r.payload.length,
          e.produced.setWidth 64, BitVec.ofNat 2 w.cls, w.w4.setWidth 16, w.t0, w.tn⟩] ∧
        (rest = [] → s'.service i = { e with frames := [], produced := e.produced + 1 }) ∧
        s.Due s' 0 (.launchDispatch w.part) ∧ s'.strands = s.strands ∧ ∀ k, s'.byte k = s.byte k) ∧
      (∀ bs, j.who = .frame i 0 → j.got = [.data bs] → rest = [] → r.payload.length ≤ w.slotSize - 64 →
        let seen : BitVec 32 := BitVec.ofNat 32 (leValue bs)
        (w.slots ≤ (e.produced - seen).toNat → ∃ s', step s = .next s' ∧
          s'.service i = { e with consumed := seen, frames := [], drops := e.drops + 1 } ∧ ∀ k, s'.byte k = s.byte k) ∧
        ((e.produced - seen).toNat < w.slots → s.queueFull w.part w.cls = false → ∃ s' lead, step s = .next s' ∧
          s'.service i = { e with consumed := seen } ∧ s.Begins s' ⟨.frame i 1, lead, none, false, 0,
            Svc.writes { e with consumed := seen } w r, none, [], []⟩ ∧ ∀ k, s'.byte k = s.byte k))) ∧
    (∀ i l, s.event = .serviceEntryRegister i l →
      let e := s.service i
      let w := l.foldl (fun w x => w.put x.1 x.2) e.w
      let set := (l.filter (fun x => x.1 == 0)).getLast?.map (fun x => x.2.getLsbD 63)
      (256 ≤ i → exec .serviceEntryRegister s = .next s) ∧
      (i < 256 → ∃ s', exec .serviceEntryRegister s = .next s' ∧
        (set = none → s' = { s with svc := s'.svc } ∧ s'.service i = { e with w := w }) ∧
        (set = some false → s' = { s with svc := s'.svc } ∧ s'.service i = { e with w := w, v := false, task := none }) ∧
        (set = some true → s.svcRange w = true → s' = { s with svc := s'.svc } ∧
          s'.service i = { e with w := w, v := false, task := none, reg := 1 }) ∧
        (set = some true → s.svcRange w = false →
          (2 ^ 56 ≤ w.w1.toNat ∨ 2 ^ 56 < w.w1.toNat + w.ringBytes → s' = { s with svc := s'.svc } ∧
            s'.service i = { e with w := w, v := false, task := none, reg := 4 }) ∧
          (w.w1.toNat + w.ringBytes ≤ 2 ^ 56 → ∀ lead, s.leadTile w.part = some lead →
            s'.service i = { e with w := w, v := true, task := some s.uids, reg := 0 } ∧
            s.Begins s' ⟨.register i, lead, none, false, 0, w.ringPages.map (fun n =>
              ⟨BitVec.ofNat 64 (max w.w1.toNat (n * 2 ^ 21)), none, permRW, none⟩), none, [], []⟩ ∧
            ∀ k, s'.byte k = s.byte k)))) ∧
    (∀ id j i, s.UnitDone id j → j.who = .register i → (s.service i).task = some id → (s.service i).frames = [] →
      let e := s.service i
      let taken := ∃ o ∈ s.svc, o.1 ≠ i ∧ o.2.v = true ∧
        ((o.2.task = none ∧ ∃ w, o.2.live = some w ∧ w.same e.w = true) ∨
         ∃ k, o.2.task = some k ∧ k < id ∧ o.2.w.same e.w = true)
      ∃ s', step s = .next s' ∧ (∀ k, s'.byte k = s.byte k) ∧
        (j.got ≠ [] → s'.service i = { e with task := none, v := false, reg := 2 }) ∧
        (j.got = [] → taken → s'.service i = { e with task := none, v := false, reg := 3 }) ∧
        (j.got = [] → ¬ taken → s'.service i = { e with
          task := none, live := some e.w, pages := (e.w.ringPages.zip j.tgts).map (fun x => (x.1, pageOf x.2)), produced := 0, consumed := 0 })) ∧
    (∀ i, s.event = .serviceEntryClear i → ∃ s', exec .serviceEntryClear s = .next s' ∧ s' = { s with svc := s'.svc } ∧
      (i < 256 → s'.service i = { s.service i with v := false, task := none }) ∧ (256 ≤ i → s' = s)) ∧
    (∀ p, s.event = .launchDispatch p → ((s.part p).mode ≠ .running → exec .launchDispatch s = .next s) ∧
      (∀ q l rest, q < 4 → (s.part p).mode = .running → s.placing p q (Config.dieOf l.t0) = false →
        (s.part p).queue q = l :: rest → (∀ h, q < h → h < 4 → (s.part p).queue h = []) →
        (∀ h, h < 4 → ∀ m ∈ (s.part p).queue h, Config.dieOf m.t0 = Config.dieOf l.t0) → s.rangeOk p l.t0 l.tn = true →
        s.strandsOk → (∀ t, (s.tile t).filters = [] ∧ (s.tile t).hold.length < 64) →
        ∃ s' z r, exec .launchDispatch s = .next s' ∧ s'.strand s.uids = some z ∧ z.tile = s.real r ∧
        l.t0 ≤ r ∧ r < l.t0 + l.tn ∧ (∀ r', l.t0 ≤ r' → r' < l.t0 + l.tn → s.load (s.real r) ≤ s.load (s.real r') ∧
          (r' < r → s.load (s.real r) < s.load (s.real r'))) ∧
        z.ctx.pc = l.pc ∧ z.ctx.g[0] = l.g0 ∧ z.ctx.g[1] = l.g1 ∧ z.ctx.g[2] = l.g2 ∧ z.ctx.lin = l.lin ∧
        z.ctx.cls = l.cls ∧ z.ctx.sup = false ∧ z.ctx.sid = BitVec.ofNat 12 z.tile ++ (s.tile z.tile).serial ∧
        (∀ v, v ≠ s.uids → s'.strand v = s.strand v) ∧
        ∀ j, (∀ t i, ¬ within (lentCell t i) 256 j) → s'.byte j = s.byte j)) ∧
    (∀ part ch q rest, s.event = .psendTransmit part ch → SMap.getD s.psendq (sendNo part ch) [] = q :: rest →
      ∃ s', exec .psendTransmit s = .next s' ∧ s.Begins s' ⟨.psend part ch 0, q.tile, none, true, 0, q.reads, none, [], []⟩ ∧
        s' = { s with jobs := s'.jobs, uids := s'.uids, agenda := s'.agenda, seq := s'.seq }) ∧
    (∀ id j part ch q rest, s.UnitDone id j → j.who = .psend part ch 0 → allDone j.got = true →
      SMap.getD s.psendq (sendNo part ch) [] = q :: rest → let bs := bytesGot j.got
      ∃ s' o, step s = .next s' ∧ SMap.getD s'.psendq (sendNo part ch) [] = rest ∧
        (rest ≠ [] → s.Due s' 1 (.psendTransmit part ch)) ∧ (∀ k, s'.byte k = s.byte k) ∧
        (∀ m, q.meet = some m → s.Begins s' ⟨.psend part ch 1, q.tile, none, true, 0,
          [⟨0, some m, permRW, some (.rmw .arrive 8 0 0)⟩], none, [], []⟩) ∧
        (ch < 4 → q.block ≠ none → s'.sentFrames = s.sentFrames ++
          [⟨ch, sentBytes (s.ethPort ch).mac o (bs.take 64) (bs.drop 64)⟩]) ∧
        (∀ fn f, ch = 4 → q.block = none → s.currentFn part = some fn → SMap.find? s.fns fn = some f →
          SMap.find? s'.fns fn = some { f with ring := f.ring ++ [bs] })) ∧
    (∀ fn l f, s.event = .hostLaunchAppend fn l → SMap.find? s.fns fn = some f →
      let ok := s.queueFull f.part l.cls.toNat = false ∧ s.rangeOk f.part l.t0 l.tn = true
      (ok → ∃ s', exec .hostLaunchAppend s = .next s' ∧
        (s'.part f.part).queue l.cls.toNat = (s.part f.part).queue l.cls.toNat ++ [{ l with part := f.part }] ∧
        s.Due s' 0 (.launchDispatch f.part) ∧ ∀ j, s'.byte j = s.byte j) ∧
      (¬ ok → exec .hostLaunchAppend s = .next s)) ∧
    (∀ fn l, s.event = .hostLaunchAppend fn l → SMap.find? s.fns fn = none → exec .hostLaunchAppend s = .next s) ∧
    (∀ a : HostAccess, s.event = .hostMemoryAccess a →
      let n := if a.write then a.bytes.length else a.len
      ((SMap.find? s.fns a.fn = none ∨ ∃ f, SMap.find? s.fns a.fn = some f ∧ s.leadTile f.part = none) →
        (a.write = true → exec .hostMemoryAccess s = .next s) ∧
        (a.write = false → exec .hostMemoryAccess s =
          .next { s with hostReads := s.hostReads ++ [List.replicate a.len 0xFF] })) ∧
      (∀ f lead, SMap.find? s.fns a.fn = some f → s.leadTile f.part = some lead → ∃ s' j,
        exec .hostMemoryAccess s = .next s' ∧ s.Begins s' j ∧
        s' = { s with jobs := s'.jobs, uids := s'.uids, agenda := s'.agenda, seq := s'.seq } ∧
        j.who = .host a.va.toNat n a.write ∧ j.tile = lead ∧ j.fn = some a.fn ∧ j.fromTile = false ∧ j.tgt = none ∧
        j.todo.length = (pieces64 a.va.toNat n).length ∧ ∀ (i : Nat) (q : Nat × Nat), (pieces64 a.va.toNat n)[i]? = some q →
          j.todo[i]? = some (JobStep.mk (BitVec.ofNat 64 q.1) none (if a.write then permW else permR)
            (some (if a.write then .write ((a.bytes.drop (q.1 - a.va.toNat)).take q.2) else .load q.2))))) ∧
    (∀ id j va n, s.UnitDone id j → j.who = .host va n false → allDone j.got = true →
      j.got.length = (pieces64 va n).length → ∃ s', step s = .next s' ∧
        s'.hostReads = s.hostReads ++ [bytesGot j.got] ∧ ∀ k, s'.byte k = s.byte k) ∧
    (∀ b : Binding, s.event = .virtualFunctionBinding b →
      (bindable b = false → exec .virtualFunctionBinding s = .next s) ∧
      (bindable b = true → b.part = none → exec .virtualFunctionBinding s = .next { s with fns := SMap.erase s.fns b.fn }) ∧
      (∀ p, bindable b = true → b.part = some p → ∃ s' f,
        exec .virtualFunctionBinding s = .next s' ∧ SMap.find? s'.fns b.fn = some f ∧ f.part = p ∧ f.ptbase = b.ptbase ∧
        (∀ j, s'.byte j = s.byte j) ∧ (b.order ≠ [] →
          let all := (List.filter (fun e => e.2.part == p) s'.fns).map (·.1)
          let runs := (s.part p).turn
          (s'.part p).fns = b.order ++ all.filter (fun g => !(b.order.contains g)) ∧
          (s'.part p).slices = b.slices.take b.order.length ∧
          (runs ∈ (s'.part p).fns → (s'.part p).fns[(s'.part p).cur]? = some runs) ∧
          (runs ∉ (s'.part p).fns → (s'.part p).cur = 0) ∧
          (s'.timeSliced p = true → ∃ n, s.Due s' n (.sliceExpiry p (s.now + n)) ∧
            (s'.part p).slices.getD (s'.part p).cur 0 ≤ n ∧ (s.regs (s.leadCollector p)).slicemin ≤ n ∧ s.tSr p ≤ n))))

/-- R46, R82, R254, R255, R258, R262, R269, R294 to R296: the events of the module. A compute-side die whose image, the
flash's or, where that holds none, the host's, passes the check against the root key is measured, boots, clears its memory,
and starts a supervisor strand at the image's entry, which fetches from the image; another stays in reset, and a die without
a supervisor core does nothing. A restarted core's strands are gone, and no other context has changed. A quote holds the
registers of every die and the nonce. Thermal governance delays and counts; shutdown powers the module down, and it does
nothing more. A message whose payload is uncorrectable is counted and discarded; another waits while the ring is off or
full; the ring's counts are read, its next entry is written, and then the count of messages. A loaded image's launches are
performed one in a cycle, each with its pc and g0. A tile map or a forwarding entry is taken only while the partitions that
it touches are out, and a die holds eight forwarding entries. Where firmware's entry lies is the model's choice (log entry
3), and whether an image is signed is a free value: no state of the model shows a signed one. The model's own readings in
it: log entries 3, 23, 24, 29, 38, 47, 53, 55, 56, 68, 76, 82. -/
def Obligations.ModuleEventsExecute : Prop :=
  ∀ (s : State),
    (∀ d, s.event = .telemetrySample d → ∃ s', exec .telemetrySample s = .next s' ∧
      s' = { s with dies := s'.dies, agenda := s'.agenda, seq := s'.seq } ∧
      (s'.die d).telemetry = (s.die d).telemetry + 1 ∧ s.Due s' 2250000 (.telemetrySample d)) ∧
    (∀ d, s.event = .powerOnReset d →
      (Config.dies ≤ d → exec .powerOnReset s = .next s) ∧
      (∀ f, d < Config.dies → (s.flash = some f ∨ s.flash = none ∧ s.hostImage = some f) → imageOk f.bytes f.sig = true →
        s.strandsOk → (∀ t, (s.tile t).filters = []) → ∃ s' z,
        exec .powerOnReset s = .next s' ∧ (s'.die d).booted = true ∧ (s'.die d).failed = false ∧
        (s'.die d).image = f.bytes ∧
        (∀ m, (s.die d).meas[0]? = some m → (s'.die d).meas[0]? = some (sha384 (m ++ sha384 f.bytes))) ∧
        s'.strand s.uids = some z ∧ z.ctx.sup = true ∧ z.tile = Config.tile0 d ∧
        z.ctx.pc = Config.firmwareEntry f.bytes ∧
        ∀ j, cellTile j < Config.tiles → Config.dieOf (cellTile j) = d → s'.byte j = emptyByte) ∧
      (d < Config.dies → (s.flash = none ∧ s.hostImage = none) ∨ (∃ f, s.flash = some f ∧ imageOk f.bytes f.sig = false) ∨
          (∃ f, s.flash = none ∧ s.hostImage = some f ∧ imageOk f.bytes f.sig = false) → ∃ s',
        exec .powerOnReset s = .next s' ∧ (s'.die d).booted = false ∧ (s'.die d).failed = true ∧
        s'.strands = s.strands ∧ ∀ j, s'.byte j = s.byte j)) ∧
    (∀ d, s.event = .supervisorCoreRestart d →
      (Config.dies ≤ d → exec .supervisorCoreRestart s = .next s) ∧
      (d < Config.dies → s.flash = none → s.hostImage = none → s.strandsOk →
        let t := Config.tile0 d
        (s.matrix t).waiters = [] → (s.vunit t 0).waiters = [] → ∃ s', exec .supervisorCoreRestart s = .next s' ∧
        (∀ v y, s.strand v = some y → y.ctx.sup = true → y.home = t → s'.strand v = none) ∧
        (∀ v y, s.strand v = some y → ¬ (y.ctx.sup = true ∧ y.home = t) → ∃ z, s'.strand v = some z ∧ z.ctx = y.ctx) ∧
        (s'.die d).booted = false ∧ (s'.die d).failed = (s.die d).failed ∧ (s'.core t 0).stopped = true ∧
        ∀ j, (∀ t i, ¬ within (lentCell t i) 256 j) → s'.byte j = s.byte j)) ∧
    (∀ n, s.event = .quoteRequest n → ∃ s' sigs own, exec .quoteRequest s = .next s' ∧
      s' = { s with reports := s'.reports } ∧ s'.reports = s.reports ++
        [[36] ++ (List.range 38).flatMap (fun d => (s.die d).meas.toList.flatten) ++ n ++ sigs ++ own]) ∧
    (∀ d n, s.event = .thermalGovernance d n → ∃ s', exec .thermalGovernance s = .next s' ∧ s' = { s with dies := s'.dies } ∧
      s'.die d = { s.die d with hot := max (s.die d).hot (s.now + n), delays := (s.die d).delays + 1 }) ∧
    (s.event = .thermalShutdown → ∃ s', exec .thermalShutdown s = .next s' ∧ s'.powered = false ∧
      s'.msix = s.msix ++ [0] ∧ (∀ j, s'.byte j = emptyByte) ∧ step s' = .fault .poweredDown) ∧
    (∀ d m bad, s.event = .messageRingWrite d m bad →
      let x := s.die d
      let t := Config.tile0 d
      let q := x.mq ++ m.toList
      let read : Job := ⟨.ring d 0, t, none, true, 0, [⟨(s.regs t).msgring &&& ~~~63#64, none, permRW, some (.load 16)⟩],
        none, [], []⟩
      ∃ s', exec .messageRingWrite s = .next s' ∧ s'.strands = s.strands ∧ (∀ j, s'.byte j = s.byte j) ∧
        (m ≠ none → bad = true → s' = { s with dies := s'.dies } ∧ s'.die d = { x with errors := x.errors + 1 }) ∧
        ((m = none ∨ bad = false) →
          (x.ringing = true ∨ q = [] ∨ (s.regs t).msgring.getLsbD 0 = false → s' = { s with dies := s'.dies } ∧
            s'.die d = { x with mq := q }) ∧
          (x.ringing = false → q ≠ [] → (s.regs t).msgring.getLsbD 0 = true →
            s'.die d = { x with mq := q, ringing := true } ∧ s.Begins s' read))) ∧
    (∀ id j d bs m rest, s.UnitDone id j → j.who = .ring d 0 → j.got = [.data bs] → (s.die d).mq = m :: rest →
      let base := (s.regs (Config.tile0 d)).msgring &&& ~~~63#64
      let prod : BitVec 32 := BitVec.ofNat 32 (leValue (bs.take 4))
      let cons : BitVec 32 := BitVec.ofNat 32 (leValue ((bs.drop 8).take 4))
      ∃ s', step s = .next s' ∧ (∀ k, s'.byte k = s.byte k) ∧
        (256 ≤ (prod - cons).toNat → s'.die d = { s.die d with ringing := false } ∧
          s.Due s' 1 (.messageRingWrite d none false)) ∧
        ((prod - cons).toNat < 256 → s'.die d = s.die d ∧ s.Begins s' ⟨.ring d 1, Config.tile0 d, none, true, 0,
          [⟨base + BitVec.ofNat 64 (64 + 32 * (prod.toNat % 256)), none, permW,
             some (.write (bytesOf 8 m.m0 ++ bytesOf 8 m.m1 ++ bytesOf 8 m.m2 ++ bytesOf 8 m.m3))⟩,
           ⟨base, none, permW, some (.write (bytesOf 4 ((prod + 1).setWidth 64)))⟩], none, [], []⟩)) ∧
    (∀ id j d m rest, s.UnitDone id j → j.who = .ring d 1 → (s.die d).mq = m :: rest → ∃ s', step s = .next s' ∧
      (∀ k, s'.byte k = s.byte k) ∧
      (allDone j.got = true → (s'.die d).mq = rest ∧ (rest = [] → (s'.die d).ringing = false)) ∧
      (allDone j.got = false → s'.die d = { s.die d with ringing := false } ∧ s.Due s' 1 (.messageRingWrite d none false))) ∧
    (∀ img, s.event = .imageLoad img → (imgRejected s img = true → exec .imageLoad s = .next s) ∧
      (imgRejected s img = false → ∃ s', exec .imageLoad s = .next s' ∧
        (∀ k l, img.launches[k]? = some l → s.Due s' k (.launchLine l)) ∧
        (∀ v, s.strand v = none → s'.strand v = none) ∧
        (∀ v y, s.strand v = some y → ∃ z, s'.strand v = some z ∧ z = { y with walking := z.walking }) ∧
        ∀ t, t < Config.tiles → s.partOfTile t = img.part → (s'.tile t).tlb = [] ∧ (s'.tile t).icache = [] ∧
          (s'.regs t).ptbase = BitVec.ofNat 64 (tableDomain img * 32 + 1))) ∧
    (∀ (e : Entry) rest l, s.powered = true → s.dueEvent 1 = some (e, rest) → e.ev = .launchLine l → s.strandsOk →
      (s.tile l.t0).filters = [] → ∃ s' z, step s = .next s' ∧ s'.strand s.uids = some z ∧ z.ctx.pc = l.pc ∧
        z.ctx.g[0] = l.g0 ∧ (∀ r, 1 ≤ r → r < 24 → z.ctx.g[r]? = some 0) ∧ z.ctx.lin = l.lin ∧ z.ctx.cls = l.cls ∧
        z.ctx.sup = false ∧ z.tile = l.t0 ∧ z.ctx.sid = BitVec.ofNat 12 l.t0 ++ (s.tile l.t0).serial) ∧
    (∀ part tiles, s.event = .tileMapWrite part tiles →
      let out (p : Nat) : Prop := p = 48 ∨ (s.part p).mode = .saved ∨ (s.part p).mode = .stopped
      let may := part < 48 ∧ (∀ t ∈ tiles, t < Config.tiles) ∧ out part ∧ ∀ t ∈ tiles, out (s.partOfTile t)
      (may → ∃ s', exec .tileMapWrite s = .next s' ∧
        s' = { s with partOf := s'.partOf } ∧ ∀ t, t < Config.tiles → s'.partOfTile t =
          if t ∈ tiles then part else if s.partOfTile t = part then 48 else s.partOfTile t) ∧
      (¬ may → exec .tileMapWrite s = .next s)) ∧
    (∀ t r, s.event = .forwardingEntryInstall t r →
      let p := s.partOfTile t
      let out : Prop := p = 48 ∨ (s.part p).mode = .saved ∨ (s.part p).mode = .stopped
      let used := (s.retired.filter (fun e => e.2.isSome && e.1 != t && Config.dieOf e.1 == Config.dieOf t)).length
      (¬ out ∨ Config.tiles ≤ t → exec .forwardingEntryInstall s = .next s) ∧
      (t < Config.tiles → out → r = none → ∃ s', exec .forwardingEntryInstall s = .next s' ∧ SMap.find? s'.retired t = some none ∧
        ∀ j, s'.byte j = s.byte j) ∧
      (∀ x, r = some x → 8 ≤ used ∨ Config.tiles ≤ x ∨ x = t ∨ s.partOfTile x ≠ p → exec .forwardingEntryInstall s = .next s) ∧
      (∀ x, t < Config.tiles → out → r = some x → x < Config.tiles → x ≠ t → s.partOfTile x = p → used < 8 → ∃ s',
        exec .forwardingEntryInstall s = .next s' ∧ SMap.find? s'.retired t = some (some x) ∧
        (SMap.rising s.retired = true → SMap.find? s.retired x = none → s'.real t = x) ∧
        (SMap.inRange s.saved (savedNo t 0) (savedNo (t + 1) 0) = [] → ∀ j, s'.byte j = s.byte j)))

/-! ## Encodings, a step, reset and invariants -/

/-- R34, R39, R40: decoding the word of a well-formed instruction under any guard gives the instruction back, and, but for
the two majors without a guard, the guard: no operand bit is lost. -/
def Obligations.DecodeEncode : Prop :=
  ∀ (g : Guard) (i : Instr) (w : Half), i.WellFormed → encode g i = some w →
    decode w = .ok i ∧ (unguarded w = false → guardOf w = g)

/-- R34, R39 to R41: every word that the decoder accepts is the word of a well-formed instruction under the word's own
guard, bit for bit: no reserved bit is ignored, and no two instructions share a word. -/
def Obligations.DecodeSound : Prop :=
  ∀ (w : Half) (i : Instr), decode w = .ok i → i.WellFormed ∧ encode (guardOf w) i = some w

/-- The worked encodings of chapter 3, and the words that its table calls illegal. -/
def Obligations.DecodeWords : Prop :=
  decode 0x040110C0 = .ok (.add 1 2 3) ∧ guardOf 0x040110C0 = always ∧
  decode 0x08E52FFF = .ok (.addi 5 5 (-1)) ∧ guardOf 0x08E52FFF = ⟨3, true⟩ ∧
  decode 0x4C04B002 = .ok (.ldd 4 22 2) ∧ decode 0x20053A82 = .ok (.cmpLtImm 2 7 40) ∧
  decode 0x29281234 = .ok (.movz 9 1 0x1234) ∧ decode 0x305FFFFD = .ok (.br (-3)) ∧
  decode 0x80081303 = .ok (.vfma 2 0 1 3) ∧ decode 0xA0081200 = .ok (.fetch 8 1 2) ∧
  decode 0x74004800 = .ok (.fenceRel 2 false true false) ∧ decode 0xE0030032 = .ok (.csrr 3 0x32) ∧
  decode 0 = .error .function ∧ decode 0x94000000 = .error .major

/-- R34 to R36, R41, R71, R112, R260: what one step does. An event that is due before the issues of the cycle is performed.
Else the strand chosen, one whose next instruction samples what the cycle leaves after all others (R109), takes a pending
deferred trap; else, with translation on and its word in the tile's instruction cache, the word is decoded: an illegal word,
and a supervisor-only one in user mode, are cause 0x01 with the word; under a false guard it retires with no effect; else it
is executed. Where several cores may issue, their order is the model's choice (log entry 6). The model's own readings in it:
log entries 6, 10, 17, 28. -/
def Obligations.StepRunsDecoded : Prop :=
  ∀ (s : State), s.powered = true →
    (∀ e rest, s.dueEvent 1 = some (e, rest) → isRow e.ev = true →
      step s = exec e.ev.instr { s with agenda := rest, event := e.ev, arr := e.arr, tie := e.tie }) ∧
    (∀ (s0 : State) (u : Nat) (x : Strand) (t c n : Nat), s.dueEvent 1 = none →
      let first := s.issuers.filter (fun u => !(s.samplesNext u))
      (s.choose first = some (u, s0) ∨ (first = [] ∧ s.dueEvent 4 = none ∧ s.choose s.issuers = some (u, s0))) →
      s.strand u = some x → x.place = .slot t c n →
      s0 = { s with ctr := s0.ctr } ∧
      (x.refusals ≠ [] →
        step s = exec .deferredRefusalTrap { s0 with focus := u, event := .deferredRefusalTrap u }) ∧
      (x.refusals = [] → x.engTrap ≠ none →
        step s = exec .deferredEngineTrap { s0 with focus := u, event := .deferredEngineTrap u }) ∧
      (x.refusals = [] → x.engTrap = none → (s.regs x.tile).ptbase.getLsbD 0 = true → ∀ l : ILine,
        SMap.find? (s.tile x.tile).icache (x.ctx.pc.toNat / 64) = some l →
        let w : Half := BitVec.ofNat 32 (leValue ((l.bytes.drop (x.ctx.pc.toNat % 64)).take 4))
        let s1 : State := { s0 with focus := u, word := w }
        (∀ i, decode w = .ok i → (supervisorOnly i = true → x.ctx.sup = true) →
          (unguarded w = true ∨ guardHolds (guardOf w) x.ctx = true) → step s = exec (preemptForm i x) s1) ∧
        (∀ i, decode w = .ok i → (supervisorOnly i = true → x.ctx.sup = true) → unguarded w = false →
          guardHolds (guardOf w) x.ctx = false → x.prog.phase = 0 →
          ∃ s', step s = .next s' ∧ s1.RetiredAs s' u t c n x (x.ctx.pc + 4)) ∧
        (((∃ e, decode w = .error e) ∨ ∃ i, decode w = .ok i ∧ supervisorOnly i = true ∧ x.ctx.sup = false) →
          x.prog.phase = 0 → x.ctx.tvec ≠ 0 →
          ∃ s', step s = .next s' ∧ s1.TrappedAs s' u t c n x 1 (w.setWidth 64))))

/-- What the spec's maps give for reset: every supervisor CSR of every tile, and `modnum` (R281), an empty TLB (R55),
transfer ids 0 (R174), every handle unset (R216), the matrix status 0 and nothing queued (R213), the vector shape 16
by 64 (R110), the measurement registers zero (R295), a service table without entries (R286), the cycle counter 0 (R95,
R110), and the boot of each die due (R294). -/
def Obligations.ResetState : Prop :=
  let s := State.reset
  s.powered = true ∧ s.now = 0 ∧ s.modnum = 0 ∧ s.memoryOk ∧ s.strandsOk ∧ (∀ u, s.strand u = none) ∧
  (∀ t, (s.tile t).tlb = [] ∧ s.regs t =
    { kdepth := 256, klend := 4096, wdepth := 64, agestep := 65536, xrefresh := 2048, ocap := 256, ptbase := 0,
      scrubrate := 256, slicemin := 0, msgring := 0, dbgctl := 0, starget := t, dtvec := 0, dpinlim := 4,
      dpinmin := 16, dpinhold := 4096 }) ∧
  (∀ t h, s.cb t h = none) ∧ (∀ t ch, ch < 8 → (s.chan t ch).fid = 0 ∧ (s.chan t ch).fdone = 0) ∧
  (∀ t, (s.matrix t).status = 0) ∧ (∀ t c, (s.vunit t c).rows = 16 ∧ (s.vunit t c).lanes = 64) ∧
  (∀ d i, i < 8 → (s.die d).meas[i]? = some (List.replicate 48 0)) ∧ s.svc = [] ∧
  (∀ d, d < 36 → ∃ e ∈ s.agenda, e.due = 0 ∧ e.ev = .powerOnReset d)

/-- Every step keeps memory in its canonical form: byte numbers strictly rising, and no entry that reads as an unlisted
byte. -/
def Obligations.StepKeepsMemoryCanonical : Prop :=
  ∀ (s s' : State), s.memoryOk → step s = .next s' → s'.memoryOk

/-- Every step keeps the list of strands in order: strictly rising numbers, all below the next number to be given. -/
def Obligations.StepKeepsStrandsListed : Prop :=
  ∀ (s s' : State), s.strandsOk → step s = .next s' → s'.strandsOk
end

