-- ==== Sys2Proof/Laws/SMap.lean ====
section
/-! SUPPORT. Laws of sparse data. -/

namespace Sys2Proof
variable {α : Type}

theorem SMap.find?_adjust (m : SMap α) (i j : Nat) (f : α → α) :
    SMap.find? (SMap.adjust m i f) j = if j = i then (SMap.find? m j).map f else SMap.find? m j := by
  induction m with
  | nil => simp [SMap.adjust, SMap.find?]
  | cons e m ih =>
    obtain ⟨k, v⟩ := e
    simp only [SMap.adjust]
    split
    · subst_vars
      simp only [SMap.find?]
      by_cases h : k = j
      · simp [h]
      · simp [h, Ne.symm h]
    · split
      · simp only [SMap.find?]
        by_cases h : j = i
        · subst h; simp [*]
        · simp [h]
      · simp only [SMap.find?, ih]
        by_cases h : j = i
        · subst h; simp [*]
        · simp [h]

@[simp] theorem SMap.find?_adjust_self (m : SMap α) (i : Nat) (f : α → α) :
    SMap.find? (SMap.adjust m i f) i = (SMap.find? m i).map f := by simp [SMap.find?_adjust]

theorem SMap.find?_adjust_ne (m : SMap α) {i j : Nat} (f : α → α) (h : j ≠ i) :
    SMap.find? (SMap.adjust m i f) j = SMap.find? m j := by simp [SMap.find?_adjust, h]

@[simp] theorem SMap.find?_put_self (m : SMap α) (i : Nat) (x : α) : SMap.find? (SMap.put m i x) i = some x := by
  induction m with
  | nil => simp [SMap.put, SMap.find?]
  | cons e m ih =>
    obtain ⟨k, v⟩ := e
    simp only [SMap.put]
    split
    · simp [SMap.find?]
    · split
      · simp [SMap.find?]
      · simp [SMap.find?, *]

theorem SMap.find?_put_ne (m : SMap α) {i j : Nat} (x : α) (h : j ≠ i) :
    SMap.find? (SMap.put m i x) j = SMap.find? m j := by
  induction m with
  | nil => simp only [SMap.put, SMap.find?]; rw [if_neg (Ne.symm h)]; split <;> rfl
  | cons e m ih =>
    obtain ⟨k, v⟩ := e
    simp only [SMap.put]
    split
    · subst_vars; simp only [SMap.find?, if_neg (Ne.symm h)]
    · split
      · simp only [SMap.find?]
        split
        · omega
        · split
          · rw [if_neg (by omega), if_pos (by omega)]
          · rfl
      · simp only [SMap.find?, ih]

@[simp] theorem SMap.getD_put_self (m : SMap α) (i : Nat) (x d : α) : SMap.getD (SMap.put m i x) i d = x := by
  simp [SMap.getD]

theorem SMap.getD_put_ne (m : SMap α) {i j : Nat} (x d : α) (h : j ≠ i) :
    SMap.getD (SMap.put m i x) j d = SMap.getD m j d := by simp [SMap.getD, SMap.find?_put_ne _ _ h]

end Sys2Proof
end

