-- ==== Sys2Proof/Laws/Memory.lean ====
section
/-! SUPPORT. Laws of memory: reading after writing, what a write leaves alone, and that every memory operation keeps the
canonical form. -/

namespace Sys2Proof
variable {α : Type}

/-! ## Rising keys -/

theorem SMap.risingFrom_iff (m : SMap α) (lo : Nat) :
    SMap.risingFrom lo m = true ↔ (∀ e ∈ m, lo ≤ e.1) ∧ m.Pairwise (fun a b => a.1 < b.1) := by
  induction m generalizing lo with
  | nil => simp [SMap.risingFrom]
  | cons e m ih =>
    obtain ⟨k, v⟩ := e
    simp only [SMap.risingFrom, Bool.and_eq_true, decide_eq_true_eq, ih, List.mem_cons, forall_eq_or_imp,
      List.pairwise_cons]
    constructor
    · rintro ⟨h1, h2, h3⟩
      exact ⟨⟨h1, fun e he => by have := h2 e he; omega⟩, fun e he => by have := h2 e he; omega, h3⟩
    · rintro ⟨⟨h1, -⟩, h2, h3⟩
      exact ⟨h1, fun e he => by have := h2 e he; omega, h3⟩

theorem SMap.rising_iff (m : SMap α) : SMap.rising m = true ↔ m.Pairwise (fun a b => a.1 < b.1) := by
  simp [SMap.rising, SMap.risingFrom_iff]

theorem SMap.mem_put {m : SMap α} {i : Nat} {x : α} {e : Nat × α} (h : e ∈ SMap.put m i x) : e = (i, x) ∨ e ∈ m := by
  induction m with
  | nil => simpa [SMap.put] using h
  | cons a m ih =>
    obtain ⟨k, v⟩ := a
    simp only [SMap.put] at h
    split at h
    · simp only [List.mem_cons] at h ⊢; tauto
    · split at h
      · simpa using h
      · simp only [List.mem_cons] at h ⊢
        rcases h with h | h
        · exact .inr (.inl h)
        · rcases ih h with h | h <;> tauto

theorem SMap.mem_erase {m : SMap α} {i : Nat} {e : Nat × α} (h : e ∈ SMap.erase m i) : e ∈ m := by
  induction m with
  | nil => simp [SMap.erase] at h
  | cons a m ih =>
    obtain ⟨k, v⟩ := a
    simp only [SMap.erase] at h
    split at h
    · exact List.mem_cons_of_mem _ h
    · split at h
      · exact h
      · simp only [List.mem_cons] at h ⊢
        exact h.imp_right ih

theorem SMap.rising_put {m : SMap α} (i : Nat) (x : α) (h : SMap.rising m = true) : SMap.rising (SMap.put m i x) = true := by
  rw [SMap.rising_iff] at h ⊢
  induction m with
  | nil => simp [SMap.put]
  | cons a m ih =>
    obtain ⟨k, v⟩ := a
    rw [List.pairwise_cons] at h
    simp only [SMap.put]
    split
    · subst_vars; exact List.pairwise_cons.2 h
    · split
      · refine List.pairwise_cons.2 ⟨fun e he => ?_, List.pairwise_cons.2 h⟩
        rcases List.mem_cons.1 he with rfl | he
        · simpa
        · have := h.1 e he; omega
      · refine List.pairwise_cons.2 ⟨fun e he => ?_, ih h.2⟩
        rcases SMap.mem_put he with rfl | he
        · show k < i; omega
        · exact h.1 e he

theorem SMap.rising_erase {m : SMap α} (i : Nat) (h : SMap.rising m = true) : SMap.rising (SMap.erase m i) = true := by
  rw [SMap.rising_iff] at h ⊢
  induction m with
  | nil => simp [SMap.erase]
  | cons a m ih =>
    obtain ⟨k, v⟩ := a
    rw [List.pairwise_cons] at h
    simp only [SMap.erase]
    split
    · exact h.2
    · split
      · exact List.pairwise_cons.2 h
      · exact List.pairwise_cons.2 ⟨fun e he => h.1 e (SMap.mem_erase he), ih h.2⟩

theorem SMap.rising_filter {m : SMap α} (p : Nat × α → Bool) (h : SMap.rising m = true) :
    SMap.rising (List.filter p m) = true := by
  rw [SMap.rising_iff] at h ⊢
  exact h.filter p

theorem SMap.find?_below {m : SMap α} {i : Nat} (h : ∀ e ∈ m, i < e.1) : SMap.find? m i = none := by
  cases m with
  | nil => rfl
  | cons a m =>
    obtain ⟨k, v⟩ := a
    have hk : i < k := h (k, v) (by simp)
    rw [SMap.find?, if_neg (by omega), if_pos hk]

theorem SMap.find?_erase_self {m : SMap α} (i : Nat) (h : SMap.rising m = true) : SMap.find? (SMap.erase m i) i = none := by
  rw [SMap.rising_iff] at h
  induction m with
  | nil => rfl
  | cons a m ih =>
    obtain ⟨k, v⟩ := a
    rw [List.pairwise_cons] at h
    simp only [SMap.erase]
    split
    · rename_i hk; exact SMap.find?_below (fun e he => hk ▸ h.1 e he)
    · split
      · exact SMap.find?_below (fun e he => by
          rcases List.mem_cons.1 he with rfl | he
          · assumption
          · have := h.1 e he; omega)
      · simp only [SMap.find?, ih h.2, *, if_false]

theorem SMap.find?_erase_ne {m : SMap α} {i j : Nat} (h : SMap.rising m = true) (hj : j ≠ i) :
    SMap.find? (SMap.erase m i) j = SMap.find? m j := by
  rw [SMap.rising_iff] at h
  induction m with
  | nil => rfl
  | cons a m ih =>
    obtain ⟨k, v⟩ := a
    rw [List.pairwise_cons] at h
    simp only [SMap.erase]
    split
    · rename_i hk
      subst hk
      rw [SMap.find?, if_neg (Ne.symm hj)]
      split
      · exact SMap.find?_below (fun e he => by have := h.1 e he; omega)
      · rfl
    · split
      · rfl
      · simp only [SMap.find?, ih h.2]

theorem SMap.getD_set_self [DecidableEq α] {m : SMap α} (i : Nat) (x d : α) (h : SMap.rising m = true) :
    SMap.getD (SMap.set m i x d) i d = x := by
  rw [SMap.set]
  split
  · rename_i hx; simp [SMap.getD, SMap.find?_erase_self i h, hx]
  · simp

theorem SMap.getD_set_ne [DecidableEq α] {m : SMap α} {i j : Nat} (x d : α) (h : SMap.rising m = true) (hj : j ≠ i) :
    SMap.getD (SMap.set m i x d) j d = SMap.getD m j d := by
  rw [SMap.set]
  split
  · simp [SMap.getD, SMap.find?_erase_ne h hj]
  · exact SMap.getD_put_ne _ _ _ hj

/-- Two maps with rising keys that answer alike are the same. -/
theorem SMap.ext_find? {m n : SMap α} (hm : SMap.rising m = true) (hn : SMap.rising n = true)
    (h : ∀ i, SMap.find? m i = SMap.find? n i) : m = n := by
  rw [SMap.rising_iff] at hm hn
  induction m generalizing n with
  | nil =>
    cases n with
    | nil => rfl
    | cons b n => have := h b.1; simp [SMap.find?] at this
  | cons a m ih =>
    obtain ⟨k, v⟩ := a
    cases n with
    | nil => have := h k; simp [SMap.find?] at this
    | cons b n =>
      obtain ⟨l, w⟩ := b
      rw [List.pairwise_cons] at hm hn
      have hk := h k
      have hl := h l
      simp only [SMap.find?, if_true] at hk hl
      have e : k = l := by
        by_contra hne
        rw [if_neg (Ne.symm hne)] at hk
        rw [if_neg hne] at hl
        split at hk
        · simp at hk
        · rw [if_pos (by omega)] at hl; simp at hl
      subst e
      simp only [if_true, Option.some.injEq] at hk
      subst hk
      congr 1
      refine ih hm.2 hn.2 (fun i => ?_)
      have hi := h i
      simp only [SMap.find?] at hi
      by_cases h1 : k = i
      · subst h1
        rw [SMap.find?_below hm.1, SMap.find?_below hn.1]
      · simp only [if_neg h1] at hi
        by_cases h2 : i < k
        · rw [SMap.find?_below (fun e he => by have := hm.1 e he; omega),
            SMap.find?_below (fun e he => by have := hn.1 e he; omega)]
        · simpa only [if_neg h2] using hi

end Sys2Proof

namespace Sys2Proof.Machine
open Sys2Proof

/-! ## The canonical form -/

theorem Memory.wf_iff (m : SMap Byte) : Memory.wf m = true ↔ SMap.rising m = true ∧ ∀ c ∈ m, c.2 ≠ emptyByte := by
  simp [Memory.wf]

theorem Memory.wf_set {m : SMap Byte} (k : Nat) (b : Byte) (h : Memory.wf m = true) :
    Memory.wf (SMap.set m k b emptyByte) = true := by
  rw [Memory.wf_iff] at h ⊢
  rw [SMap.set]
  split
  · exact ⟨SMap.rising_erase k h.1, fun c hc => h.2 c (SMap.mem_erase hc)⟩
  · refine ⟨SMap.rising_put k b h.1, fun c hc => ?_⟩
    rcases SMap.mem_put hc with rfl | hc
    · assumption
    · exact h.2 c hc

theorem Memory.wf_filter {m : SMap Byte} (p : Nat × Byte → Bool) (h : Memory.wf m = true) :
    Memory.wf (List.filter p m) = true := by
  rw [Memory.wf_iff] at h ⊢
  exact ⟨SMap.rising_filter p h.1, fun c hc => h.2 c (List.mem_of_mem_filter hc)⟩

/-- Two memories in canonical form that read the same are the same. -/
theorem Memory.ext_byte {s t : State} (hs : s.memoryOk) (ht : t.memoryOk) (h : ∀ k, s.byte k = t.byte k) :
    s.mem = t.mem := by
  have hs' := (Memory.wf_iff _).1 hs
  have ht' := (Memory.wf_iff _).1 ht
  have found {m : SMap Byte} {i : Nat} {b : Byte} (h : SMap.find? m i = some b) : (i, b) ∈ m := by
    induction m with
    | nil => simp [SMap.find?] at h
    | cons a m ih =>
      obtain ⟨k, v⟩ := a
      simp only [SMap.find?] at h
      split at h
      · subst_vars; simp at h; simp [h]
      · split at h
        · simp at h
        · exact List.mem_cons_of_mem _ (ih h)
  refine SMap.ext_find? hs'.1 ht'.1 (fun i => ?_)
  have hi := h i
  simp only [State.byte, SMap.getD] at hi
  cases e1 : SMap.find? s.mem i with
  | none =>
    cases e2 : SMap.find? t.mem i with
    | none => rfl
    | some b => rw [e1, e2] at hi; exact absurd hi.symm (ht'.2 _ (found e2))
  | some a =>
    cases e2 : SMap.find? t.mem i with
    | none => rw [e1, e2] at hi; exact absurd hi (hs'.2 _ (found e1))
    | some b => rw [e1, e2] at hi; simp at hi; rw [hi]

theorem reset_memoryOk : State.reset.memoryOk := by decide

/-! ## One byte -/

theorem State.setByte_memoryOk {s : State} (k : Nat) (b : Byte) (h : s.memoryOk) : (s.setByte k b).memoryOk :=
  Memory.wf_set k b h

theorem State.byte_setByte_self {s : State} (k : Nat) (b : Byte) (h : s.memoryOk) : (s.setByte k b).byte k = b :=
  SMap.getD_set_self k b emptyByte ((Memory.wf_iff _).1 h).1

theorem State.byte_setByte_ne {s : State} {k j : Nat} (b : Byte) (h : s.memoryOk) (hj : j ≠ k) :
    (s.setByte k b).byte j = s.byte j :=
  SMap.getD_set_ne b emptyByte ((Memory.wf_iff _).1 h).1 hj

/-! ## Several bytes -/

theorem State.writeBytes_memoryOk {s : State} (k : Nat) (bs : List Byte) (h : s.memoryOk) : (s.writeBytes k bs).memoryOk := by
  induction bs generalizing s k with
  | nil => exact h
  | cons b bs ih => exact ih _ (State.setByte_memoryOk k b h)

theorem State.writeAt_memoryOk {s : State} (k : Nat) (bs : List (Nat × Byte)) (h : s.memoryOk) : (s.writeAt k bs).memoryOk := by
  induction bs generalizing s with
  | nil => exact h
  | cons b bs ih => exact ih (State.setByte_memoryOk _ _ h)

/-- A write at offsets leaves every other byte alone. -/
theorem State.byte_writeAt_ne {s : State} (k : Nat) (bs : List (Nat × Byte)) (j : Nat) (h : s.memoryOk)
    (hj : ∀ b ∈ bs, j ≠ k + b.1) : (s.writeAt k bs).byte j = s.byte j := by
  induction bs generalizing s with
  | nil => rfl
  | cons b bs ih =>
    rw [State.writeAt, ih (State.setByte_memoryOk _ _ h) (fun c hc => hj c (List.mem_cons_of_mem _ hc)),
      State.byte_setByte_ne _ h (hj b (by simp))]

/-- A write at offsets of which none repeats is read back. -/
theorem State.byte_writeAt_mem {s : State} (k : Nat) (bs : List (Nat × Byte)) (o : Nat) (b : Byte) (h : s.memoryOk)
    (hn : (bs.map (·.1)).Nodup) (hb : (o, b) ∈ bs) : (s.writeAt k bs).byte (k + o) = b := by
  induction bs generalizing s with
  | nil => simp at hb
  | cons c bs ih =>
    rw [List.map_cons, List.nodup_cons] at hn
    rw [State.writeAt]
    rcases List.mem_cons.1 hb with rfl | hb
    · rw [State.byte_writeAt_ne _ _ _ (State.setByte_memoryOk _ _ h), State.byte_setByte_self _ _ h]
      intro d hd he
      have : d.1 = o := by omega
      exact hn.1 (List.mem_map.2 ⟨d, hd, this⟩)
    · exact ih (State.setByte_memoryOk _ _ h) hn.2 hb

/-! ## What leaves memory alone -/

@[simp] theorem State.free_mem (s : State) (k : Config.Open) : (s.free k).2.mem = s.mem := rfl
@[simp] theorem State.keepBehind_mem (s : State) (k : Nat) : (s.keepBehind k).mem = s.mem := by
  simp only [State.keepBehind]; split <;> rfl
@[simp] theorem State.missCost_mem (s : State) (t : Nat) : (s.missCost t).2.mem = s.mem := rfl
@[simp] theorem State.touch_mem (s : State) (k : Nat) (w : Bool) : (s.touch k w).2.mem = s.mem := by
  simp only [State.touch]
  split
  · rfl
  · split
    · split <;> split <;> simp
    · split <;> split <;> simp [State.writeBackLine]
@[simp] theorem State.clearAt_mem (s : State) (k : Nat) (bs : List (Nat × Byte)) : (s.clearAt k bs).mem = s.mem := by
  simp only [State.clearAt]
  induction bs generalizing s with
  | nil => rfl
  | cons b bs ih =>
    rw [List.foldl_cons, ih]
    split <;> rfl
@[simp] theorem State.wake_mem (s : State) (t : Nat) (w : Watcher) : (s.wake t w).mem = s.mem := rfl
@[simp] theorem State.wakeWhere_mem (s : State) (t : Nat) (p : Watcher → Bool) : (s.wakeWhere t p).mem = s.mem := by
  simp only [State.wakeWhere]
  generalize (s.tile t).watch.filter p = l
  induction l generalizing s with
  | nil => rfl
  | cons w l ih => rw [List.foldl_cons, ih]; rfl
@[simp] theorem State.wakeChanged_mem (a s : State) (t : Nat) : (State.wakeChanged a s t).mem = s.mem := by
  simp only [State.wakeChanged]
  split
  · rfl
  · simp

/-! ## Every operation that writes memory keeps the form -/

theorem State.performRead_memoryOk {s : State} (k n : Nat) (h : s.memoryOk) : (s.performRead k n).2.2.memoryOk := by
  simpa [State.performRead, State.memoryOk] using h

theorem State.performWrite_memoryOk {s : State} (k : Nat) (bs : List (Nat × Byte)) (h : s.memoryOk) :
    (s.performWrite k bs).2.2.memoryOk := by
  simp only [State.performWrite]
  split
  · simpa [State.memoryOk] using h
  · have h1 : ((s.touch k true).2.clearAt k bs).memoryOk := by simpa [State.memoryOk] using h
    have h2 := State.writeAt_memoryOk k bs h1
    simpa [State.memoryOk] using h2

theorem State.performRmw_memoryOk {s : State} (k n : Nat) (f : Rmw) (b e : Word) (h : s.memoryOk) :
    (s.performRmw k n f b e).2.2.memoryOk := by
  simp only [State.performRmw]
  split
  · exact State.performWrite_memoryOk k _ h
  · split
    · simpa [State.memoryOk] using h
    · split
      · simpa [State.memoryOk] using h
      · have h1 : (s.touch k true).2.memoryOk := by simpa [State.memoryOk] using h
        have h2 := fun bs => State.writeAt_memoryOk k bs h1
        simpa [State.memoryOk] using h2 _

theorem State.revert_memoryOk {s : State} (q : Nat) (h : s.memoryOk) : (s.revert q).memoryOk := by
  simp only [State.revert]
  split
  · exact h
  · have h2 := fun bs (t : State) (ht : t.mem = s.mem) =>
      State.writeAt_memoryOk (s := t) q bs (show Memory.wf t.mem = true from ht ▸ h)
    split <;> exact h2 _ _ rfl

theorem State.place_memoryOk {s : State} (k : Nat) (bs : List Byte) (h : s.memoryOk) : (s.place k bs).memoryOk :=
  State.writeAt_memoryOk k _ h

theorem State.putIn_memoryOk {s : State} (x : Desc) (off : Nat) (bs : List Byte) (h : s.memoryOk) :
    (s.putIn x off bs).memoryOk := by
  induction bs generalizing s off with
  | nil => exact h
  | cons b bs ih =>
    rw [State.putIn]
    split
    · exact ih _ (State.setByte_memoryOk _ _ h)
    · exact ih _ h

theorem State.zero_memoryOk {s : State} (k n : Nat) (h : s.memoryOk) : (s.zero k n).memoryOk := Memory.wf_filter _ h

theorem State.clearMemory_memoryOk {s : State} (d : Nat) (h : s.memoryOk) : (s.clearMemory d).memoryOk :=
  Memory.wf_filter _ h

/-! ## Whole records (R60, R264) -/

theorem SMap.find?_of_mem {α : Type} {m : SMap α} {i : Nat} {x : α} (h : SMap.rising m = true) (hx : (i, x) ∈ m) :
    SMap.find? m i = some x := by
  rw [SMap.rising_iff] at h
  induction m with
  | nil => simp at hx
  | cons a m ih =>
    obtain ⟨k, v⟩ := a
    rw [List.pairwise_cons] at h
    rcases List.mem_cons.1 hx with hx | hx
    · cases hx; simp [SMap.find?]
    · have := h.1 _ hx
      simp only at this
      rw [SMap.find?, if_neg (by omega), if_neg (by omega)]
      exact ih h.2 hx

theorem SMap.find?_none_of {α : Type} {m : SMap α} {i : Nat} (h : ∀ e ∈ m, e.1 ≠ i) : SMap.find? m i = none := by
  induction m with
  | nil => rfl
  | cons a m ih =>
    obtain ⟨k, v⟩ := a
    rw [SMap.find?, if_neg (h _ (List.mem_cons_self ..))]
    split
    · rfl
    · exact ih (fun e he => h e (List.mem_cons_of_mem _ he))

/-- Two maps with the same pairs under a key answer alike there. -/
theorem SMap.find?_congr {α : Type} {m n : SMap α} {i : Nat} (hm : SMap.rising m = true) (hn : SMap.rising n = true)
    (h : ∀ x, (i, x) ∈ m ↔ (i, x) ∈ n) : SMap.find? m i = SMap.find? n i := by
  by_cases hx : ∃ x, (i, x) ∈ m
  · obtain ⟨x, hx⟩ := hx
    rw [SMap.find?_of_mem hm hx, SMap.find?_of_mem hn ((h x).1 hx)]
  · rw [SMap.find?_none_of (i := i), SMap.find?_none_of (i := i)]
    · rintro ⟨k, x⟩ he rfl; exact hx ⟨x, (h x).2 he⟩
    · rintro ⟨k, x⟩ he rfl; exact hx ⟨x, he⟩

theorem spanBytes_eq (n k : Nat) (m : SMap Byte) (h : SMap.rising m = true) (hk : ∀ c ∈ m, k ≤ c.1) :
    spanBytes n k m = (List.range n).map (fun i => SMap.getD m (k + i) emptyByte) := by
  induction n generalizing k m with
  | zero => cases m <;> rfl
  | succ n ih =>
    rw [List.range_succ_eq_map, List.map_cons, List.map_map]
    cases m with
    | nil =>
      rw [spanBytes, ih (k + 1) [] h (by simp)]
      rfl
    | cons c m =>
      obtain ⟨q, b⟩ := c
      have hp := (SMap.rising_iff _).1 h
      rw [List.pairwise_cons] at hp
      have hq : k ≤ q := hk _ (List.mem_cons_self ..)
      rw [spanBytes]
      split
      · rename_i hc
        have hc : q = k := hc
        subst hc
        rw [ih (q + 1) m ((SMap.rising_iff _).2 hp.2) (fun e he => hp.1 e he)]
        refine List.cons_eq_cons.2 ⟨by simp [SMap.getD, SMap.find?], List.map_congr_left (fun i _ => ?_)⟩
        simp only [Function.comp, SMap.getD, SMap.find?]
        rw [if_neg (by omega), if_neg (by omega)]
        congr 2
        omega
      · rename_i hc
        have hc : q ≠ k := hc
        rw [ih (k + 1) ((q, b) :: m) h (by
          intro e he
          rcases List.mem_cons.1 he with rfl | he
          · show k + 1 ≤ q
            omega
          · have := hp.1 e he
            simp only at this
            omega)]
        refine List.cons_eq_cons.2 ⟨?_, List.map_congr_left (fun i _ => ?_)⟩
        · simp only [SMap.getD, SMap.find?]
          rw [if_neg (by omega), if_pos (by omega)]
          rfl
        · simp only [Function.comp]
          congr 1
          omega

/-- The bytes of a record read at once are those read one by one. -/
theorem State.spanAt_eq {s : State} (k n : Nat) (h : s.memoryOk) : s.spanAt k n = s.readBytes k n := by
  have hm : SMap.rising s.mem = true := ((Memory.wf_iff _).1 h).1
  have hf := SMap.rising_filter (fun e => decide (k ≤ e.1) && decide (e.1 < k + n)) hm
  rw [State.spanAt, SMap.inRange, spanBytes_eq n k _ hf (by
    intro c hc
    have := (List.mem_filter.1 hc).2
    simp only [Bool.and_eq_true, decide_eq_true_eq] at this
    exact this.1)]
  refine List.map_congr_left (fun i hi => ?_)
  have hi := List.mem_range.1 hi
  unfold State.byte SMap.getD
  rw [SMap.find?_congr hf hm (fun x => by
    simp only [List.mem_filter, Bool.and_eq_true, decide_eq_true_eq, and_iff_left_iff_imp]
    omega)]

theorem State.touchSpan_mem (s : State) (k n : Nat) (w : Bool) : (s.touchSpan k n w).mem = s.mem := by
  unfold State.touchSpan
  induction List.range (n / 64) generalizing s with
  | nil => rfl
  | cons i l ih => rw [List.foldl_cons, ih, State.touch_mem]

/-- The cells of a record: `f` is the byte for each place. -/
def spanCells (k n : Nat) (f : Nat → Byte) : SMap Byte :=
  (List.range n).filterMap (fun i => if f i = emptyByte then none else some (k + i, f i))

theorem mem_spanCells {k n : Nat} {f : Nat → Byte} {c : Nat × Byte} :
    c ∈ spanCells k n f ↔ k ≤ c.1 ∧ c.1 < k + n ∧ c.2 = f (c.1 - k) ∧ c.2 ≠ emptyByte := by
  obtain ⟨q, b⟩ := c
  simp only [spanCells, List.mem_filterMap, List.mem_range]
  constructor
  · rintro ⟨i, hi, hc⟩
    split at hc
    · simp at hc
    · rename_i hb
      simp only [Option.some.injEq, Prod.mk.injEq] at hc
      obtain ⟨rfl, rfl⟩ := hc
      exact ⟨by omega, by omega, by simp, hb⟩
  · rintro ⟨h1, h2, h3, h4⟩
    refine ⟨q - k, by omega, ?_⟩
    rw [if_neg (h3 ▸ h4)]
    simp only [Option.some.injEq, Prod.mk.injEq]
    exact ⟨by omega, h3.symm⟩

theorem spanCells_pairwise (k n : Nat) (f : Nat → Byte) : (spanCells k n f).Pairwise (fun a b => a.1 < b.1) := by
  rw [spanCells, List.pairwise_filterMap]
  refine List.pairwise_lt_range.imp ?_
  intro a b hab c hc d hd
  split at hc
  · simp at hc
  · split at hd
    · simp at hd
    · simp only [Option.some.injEq] at hc hd
      subst hc hd
      simpa using hab

/-- The byte that a record has at a place, or a free value. -/
def Rec.byteAt (r : Rec) (ctr i : Nat) : Byte := (r[i]?.getD none).getD (BitVec.ofNat 8 (Config.free .record (ctr + i)))

theorem State.writeSpan_mem (s : State) (k : Nat) (r : Rec) : ∃ n, (s.writeSpan k r).mem =
    s.mem.filter (fun c => decide (c.1 < k)) ++ spanCells k r.length (r.byteAt n) ++
      s.mem.filter (fun c => decide (k + r.length ≤ c.1)) := by
  refine ⟨(s.touchSpan k r.length true).ctr, ?_⟩
  unfold State.writeSpan
  simp only [State.wakeChanged_mem, State.touchSpan_mem]
  congr 2
  rw [spanCells]
  have : (List.range r.length).zip r = (List.range r.length).map (fun i => (i, r[i]?.getD none)) := by
    apply List.ext_getElem?
    intro i
    simp only [List.getElem?_map]
    by_cases hi : i < r.length
    · simp [hi, List.zip]
    · simp [List.zip, hi]
  rw [this, List.filterMap_map]
  rfl

theorem State.mem_writeSpan {s : State} {k : Nat} {r : Rec} : ∃ n, ∀ c, c ∈ (s.writeSpan k r).mem ↔
    (c ∈ s.mem ∧ ¬ within k r.length c.1) ∨ (within k r.length c.1 ∧ c.2 = r.byteAt n (c.1 - k) ∧ c.2 ≠ emptyByte) := by
  obtain ⟨n, hn⟩ := State.writeSpan_mem s k r
  refine ⟨n, fun c => ?_⟩
  rw [hn]
  simp only [List.mem_append, List.mem_filter, mem_spanCells, decide_eq_true_eq, within]
  constructor
  · rintro ((⟨h, h'⟩ | h) | ⟨h, h'⟩)
    · exact .inl ⟨h, by omega⟩
    · exact .inr ⟨⟨h.1, h.2.1⟩, h.2.2⟩
    · exact .inl ⟨h, by omega⟩
  · rintro (⟨h, h'⟩ | ⟨⟨h1, h2⟩, h3⟩)
    · by_cases hk : c.1 < k
      · exact .inl (.inl ⟨h, hk⟩)
      · exact .inr ⟨h, by omega⟩
    · exact .inl (.inr ⟨h1, h2, h3⟩)

theorem State.writeSpan_memoryOk {s : State} (k : Nat) (r : Rec) (h : s.memoryOk) : (s.writeSpan k r).memoryOk := by
  have h' := (Memory.wf_iff _).1 h
  obtain ⟨n, hn⟩ := State.writeSpan_mem s k r
  obtain ⟨n', hn'⟩ := State.mem_writeSpan (s := s) (k := k) (r := r)
  show Memory.wf _ = true
  rw [Memory.wf_iff]
  refine ⟨?_, fun c hc => ?_⟩
  · rw [hn]
    simp only [SMap.rising_iff] at h' ⊢
    rw [List.pairwise_append, List.pairwise_append]
    refine ⟨⟨h'.1.filter _, spanCells_pairwise _ _ _, ?_⟩, h'.1.filter _, ?_⟩
    · intro a ha b hb
      have := (List.mem_filter.1 ha).2
      have := (mem_spanCells.1 hb).1
      simp only [decide_eq_true_eq] at *
      omega
    · intro a ha b hb
      have hb' := (List.mem_filter.1 hb).2
      simp only [decide_eq_true_eq] at hb'
      rcases List.mem_append.1 ha with ha | ha
      · have ha' := (List.mem_filter.1 ha).2
        simp only [decide_eq_true_eq] at ha'
        omega
      · have := (mem_spanCells.1 ha).2.1
        omega
  · rcases (hn' c).1 hc with h1 | h1
    · exact h'.2 c h1.1
    · exact h1.2.2

/-- A byte outside a record is as before. -/
theorem State.byte_writeSpan_ne {s : State} (k : Nat) (r : Rec) {j : Nat} (h : s.memoryOk) (hj : ¬ within k r.length j) :
    (s.writeSpan k r).byte j = s.byte j := by
  have h' := State.writeSpan_memoryOk k r h
  obtain ⟨n, hn⟩ := State.mem_writeSpan (s := s) (k := k) (r := r)
  unfold State.byte SMap.getD
  rw [SMap.find?_congr ((Memory.wf_iff _).1 h').1 ((Memory.wf_iff _).1 h).1 (fun x => by
    rw [hn]
    simp [hj])]

/-- A byte that a record names is written. -/
theorem State.byte_writeSpan {s : State} (k : Nat) (r : Rec) {i : Nat} {b : Byte} (h : s.memoryOk) (hb : r[i]? = some (some b)) :
    (s.writeSpan k r).byte (k + i) = b := by
  have h' := State.writeSpan_memoryOk k r h
  obtain ⟨n, hn⟩ := State.mem_writeSpan (s := s) (k := k) (r := r)
  have hi : i < r.length := by
    by_contra hi
    rw [List.getElem?_eq_none (by omega)] at hb
    simp at hb
  have hw : within k r.length (k + i) := ⟨by omega, by omega⟩
  have hat : r.byteAt n (k + i - k) = b := by simp [Rec.byteAt, hb]
  unfold State.byte SMap.getD
  by_cases he : b = emptyByte
  · rw [SMap.find?_none_of]
    · simp [he]
    · rintro ⟨q, x⟩ hx rfl
      rcases (hn _).1 hx with h1 | h1
      · exact h1.2 hw
      · exact h1.2.2 (by rw [h1.2.1, hat, he])
  · rw [SMap.find?_of_mem ((Memory.wf_iff _).1 h').1 ((hn (k + i, b)).2 (.inr ⟨hw, hat.symm, he⟩))]
    rfl

theorem State.writeArea_memoryOk {s : State} (t k : Nat) (v : Saved) (h : s.memoryOk) : (s.writeArea t k v).memoryOk :=
  State.writeSpan_memoryOk _ _ h

end Sys2Proof.Machine
end

