-- ==== Sys2Proof/Laws/State.lean ====
section
/-! SUPPORT. What each update of the state leaves alone: one lemma per field. -/

namespace Sys2Proof.Machine
open Sys2Proof

/-! ## `setTile` -/

@[simp] theorem State.setTile_now (s : State) (t : Nat) (x : TileState) : (s.setTile t x).now = s.now := rfl
@[simp] theorem State.setTile_powered (s : State) (t : Nat) (x : TileState) : (s.setTile t x).powered = s.powered := rfl
@[simp] theorem State.setTile_modnum (s : State) (t : Nat) (x : TileState) : (s.setTile t x).modnum = s.modnum := rfl
@[simp] theorem State.setTile_ctr (s : State) (t : Nat) (x : TileState) : (s.setTile t x).ctr = s.ctr := rfl
@[simp] theorem State.setTile_seq (s : State) (t : Nat) (x : TileState) : (s.setTile t x).seq = s.seq := rfl
@[simp] theorem State.setTile_uids (s : State) (t : Nat) (x : TileState) : (s.setTile t x).uids = s.uids := rfl
@[simp] theorem State.setTile_focus (s : State) (t : Nat) (x : TileState) : (s.setTile t x).focus = s.focus := rfl
@[simp] theorem State.setTile_word (s : State) (t : Nat) (x : TileState) : (s.setTile t x).word = s.word := rfl
@[simp] theorem State.setTile_event (s : State) (t : Nat) (x : TileState) : (s.setTile t x).event = s.event := rfl
@[simp] theorem State.setTile_arr (s : State) (t : Nat) (x : TileState) : (s.setTile t x).arr = s.arr := rfl
@[simp] theorem State.setTile_tie (s : State) (t : Nat) (x : TileState) : (s.setTile t x).tie = s.tie := rfl
@[simp] theorem State.setTile_agenda (s : State) (t : Nat) (x : TileState) : (s.setTile t x).agenda = s.agenda := rfl
@[simp] theorem State.setTile_strands (s : State) (t : Nat) (x : TileState) : (s.setTile t x).strands = s.strands := rfl
@[simp] theorem State.setTile_partOf (s : State) (t : Nat) (x : TileState) : (s.setTile t x).partOf = s.partOf := rfl
@[simp] theorem State.setTile_retired (s : State) (t : Nat) (x : TileState) : (s.setTile t x).retired = s.retired := rfl
@[simp] theorem State.setTile_cores (s : State) (t : Nat) (x : TileState) : (s.setTile t x).cores = s.cores := rfl
@[simp] theorem State.setTile_vunits (s : State) (t : Nat) (x : TileState) : (s.setTile t x).vunits = s.vunits := rfl
@[simp] theorem State.setTile_cbs (s : State) (t : Nat) (x : TileState) : (s.setTile t x).cbs = s.cbs := rfl
@[simp] theorem State.setTile_fetches (s : State) (t : Nat) (x : TileState) : (s.setTile t x).fetches = s.fetches := rfl
@[simp] theorem State.setTile_matrices (s : State) (t : Nat) (x : TileState) : (s.setTile t x).matrices = s.matrices := rfl
@[simp] theorem State.setTile_xchs (s : State) (t : Nat) (x : TileState) : (s.setTile t x).xchs = s.xchs := rfl
@[simp] theorem State.setTile_mem (s : State) (t : Nat) (x : TileState) : (s.setTile t x).mem = s.mem := rfl
@[simp] theorem State.setTile_poison (s : State) (t : Nat) (x : TileState) : (s.setTile t x).poison = s.poison := rfl
@[simp] theorem State.setTile_cache (s : State) (t : Nat) (x : TileState) : (s.setTile t x).cache = s.cache := rfl
@[simp] theorem State.setTile_backing (s : State) (t : Nat) (x : TileState) : (s.setTile t x).backing = s.backing := rfl
@[simp] theorem State.setTile_descs (s : State) (t : Nat) (x : TileState) : (s.setTile t x).descs = s.descs := rfl
@[simp] theorem State.setTile_groups (s : State) (t : Nat) (x : TileState) : (s.setTile t x).groups = s.groups := rfl
@[simp] theorem State.setTile_locks (s : State) (t : Nat) (x : TileState) : (s.setTile t x).locks = s.locks := rfl
@[simp] theorem State.setTile_walks (s : State) (t : Nat) (x : TileState) : (s.setTile t x).walks = s.walks := rfl
@[simp] theorem State.setTile_jobs (s : State) (t : Nat) (x : TileState) : (s.setTile t x).jobs = s.jobs := rfl
@[simp] theorem State.setTile_pairs (s : State) (t : Nat) (x : TileState) : (s.setTile t x).pairs = s.pairs := rfl
@[simp] theorem State.setTile_links (s : State) (t : Nat) (x : TileState) : (s.setTile t x).links = s.links := rfl
@[simp] theorem State.setTile_linkSets (s : State) (t : Nat) (x : TileState) : (s.setTile t x).linkSets = s.linkSets := rfl
@[simp] theorem State.setTile_linkParts (s : State) (t : Nat) (x : TileState) : (s.setTile t x).linkParts = s.linkParts := rfl
@[simp] theorem State.setTile_peerPairs (s : State) (t : Nat) (x : TileState) : (s.setTile t x).peerPairs = s.peerPairs := rfl
@[simp] theorem State.setTile_peerTags (s : State) (t : Nat) (x : TileState) : (s.setTile t x).peerTags = s.peerTags := rfl
@[simp] theorem State.setTile_peerHeld (s : State) (t : Nat) (x : TileState) : (s.setTile t x).peerHeld = s.peerHeld := rfl
@[simp] theorem State.setTile_peerOut (s : State) (t : Nat) (x : TileState) : (s.setTile t x).peerOut = s.peerOut := rfl
@[simp] theorem State.setTile_exportPart (s : State) (t : Nat) (x : TileState) : (s.setTile t x).exportPart = s.exportPart := rfl
@[simp] theorem State.setTile_protos (s : State) (t : Nat) (x : TileState) : (s.setTile t x).protos = s.protos := rfl
@[simp] theorem State.setTile_parts (s : State) (t : Nat) (x : TileState) : (s.setTile t x).parts = s.parts := rfl
@[simp] theorem State.setTile_saved (s : State) (t : Nat) (x : TileState) : (s.setTile t x).saved = s.saved := rfl
@[simp] theorem State.setTile_dies (s : State) (t : Nat) (x : TileState) : (s.setTile t x).dies = s.dies := rfl
@[simp] theorem State.setTile_svc (s : State) (t : Nat) (x : TileState) : (s.setTile t x).svc = s.svc := rfl
@[simp] theorem State.setTile_psendq (s : State) (t : Nat) (x : TileState) : (s.setTile t x).psendq = s.psendq := rfl
@[simp] theorem State.setTile_ports (s : State) (t : Nat) (x : TileState) : (s.setTile t x).ports = s.ports := rfl
@[simp] theorem State.setTile_sentFrames (s : State) (t : Nat) (x : TileState) : (s.setTile t x).sentFrames = s.sentFrames := rfl
@[simp] theorem State.setTile_physQueue (s : State) (t : Nat) (x : TileState) : (s.setTile t x).physQueue = s.physQueue := rfl
@[simp] theorem State.setTile_badFrames (s : State) (t : Nat) (x : TileState) : (s.setTile t x).badFrames = s.badFrames := rfl
@[simp] theorem State.setTile_fns (s : State) (t : Nat) (x : TileState) : (s.setTile t x).fns = s.fns := rfl
@[simp] theorem State.setTile_hostReads (s : State) (t : Nat) (x : TileState) : (s.setTile t x).hostReads = s.hostReads := rfl
@[simp] theorem State.setTile_flash (s : State) (t : Nat) (x : TileState) : (s.setTile t x).flash = s.flash := rfl
@[simp] theorem State.setTile_hostImage (s : State) (t : Nat) (x : TileState) : (s.setTile t x).hostImage = s.hostImage := rfl
@[simp] theorem State.setTile_harvest (s : State) (t : Nat) (x : TileState) : (s.setTile t x).harvest = s.harvest := rfl
@[simp] theorem State.setTile_trims (s : State) (t : Nat) (x : TileState) : (s.setTile t x).trims = s.trims := rfl
@[simp] theorem State.setTile_msix (s : State) (t : Nat) (x : TileState) : (s.setTile t x).msix = s.msix := rfl
@[simp] theorem State.setTile_mailbox (s : State) (t : Nat) (x : TileState) : (s.setTile t x).mailbox = s.mailbox := rfl
@[simp] theorem State.setTile_reports (s : State) (t : Nat) (x : TileState) : (s.setTile t x).reports = s.reports := rfl

/-! ## `onTile` -/

@[simp] theorem State.onTile_now (s : State) (t : Nat) (f : TileState → TileState) : (s.onTile t f).now = s.now := rfl
@[simp] theorem State.onTile_powered (s : State) (t : Nat) (f : TileState → TileState) : (s.onTile t f).powered = s.powered := rfl
@[simp] theorem State.onTile_modnum (s : State) (t : Nat) (f : TileState → TileState) : (s.onTile t f).modnum = s.modnum := rfl
@[simp] theorem State.onTile_ctr (s : State) (t : Nat) (f : TileState → TileState) : (s.onTile t f).ctr = s.ctr := rfl
@[simp] theorem State.onTile_seq (s : State) (t : Nat) (f : TileState → TileState) : (s.onTile t f).seq = s.seq := rfl
@[simp] theorem State.onTile_uids (s : State) (t : Nat) (f : TileState → TileState) : (s.onTile t f).uids = s.uids := rfl
@[simp] theorem State.onTile_focus (s : State) (t : Nat) (f : TileState → TileState) : (s.onTile t f).focus = s.focus := rfl
@[simp] theorem State.onTile_word (s : State) (t : Nat) (f : TileState → TileState) : (s.onTile t f).word = s.word := rfl
@[simp] theorem State.onTile_event (s : State) (t : Nat) (f : TileState → TileState) : (s.onTile t f).event = s.event := rfl
@[simp] theorem State.onTile_arr (s : State) (t : Nat) (f : TileState → TileState) : (s.onTile t f).arr = s.arr := rfl
@[simp] theorem State.onTile_tie (s : State) (t : Nat) (f : TileState → TileState) : (s.onTile t f).tie = s.tie := rfl
@[simp] theorem State.onTile_agenda (s : State) (t : Nat) (f : TileState → TileState) : (s.onTile t f).agenda = s.agenda := rfl
@[simp] theorem State.onTile_strands (s : State) (t : Nat) (f : TileState → TileState) : (s.onTile t f).strands = s.strands := rfl
@[simp] theorem State.onTile_partOf (s : State) (t : Nat) (f : TileState → TileState) : (s.onTile t f).partOf = s.partOf := rfl
@[simp] theorem State.onTile_retired (s : State) (t : Nat) (f : TileState → TileState) : (s.onTile t f).retired = s.retired := rfl
@[simp] theorem State.onTile_cores (s : State) (t : Nat) (f : TileState → TileState) : (s.onTile t f).cores = s.cores := rfl
@[simp] theorem State.onTile_vunits (s : State) (t : Nat) (f : TileState → TileState) : (s.onTile t f).vunits = s.vunits := rfl
@[simp] theorem State.onTile_cbs (s : State) (t : Nat) (f : TileState → TileState) : (s.onTile t f).cbs = s.cbs := rfl
@[simp] theorem State.onTile_fetches (s : State) (t : Nat) (f : TileState → TileState) : (s.onTile t f).fetches = s.fetches := rfl
@[simp] theorem State.onTile_matrices (s : State) (t : Nat) (f : TileState → TileState) : (s.onTile t f).matrices = s.matrices := rfl
@[simp] theorem State.onTile_xchs (s : State) (t : Nat) (f : TileState → TileState) : (s.onTile t f).xchs = s.xchs := rfl
@[simp] theorem State.onTile_mem (s : State) (t : Nat) (f : TileState → TileState) : (s.onTile t f).mem = s.mem := rfl
@[simp] theorem State.onTile_poison (s : State) (t : Nat) (f : TileState → TileState) : (s.onTile t f).poison = s.poison := rfl
@[simp] theorem State.onTile_cache (s : State) (t : Nat) (f : TileState → TileState) : (s.onTile t f).cache = s.cache := rfl
@[simp] theorem State.onTile_backing (s : State) (t : Nat) (f : TileState → TileState) : (s.onTile t f).backing = s.backing := rfl
@[simp] theorem State.onTile_descs (s : State) (t : Nat) (f : TileState → TileState) : (s.onTile t f).descs = s.descs := rfl
@[simp] theorem State.onTile_groups (s : State) (t : Nat) (f : TileState → TileState) : (s.onTile t f).groups = s.groups := rfl
@[simp] theorem State.onTile_locks (s : State) (t : Nat) (f : TileState → TileState) : (s.onTile t f).locks = s.locks := rfl
@[simp] theorem State.onTile_walks (s : State) (t : Nat) (f : TileState → TileState) : (s.onTile t f).walks = s.walks := rfl
@[simp] theorem State.onTile_jobs (s : State) (t : Nat) (f : TileState → TileState) : (s.onTile t f).jobs = s.jobs := rfl
@[simp] theorem State.onTile_pairs (s : State) (t : Nat) (f : TileState → TileState) : (s.onTile t f).pairs = s.pairs := rfl
@[simp] theorem State.onTile_links (s : State) (t : Nat) (f : TileState → TileState) : (s.onTile t f).links = s.links := rfl
@[simp] theorem State.onTile_linkSets (s : State) (t : Nat) (f : TileState → TileState) : (s.onTile t f).linkSets = s.linkSets := rfl
@[simp] theorem State.onTile_linkParts (s : State) (t : Nat) (f : TileState → TileState) : (s.onTile t f).linkParts = s.linkParts := rfl
@[simp] theorem State.onTile_peerPairs (s : State) (t : Nat) (f : TileState → TileState) : (s.onTile t f).peerPairs = s.peerPairs := rfl
@[simp] theorem State.onTile_peerTags (s : State) (t : Nat) (f : TileState → TileState) : (s.onTile t f).peerTags = s.peerTags := rfl
@[simp] theorem State.onTile_peerHeld (s : State) (t : Nat) (f : TileState → TileState) : (s.onTile t f).peerHeld = s.peerHeld := rfl
@[simp] theorem State.onTile_peerOut (s : State) (t : Nat) (f : TileState → TileState) : (s.onTile t f).peerOut = s.peerOut := rfl
@[simp] theorem State.onTile_exportPart (s : State) (t : Nat) (f : TileState → TileState) : (s.onTile t f).exportPart = s.exportPart := rfl
@[simp] theorem State.onTile_protos (s : State) (t : Nat) (f : TileState → TileState) : (s.onTile t f).protos = s.protos := rfl
@[simp] theorem State.onTile_parts (s : State) (t : Nat) (f : TileState → TileState) : (s.onTile t f).parts = s.parts := rfl
@[simp] theorem State.onTile_saved (s : State) (t : Nat) (f : TileState → TileState) : (s.onTile t f).saved = s.saved := rfl
@[simp] theorem State.onTile_dies (s : State) (t : Nat) (f : TileState → TileState) : (s.onTile t f).dies = s.dies := rfl
@[simp] theorem State.onTile_svc (s : State) (t : Nat) (f : TileState → TileState) : (s.onTile t f).svc = s.svc := rfl
@[simp] theorem State.onTile_psendq (s : State) (t : Nat) (f : TileState → TileState) : (s.onTile t f).psendq = s.psendq := rfl
@[simp] theorem State.onTile_ports (s : State) (t : Nat) (f : TileState → TileState) : (s.onTile t f).ports = s.ports := rfl
@[simp] theorem State.onTile_sentFrames (s : State) (t : Nat) (f : TileState → TileState) : (s.onTile t f).sentFrames = s.sentFrames := rfl
@[simp] theorem State.onTile_physQueue (s : State) (t : Nat) (f : TileState → TileState) : (s.onTile t f).physQueue = s.physQueue := rfl
@[simp] theorem State.onTile_badFrames (s : State) (t : Nat) (f : TileState → TileState) : (s.onTile t f).badFrames = s.badFrames := rfl
@[simp] theorem State.onTile_fns (s : State) (t : Nat) (f : TileState → TileState) : (s.onTile t f).fns = s.fns := rfl
@[simp] theorem State.onTile_hostReads (s : State) (t : Nat) (f : TileState → TileState) : (s.onTile t f).hostReads = s.hostReads := rfl
@[simp] theorem State.onTile_flash (s : State) (t : Nat) (f : TileState → TileState) : (s.onTile t f).flash = s.flash := rfl
@[simp] theorem State.onTile_hostImage (s : State) (t : Nat) (f : TileState → TileState) : (s.onTile t f).hostImage = s.hostImage := rfl
@[simp] theorem State.onTile_harvest (s : State) (t : Nat) (f : TileState → TileState) : (s.onTile t f).harvest = s.harvest := rfl
@[simp] theorem State.onTile_trims (s : State) (t : Nat) (f : TileState → TileState) : (s.onTile t f).trims = s.trims := rfl
@[simp] theorem State.onTile_msix (s : State) (t : Nat) (f : TileState → TileState) : (s.onTile t f).msix = s.msix := rfl
@[simp] theorem State.onTile_mailbox (s : State) (t : Nat) (f : TileState → TileState) : (s.onTile t f).mailbox = s.mailbox := rfl
@[simp] theorem State.onTile_reports (s : State) (t : Nat) (f : TileState → TileState) : (s.onTile t f).reports = s.reports := rfl

/-! ## `onCore` -/

@[simp] theorem State.onCore_now (s : State) (t c : Nat) (f : Core → Core) : (s.onCore t c f).now = s.now := rfl
@[simp] theorem State.onCore_powered (s : State) (t c : Nat) (f : Core → Core) : (s.onCore t c f).powered = s.powered := rfl
@[simp] theorem State.onCore_modnum (s : State) (t c : Nat) (f : Core → Core) : (s.onCore t c f).modnum = s.modnum := rfl
@[simp] theorem State.onCore_ctr (s : State) (t c : Nat) (f : Core → Core) : (s.onCore t c f).ctr = s.ctr := rfl
@[simp] theorem State.onCore_seq (s : State) (t c : Nat) (f : Core → Core) : (s.onCore t c f).seq = s.seq := rfl
@[simp] theorem State.onCore_uids (s : State) (t c : Nat) (f : Core → Core) : (s.onCore t c f).uids = s.uids := rfl
@[simp] theorem State.onCore_focus (s : State) (t c : Nat) (f : Core → Core) : (s.onCore t c f).focus = s.focus := rfl
@[simp] theorem State.onCore_word (s : State) (t c : Nat) (f : Core → Core) : (s.onCore t c f).word = s.word := rfl
@[simp] theorem State.onCore_event (s : State) (t c : Nat) (f : Core → Core) : (s.onCore t c f).event = s.event := rfl
@[simp] theorem State.onCore_arr (s : State) (t c : Nat) (f : Core → Core) : (s.onCore t c f).arr = s.arr := rfl
@[simp] theorem State.onCore_tie (s : State) (t c : Nat) (f : Core → Core) : (s.onCore t c f).tie = s.tie := rfl
@[simp] theorem State.onCore_agenda (s : State) (t c : Nat) (f : Core → Core) : (s.onCore t c f).agenda = s.agenda := rfl
@[simp] theorem State.onCore_strands (s : State) (t c : Nat) (f : Core → Core) : (s.onCore t c f).strands = s.strands := rfl
@[simp] theorem State.onCore_tiles (s : State) (t c : Nat) (f : Core → Core) : (s.onCore t c f).tiles = s.tiles := rfl
@[simp] theorem State.onCore_partOf (s : State) (t c : Nat) (f : Core → Core) : (s.onCore t c f).partOf = s.partOf := rfl
@[simp] theorem State.onCore_retired (s : State) (t c : Nat) (f : Core → Core) : (s.onCore t c f).retired = s.retired := rfl
@[simp] theorem State.onCore_vunits (s : State) (t c : Nat) (f : Core → Core) : (s.onCore t c f).vunits = s.vunits := rfl
@[simp] theorem State.onCore_cbs (s : State) (t c : Nat) (f : Core → Core) : (s.onCore t c f).cbs = s.cbs := rfl
@[simp] theorem State.onCore_fetches (s : State) (t c : Nat) (f : Core → Core) : (s.onCore t c f).fetches = s.fetches := rfl
@[simp] theorem State.onCore_matrices (s : State) (t c : Nat) (f : Core → Core) : (s.onCore t c f).matrices = s.matrices := rfl
@[simp] theorem State.onCore_xchs (s : State) (t c : Nat) (f : Core → Core) : (s.onCore t c f).xchs = s.xchs := rfl
@[simp] theorem State.onCore_mem (s : State) (t c : Nat) (f : Core → Core) : (s.onCore t c f).mem = s.mem := rfl
@[simp] theorem State.onCore_poison (s : State) (t c : Nat) (f : Core → Core) : (s.onCore t c f).poison = s.poison := rfl
@[simp] theorem State.onCore_cache (s : State) (t c : Nat) (f : Core → Core) : (s.onCore t c f).cache = s.cache := rfl
@[simp] theorem State.onCore_backing (s : State) (t c : Nat) (f : Core → Core) : (s.onCore t c f).backing = s.backing := rfl
@[simp] theorem State.onCore_descs (s : State) (t c : Nat) (f : Core → Core) : (s.onCore t c f).descs = s.descs := rfl
@[simp] theorem State.onCore_groups (s : State) (t c : Nat) (f : Core → Core) : (s.onCore t c f).groups = s.groups := rfl
@[simp] theorem State.onCore_locks (s : State) (t c : Nat) (f : Core → Core) : (s.onCore t c f).locks = s.locks := rfl
@[simp] theorem State.onCore_walks (s : State) (t c : Nat) (f : Core → Core) : (s.onCore t c f).walks = s.walks := rfl
@[simp] theorem State.onCore_jobs (s : State) (t c : Nat) (f : Core → Core) : (s.onCore t c f).jobs = s.jobs := rfl
@[simp] theorem State.onCore_pairs (s : State) (t c : Nat) (f : Core → Core) : (s.onCore t c f).pairs = s.pairs := rfl
@[simp] theorem State.onCore_links (s : State) (t c : Nat) (f : Core → Core) : (s.onCore t c f).links = s.links := rfl
@[simp] theorem State.onCore_linkSets (s : State) (t c : Nat) (f : Core → Core) : (s.onCore t c f).linkSets = s.linkSets := rfl
@[simp] theorem State.onCore_linkParts (s : State) (t c : Nat) (f : Core → Core) : (s.onCore t c f).linkParts = s.linkParts := rfl
@[simp] theorem State.onCore_peerPairs (s : State) (t c : Nat) (f : Core → Core) : (s.onCore t c f).peerPairs = s.peerPairs := rfl
@[simp] theorem State.onCore_peerTags (s : State) (t c : Nat) (f : Core → Core) : (s.onCore t c f).peerTags = s.peerTags := rfl
@[simp] theorem State.onCore_peerHeld (s : State) (t c : Nat) (f : Core → Core) : (s.onCore t c f).peerHeld = s.peerHeld := rfl
@[simp] theorem State.onCore_peerOut (s : State) (t c : Nat) (f : Core → Core) : (s.onCore t c f).peerOut = s.peerOut := rfl
@[simp] theorem State.onCore_exportPart (s : State) (t c : Nat) (f : Core → Core) : (s.onCore t c f).exportPart = s.exportPart := rfl
@[simp] theorem State.onCore_protos (s : State) (t c : Nat) (f : Core → Core) : (s.onCore t c f).protos = s.protos := rfl
@[simp] theorem State.onCore_parts (s : State) (t c : Nat) (f : Core → Core) : (s.onCore t c f).parts = s.parts := rfl
@[simp] theorem State.onCore_saved (s : State) (t c : Nat) (f : Core → Core) : (s.onCore t c f).saved = s.saved := rfl
@[simp] theorem State.onCore_dies (s : State) (t c : Nat) (f : Core → Core) : (s.onCore t c f).dies = s.dies := rfl
@[simp] theorem State.onCore_svc (s : State) (t c : Nat) (f : Core → Core) : (s.onCore t c f).svc = s.svc := rfl
@[simp] theorem State.onCore_psendq (s : State) (t c : Nat) (f : Core → Core) : (s.onCore t c f).psendq = s.psendq := rfl
@[simp] theorem State.onCore_ports (s : State) (t c : Nat) (f : Core → Core) : (s.onCore t c f).ports = s.ports := rfl
@[simp] theorem State.onCore_sentFrames (s : State) (t c : Nat) (f : Core → Core) : (s.onCore t c f).sentFrames = s.sentFrames := rfl
@[simp] theorem State.onCore_physQueue (s : State) (t c : Nat) (f : Core → Core) : (s.onCore t c f).physQueue = s.physQueue := rfl
@[simp] theorem State.onCore_badFrames (s : State) (t c : Nat) (f : Core → Core) : (s.onCore t c f).badFrames = s.badFrames := rfl
@[simp] theorem State.onCore_fns (s : State) (t c : Nat) (f : Core → Core) : (s.onCore t c f).fns = s.fns := rfl
@[simp] theorem State.onCore_hostReads (s : State) (t c : Nat) (f : Core → Core) : (s.onCore t c f).hostReads = s.hostReads := rfl
@[simp] theorem State.onCore_flash (s : State) (t c : Nat) (f : Core → Core) : (s.onCore t c f).flash = s.flash := rfl
@[simp] theorem State.onCore_hostImage (s : State) (t c : Nat) (f : Core → Core) : (s.onCore t c f).hostImage = s.hostImage := rfl
@[simp] theorem State.onCore_harvest (s : State) (t c : Nat) (f : Core → Core) : (s.onCore t c f).harvest = s.harvest := rfl
@[simp] theorem State.onCore_trims (s : State) (t c : Nat) (f : Core → Core) : (s.onCore t c f).trims = s.trims := rfl
@[simp] theorem State.onCore_msix (s : State) (t c : Nat) (f : Core → Core) : (s.onCore t c f).msix = s.msix := rfl
@[simp] theorem State.onCore_mailbox (s : State) (t c : Nat) (f : Core → Core) : (s.onCore t c f).mailbox = s.mailbox := rfl
@[simp] theorem State.onCore_reports (s : State) (t c : Nat) (f : Core → Core) : (s.onCore t c f).reports = s.reports := rfl

/-! ## `onVunit` -/

@[simp] theorem State.onVunit_now (s : State) (t c : Nat) (f : VUnit → VUnit) : (s.onVunit t c f).now = s.now := rfl
@[simp] theorem State.onVunit_powered (s : State) (t c : Nat) (f : VUnit → VUnit) : (s.onVunit t c f).powered = s.powered := rfl
@[simp] theorem State.onVunit_modnum (s : State) (t c : Nat) (f : VUnit → VUnit) : (s.onVunit t c f).modnum = s.modnum := rfl
@[simp] theorem State.onVunit_ctr (s : State) (t c : Nat) (f : VUnit → VUnit) : (s.onVunit t c f).ctr = s.ctr := rfl
@[simp] theorem State.onVunit_seq (s : State) (t c : Nat) (f : VUnit → VUnit) : (s.onVunit t c f).seq = s.seq := rfl
@[simp] theorem State.onVunit_uids (s : State) (t c : Nat) (f : VUnit → VUnit) : (s.onVunit t c f).uids = s.uids := rfl
@[simp] theorem State.onVunit_focus (s : State) (t c : Nat) (f : VUnit → VUnit) : (s.onVunit t c f).focus = s.focus := rfl
@[simp] theorem State.onVunit_word (s : State) (t c : Nat) (f : VUnit → VUnit) : (s.onVunit t c f).word = s.word := rfl
@[simp] theorem State.onVunit_event (s : State) (t c : Nat) (f : VUnit → VUnit) : (s.onVunit t c f).event = s.event := rfl
@[simp] theorem State.onVunit_arr (s : State) (t c : Nat) (f : VUnit → VUnit) : (s.onVunit t c f).arr = s.arr := rfl
@[simp] theorem State.onVunit_tie (s : State) (t c : Nat) (f : VUnit → VUnit) : (s.onVunit t c f).tie = s.tie := rfl
@[simp] theorem State.onVunit_agenda (s : State) (t c : Nat) (f : VUnit → VUnit) : (s.onVunit t c f).agenda = s.agenda := rfl
@[simp] theorem State.onVunit_strands (s : State) (t c : Nat) (f : VUnit → VUnit) : (s.onVunit t c f).strands = s.strands := rfl
@[simp] theorem State.onVunit_tiles (s : State) (t c : Nat) (f : VUnit → VUnit) : (s.onVunit t c f).tiles = s.tiles := rfl
@[simp] theorem State.onVunit_partOf (s : State) (t c : Nat) (f : VUnit → VUnit) : (s.onVunit t c f).partOf = s.partOf := rfl
@[simp] theorem State.onVunit_retired (s : State) (t c : Nat) (f : VUnit → VUnit) : (s.onVunit t c f).retired = s.retired := rfl
@[simp] theorem State.onVunit_cores (s : State) (t c : Nat) (f : VUnit → VUnit) : (s.onVunit t c f).cores = s.cores := rfl
@[simp] theorem State.onVunit_cbs (s : State) (t c : Nat) (f : VUnit → VUnit) : (s.onVunit t c f).cbs = s.cbs := rfl
@[simp] theorem State.onVunit_fetches (s : State) (t c : Nat) (f : VUnit → VUnit) : (s.onVunit t c f).fetches = s.fetches := rfl
@[simp] theorem State.onVunit_matrices (s : State) (t c : Nat) (f : VUnit → VUnit) : (s.onVunit t c f).matrices = s.matrices := rfl
@[simp] theorem State.onVunit_xchs (s : State) (t c : Nat) (f : VUnit → VUnit) : (s.onVunit t c f).xchs = s.xchs := rfl
@[simp] theorem State.onVunit_mem (s : State) (t c : Nat) (f : VUnit → VUnit) : (s.onVunit t c f).mem = s.mem := rfl
@[simp] theorem State.onVunit_poison (s : State) (t c : Nat) (f : VUnit → VUnit) : (s.onVunit t c f).poison = s.poison := rfl
@[simp] theorem State.onVunit_cache (s : State) (t c : Nat) (f : VUnit → VUnit) : (s.onVunit t c f).cache = s.cache := rfl
@[simp] theorem State.onVunit_backing (s : State) (t c : Nat) (f : VUnit → VUnit) : (s.onVunit t c f).backing = s.backing := rfl
@[simp] theorem State.onVunit_descs (s : State) (t c : Nat) (f : VUnit → VUnit) : (s.onVunit t c f).descs = s.descs := rfl
@[simp] theorem State.onVunit_groups (s : State) (t c : Nat) (f : VUnit → VUnit) : (s.onVunit t c f).groups = s.groups := rfl
@[simp] theorem State.onVunit_locks (s : State) (t c : Nat) (f : VUnit → VUnit) : (s.onVunit t c f).locks = s.locks := rfl
@[simp] theorem State.onVunit_walks (s : State) (t c : Nat) (f : VUnit → VUnit) : (s.onVunit t c f).walks = s.walks := rfl
@[simp] theorem State.onVunit_jobs (s : State) (t c : Nat) (f : VUnit → VUnit) : (s.onVunit t c f).jobs = s.jobs := rfl
@[simp] theorem State.onVunit_pairs (s : State) (t c : Nat) (f : VUnit → VUnit) : (s.onVunit t c f).pairs = s.pairs := rfl
@[simp] theorem State.onVunit_links (s : State) (t c : Nat) (f : VUnit → VUnit) : (s.onVunit t c f).links = s.links := rfl
@[simp] theorem State.onVunit_linkSets (s : State) (t c : Nat) (f : VUnit → VUnit) : (s.onVunit t c f).linkSets = s.linkSets := rfl
@[simp] theorem State.onVunit_linkParts (s : State) (t c : Nat) (f : VUnit → VUnit) : (s.onVunit t c f).linkParts = s.linkParts := rfl
@[simp] theorem State.onVunit_peerPairs (s : State) (t c : Nat) (f : VUnit → VUnit) : (s.onVunit t c f).peerPairs = s.peerPairs := rfl
@[simp] theorem State.onVunit_peerTags (s : State) (t c : Nat) (f : VUnit → VUnit) : (s.onVunit t c f).peerTags = s.peerTags := rfl
@[simp] theorem State.onVunit_peerHeld (s : State) (t c : Nat) (f : VUnit → VUnit) : (s.onVunit t c f).peerHeld = s.peerHeld := rfl
@[simp] theorem State.onVunit_peerOut (s : State) (t c : Nat) (f : VUnit → VUnit) : (s.onVunit t c f).peerOut = s.peerOut := rfl
@[simp] theorem State.onVunit_exportPart (s : State) (t c : Nat) (f : VUnit → VUnit) : (s.onVunit t c f).exportPart = s.exportPart := rfl
@[simp] theorem State.onVunit_protos (s : State) (t c : Nat) (f : VUnit → VUnit) : (s.onVunit t c f).protos = s.protos := rfl
@[simp] theorem State.onVunit_parts (s : State) (t c : Nat) (f : VUnit → VUnit) : (s.onVunit t c f).parts = s.parts := rfl
@[simp] theorem State.onVunit_saved (s : State) (t c : Nat) (f : VUnit → VUnit) : (s.onVunit t c f).saved = s.saved := rfl
@[simp] theorem State.onVunit_dies (s : State) (t c : Nat) (f : VUnit → VUnit) : (s.onVunit t c f).dies = s.dies := rfl
@[simp] theorem State.onVunit_svc (s : State) (t c : Nat) (f : VUnit → VUnit) : (s.onVunit t c f).svc = s.svc := rfl
@[simp] theorem State.onVunit_psendq (s : State) (t c : Nat) (f : VUnit → VUnit) : (s.onVunit t c f).psendq = s.psendq := rfl
@[simp] theorem State.onVunit_ports (s : State) (t c : Nat) (f : VUnit → VUnit) : (s.onVunit t c f).ports = s.ports := rfl
@[simp] theorem State.onVunit_sentFrames (s : State) (t c : Nat) (f : VUnit → VUnit) : (s.onVunit t c f).sentFrames = s.sentFrames := rfl
@[simp] theorem State.onVunit_physQueue (s : State) (t c : Nat) (f : VUnit → VUnit) : (s.onVunit t c f).physQueue = s.physQueue := rfl
@[simp] theorem State.onVunit_badFrames (s : State) (t c : Nat) (f : VUnit → VUnit) : (s.onVunit t c f).badFrames = s.badFrames := rfl
@[simp] theorem State.onVunit_fns (s : State) (t c : Nat) (f : VUnit → VUnit) : (s.onVunit t c f).fns = s.fns := rfl
@[simp] theorem State.onVunit_hostReads (s : State) (t c : Nat) (f : VUnit → VUnit) : (s.onVunit t c f).hostReads = s.hostReads := rfl
@[simp] theorem State.onVunit_flash (s : State) (t c : Nat) (f : VUnit → VUnit) : (s.onVunit t c f).flash = s.flash := rfl
@[simp] theorem State.onVunit_hostImage (s : State) (t c : Nat) (f : VUnit → VUnit) : (s.onVunit t c f).hostImage = s.hostImage := rfl
@[simp] theorem State.onVunit_harvest (s : State) (t c : Nat) (f : VUnit → VUnit) : (s.onVunit t c f).harvest = s.harvest := rfl
@[simp] theorem State.onVunit_trims (s : State) (t c : Nat) (f : VUnit → VUnit) : (s.onVunit t c f).trims = s.trims := rfl
@[simp] theorem State.onVunit_msix (s : State) (t c : Nat) (f : VUnit → VUnit) : (s.onVunit t c f).msix = s.msix := rfl
@[simp] theorem State.onVunit_mailbox (s : State) (t c : Nat) (f : VUnit → VUnit) : (s.onVunit t c f).mailbox = s.mailbox := rfl
@[simp] theorem State.onVunit_reports (s : State) (t c : Nat) (f : VUnit → VUnit) : (s.onVunit t c f).reports = s.reports := rfl

/-! ## `onStrand` -/

@[simp] theorem State.onStrand_now (s : State) (u : Nat) (f : Strand → Strand) : (s.onStrand u f).now = s.now := rfl
@[simp] theorem State.onStrand_powered (s : State) (u : Nat) (f : Strand → Strand) : (s.onStrand u f).powered = s.powered := rfl
@[simp] theorem State.onStrand_modnum (s : State) (u : Nat) (f : Strand → Strand) : (s.onStrand u f).modnum = s.modnum := rfl
@[simp] theorem State.onStrand_ctr (s : State) (u : Nat) (f : Strand → Strand) : (s.onStrand u f).ctr = s.ctr := rfl
@[simp] theorem State.onStrand_seq (s : State) (u : Nat) (f : Strand → Strand) : (s.onStrand u f).seq = s.seq := rfl
@[simp] theorem State.onStrand_uids (s : State) (u : Nat) (f : Strand → Strand) : (s.onStrand u f).uids = s.uids := rfl
@[simp] theorem State.onStrand_focus (s : State) (u : Nat) (f : Strand → Strand) : (s.onStrand u f).focus = s.focus := rfl
@[simp] theorem State.onStrand_word (s : State) (u : Nat) (f : Strand → Strand) : (s.onStrand u f).word = s.word := rfl
@[simp] theorem State.onStrand_event (s : State) (u : Nat) (f : Strand → Strand) : (s.onStrand u f).event = s.event := rfl
@[simp] theorem State.onStrand_arr (s : State) (u : Nat) (f : Strand → Strand) : (s.onStrand u f).arr = s.arr := rfl
@[simp] theorem State.onStrand_tie (s : State) (u : Nat) (f : Strand → Strand) : (s.onStrand u f).tie = s.tie := rfl
@[simp] theorem State.onStrand_agenda (s : State) (u : Nat) (f : Strand → Strand) : (s.onStrand u f).agenda = s.agenda := rfl
@[simp] theorem State.onStrand_tiles (s : State) (u : Nat) (f : Strand → Strand) : (s.onStrand u f).tiles = s.tiles := rfl
@[simp] theorem State.onStrand_partOf (s : State) (u : Nat) (f : Strand → Strand) : (s.onStrand u f).partOf = s.partOf := rfl
@[simp] theorem State.onStrand_retired (s : State) (u : Nat) (f : Strand → Strand) : (s.onStrand u f).retired = s.retired := rfl
@[simp] theorem State.onStrand_cores (s : State) (u : Nat) (f : Strand → Strand) : (s.onStrand u f).cores = s.cores := rfl
@[simp] theorem State.onStrand_vunits (s : State) (u : Nat) (f : Strand → Strand) : (s.onStrand u f).vunits = s.vunits := rfl
@[simp] theorem State.onStrand_cbs (s : State) (u : Nat) (f : Strand → Strand) : (s.onStrand u f).cbs = s.cbs := rfl
@[simp] theorem State.onStrand_fetches (s : State) (u : Nat) (f : Strand → Strand) : (s.onStrand u f).fetches = s.fetches := rfl
@[simp] theorem State.onStrand_matrices (s : State) (u : Nat) (f : Strand → Strand) : (s.onStrand u f).matrices = s.matrices := rfl
@[simp] theorem State.onStrand_xchs (s : State) (u : Nat) (f : Strand → Strand) : (s.onStrand u f).xchs = s.xchs := rfl
@[simp] theorem State.onStrand_mem (s : State) (u : Nat) (f : Strand → Strand) : (s.onStrand u f).mem = s.mem := rfl
@[simp] theorem State.onStrand_poison (s : State) (u : Nat) (f : Strand → Strand) : (s.onStrand u f).poison = s.poison := rfl
@[simp] theorem State.onStrand_cache (s : State) (u : Nat) (f : Strand → Strand) : (s.onStrand u f).cache = s.cache := rfl
@[simp] theorem State.onStrand_backing (s : State) (u : Nat) (f : Strand → Strand) : (s.onStrand u f).backing = s.backing := rfl
@[simp] theorem State.onStrand_descs (s : State) (u : Nat) (f : Strand → Strand) : (s.onStrand u f).descs = s.descs := rfl
@[simp] theorem State.onStrand_groups (s : State) (u : Nat) (f : Strand → Strand) : (s.onStrand u f).groups = s.groups := rfl
@[simp] theorem State.onStrand_locks (s : State) (u : Nat) (f : Strand → Strand) : (s.onStrand u f).locks = s.locks := rfl
@[simp] theorem State.onStrand_walks (s : State) (u : Nat) (f : Strand → Strand) : (s.onStrand u f).walks = s.walks := rfl
@[simp] theorem State.onStrand_jobs (s : State) (u : Nat) (f : Strand → Strand) : (s.onStrand u f).jobs = s.jobs := rfl
@[simp] theorem State.onStrand_pairs (s : State) (u : Nat) (f : Strand → Strand) : (s.onStrand u f).pairs = s.pairs := rfl
@[simp] theorem State.onStrand_links (s : State) (u : Nat) (f : Strand → Strand) : (s.onStrand u f).links = s.links := rfl
@[simp] theorem State.onStrand_linkSets (s : State) (u : Nat) (f : Strand → Strand) : (s.onStrand u f).linkSets = s.linkSets := rfl
@[simp] theorem State.onStrand_linkParts (s : State) (u : Nat) (f : Strand → Strand) : (s.onStrand u f).linkParts = s.linkParts := rfl
@[simp] theorem State.onStrand_peerPairs (s : State) (u : Nat) (f : Strand → Strand) : (s.onStrand u f).peerPairs = s.peerPairs := rfl
@[simp] theorem State.onStrand_peerTags (s : State) (u : Nat) (f : Strand → Strand) : (s.onStrand u f).peerTags = s.peerTags := rfl
@[simp] theorem State.onStrand_peerHeld (s : State) (u : Nat) (f : Strand → Strand) : (s.onStrand u f).peerHeld = s.peerHeld := rfl
@[simp] theorem State.onStrand_peerOut (s : State) (u : Nat) (f : Strand → Strand) : (s.onStrand u f).peerOut = s.peerOut := rfl
@[simp] theorem State.onStrand_exportPart (s : State) (u : Nat) (f : Strand → Strand) : (s.onStrand u f).exportPart = s.exportPart := rfl
@[simp] theorem State.onStrand_protos (s : State) (u : Nat) (f : Strand → Strand) : (s.onStrand u f).protos = s.protos := rfl
@[simp] theorem State.onStrand_parts (s : State) (u : Nat) (f : Strand → Strand) : (s.onStrand u f).parts = s.parts := rfl
@[simp] theorem State.onStrand_saved (s : State) (u : Nat) (f : Strand → Strand) : (s.onStrand u f).saved = s.saved := rfl
@[simp] theorem State.onStrand_dies (s : State) (u : Nat) (f : Strand → Strand) : (s.onStrand u f).dies = s.dies := rfl
@[simp] theorem State.onStrand_svc (s : State) (u : Nat) (f : Strand → Strand) : (s.onStrand u f).svc = s.svc := rfl
@[simp] theorem State.onStrand_psendq (s : State) (u : Nat) (f : Strand → Strand) : (s.onStrand u f).psendq = s.psendq := rfl
@[simp] theorem State.onStrand_ports (s : State) (u : Nat) (f : Strand → Strand) : (s.onStrand u f).ports = s.ports := rfl
@[simp] theorem State.onStrand_sentFrames (s : State) (u : Nat) (f : Strand → Strand) : (s.onStrand u f).sentFrames = s.sentFrames := rfl
@[simp] theorem State.onStrand_physQueue (s : State) (u : Nat) (f : Strand → Strand) : (s.onStrand u f).physQueue = s.physQueue := rfl
@[simp] theorem State.onStrand_badFrames (s : State) (u : Nat) (f : Strand → Strand) : (s.onStrand u f).badFrames = s.badFrames := rfl
@[simp] theorem State.onStrand_fns (s : State) (u : Nat) (f : Strand → Strand) : (s.onStrand u f).fns = s.fns := rfl
@[simp] theorem State.onStrand_hostReads (s : State) (u : Nat) (f : Strand → Strand) : (s.onStrand u f).hostReads = s.hostReads := rfl
@[simp] theorem State.onStrand_flash (s : State) (u : Nat) (f : Strand → Strand) : (s.onStrand u f).flash = s.flash := rfl
@[simp] theorem State.onStrand_hostImage (s : State) (u : Nat) (f : Strand → Strand) : (s.onStrand u f).hostImage = s.hostImage := rfl
@[simp] theorem State.onStrand_harvest (s : State) (u : Nat) (f : Strand → Strand) : (s.onStrand u f).harvest = s.harvest := rfl
@[simp] theorem State.onStrand_trims (s : State) (u : Nat) (f : Strand → Strand) : (s.onStrand u f).trims = s.trims := rfl
@[simp] theorem State.onStrand_msix (s : State) (u : Nat) (f : Strand → Strand) : (s.onStrand u f).msix = s.msix := rfl
@[simp] theorem State.onStrand_mailbox (s : State) (u : Nat) (f : Strand → Strand) : (s.onStrand u f).mailbox = s.mailbox := rfl
@[simp] theorem State.onStrand_reports (s : State) (u : Nat) (f : Strand → Strand) : (s.onStrand u f).reports = s.reports := rfl

/-! ## `setCb` -/

@[simp] theorem State.setCb_now (s : State) (t h : Nat) (c : Cb) : (s.setCb t h c).now = s.now := rfl
@[simp] theorem State.setCb_powered (s : State) (t h : Nat) (c : Cb) : (s.setCb t h c).powered = s.powered := rfl
@[simp] theorem State.setCb_modnum (s : State) (t h : Nat) (c : Cb) : (s.setCb t h c).modnum = s.modnum := rfl
@[simp] theorem State.setCb_ctr (s : State) (t h : Nat) (c : Cb) : (s.setCb t h c).ctr = s.ctr := rfl
@[simp] theorem State.setCb_seq (s : State) (t h : Nat) (c : Cb) : (s.setCb t h c).seq = s.seq := rfl
@[simp] theorem State.setCb_uids (s : State) (t h : Nat) (c : Cb) : (s.setCb t h c).uids = s.uids := rfl
@[simp] theorem State.setCb_focus (s : State) (t h : Nat) (c : Cb) : (s.setCb t h c).focus = s.focus := rfl
@[simp] theorem State.setCb_word (s : State) (t h : Nat) (c : Cb) : (s.setCb t h c).word = s.word := rfl
@[simp] theorem State.setCb_event (s : State) (t h : Nat) (c : Cb) : (s.setCb t h c).event = s.event := rfl
@[simp] theorem State.setCb_arr (s : State) (t h : Nat) (c : Cb) : (s.setCb t h c).arr = s.arr := rfl
@[simp] theorem State.setCb_tie (s : State) (t h : Nat) (c : Cb) : (s.setCb t h c).tie = s.tie := rfl
@[simp] theorem State.setCb_agenda (s : State) (t h : Nat) (c : Cb) : (s.setCb t h c).agenda = s.agenda := rfl
@[simp] theorem State.setCb_strands (s : State) (t h : Nat) (c : Cb) : (s.setCb t h c).strands = s.strands := rfl
@[simp] theorem State.setCb_tiles (s : State) (t h : Nat) (c : Cb) : (s.setCb t h c).tiles = s.tiles := rfl
@[simp] theorem State.setCb_partOf (s : State) (t h : Nat) (c : Cb) : (s.setCb t h c).partOf = s.partOf := rfl
@[simp] theorem State.setCb_retired (s : State) (t h : Nat) (c : Cb) : (s.setCb t h c).retired = s.retired := rfl
@[simp] theorem State.setCb_cores (s : State) (t h : Nat) (c : Cb) : (s.setCb t h c).cores = s.cores := rfl
@[simp] theorem State.setCb_vunits (s : State) (t h : Nat) (c : Cb) : (s.setCb t h c).vunits = s.vunits := rfl
@[simp] theorem State.setCb_fetches (s : State) (t h : Nat) (c : Cb) : (s.setCb t h c).fetches = s.fetches := rfl
@[simp] theorem State.setCb_matrices (s : State) (t h : Nat) (c : Cb) : (s.setCb t h c).matrices = s.matrices := rfl
@[simp] theorem State.setCb_xchs (s : State) (t h : Nat) (c : Cb) : (s.setCb t h c).xchs = s.xchs := rfl
@[simp] theorem State.setCb_mem (s : State) (t h : Nat) (c : Cb) : (s.setCb t h c).mem = s.mem := rfl
@[simp] theorem State.setCb_poison (s : State) (t h : Nat) (c : Cb) : (s.setCb t h c).poison = s.poison := rfl
@[simp] theorem State.setCb_cache (s : State) (t h : Nat) (c : Cb) : (s.setCb t h c).cache = s.cache := rfl
@[simp] theorem State.setCb_backing (s : State) (t h : Nat) (c : Cb) : (s.setCb t h c).backing = s.backing := rfl
@[simp] theorem State.setCb_descs (s : State) (t h : Nat) (c : Cb) : (s.setCb t h c).descs = s.descs := rfl
@[simp] theorem State.setCb_groups (s : State) (t h : Nat) (c : Cb) : (s.setCb t h c).groups = s.groups := rfl
@[simp] theorem State.setCb_locks (s : State) (t h : Nat) (c : Cb) : (s.setCb t h c).locks = s.locks := rfl
@[simp] theorem State.setCb_walks (s : State) (t h : Nat) (c : Cb) : (s.setCb t h c).walks = s.walks := rfl
@[simp] theorem State.setCb_jobs (s : State) (t h : Nat) (c : Cb) : (s.setCb t h c).jobs = s.jobs := rfl
@[simp] theorem State.setCb_pairs (s : State) (t h : Nat) (c : Cb) : (s.setCb t h c).pairs = s.pairs := rfl
@[simp] theorem State.setCb_links (s : State) (t h : Nat) (c : Cb) : (s.setCb t h c).links = s.links := rfl
@[simp] theorem State.setCb_linkSets (s : State) (t h : Nat) (c : Cb) : (s.setCb t h c).linkSets = s.linkSets := rfl
@[simp] theorem State.setCb_linkParts (s : State) (t h : Nat) (c : Cb) : (s.setCb t h c).linkParts = s.linkParts := rfl
@[simp] theorem State.setCb_peerPairs (s : State) (t h : Nat) (c : Cb) : (s.setCb t h c).peerPairs = s.peerPairs := rfl
@[simp] theorem State.setCb_peerTags (s : State) (t h : Nat) (c : Cb) : (s.setCb t h c).peerTags = s.peerTags := rfl
@[simp] theorem State.setCb_peerHeld (s : State) (t h : Nat) (c : Cb) : (s.setCb t h c).peerHeld = s.peerHeld := rfl
@[simp] theorem State.setCb_peerOut (s : State) (t h : Nat) (c : Cb) : (s.setCb t h c).peerOut = s.peerOut := rfl
@[simp] theorem State.setCb_exportPart (s : State) (t h : Nat) (c : Cb) : (s.setCb t h c).exportPart = s.exportPart := rfl
@[simp] theorem State.setCb_protos (s : State) (t h : Nat) (c : Cb) : (s.setCb t h c).protos = s.protos := rfl
@[simp] theorem State.setCb_parts (s : State) (t h : Nat) (c : Cb) : (s.setCb t h c).parts = s.parts := rfl
@[simp] theorem State.setCb_saved (s : State) (t h : Nat) (c : Cb) : (s.setCb t h c).saved = s.saved := rfl
@[simp] theorem State.setCb_dies (s : State) (t h : Nat) (c : Cb) : (s.setCb t h c).dies = s.dies := rfl
@[simp] theorem State.setCb_svc (s : State) (t h : Nat) (c : Cb) : (s.setCb t h c).svc = s.svc := rfl
@[simp] theorem State.setCb_psendq (s : State) (t h : Nat) (c : Cb) : (s.setCb t h c).psendq = s.psendq := rfl
@[simp] theorem State.setCb_ports (s : State) (t h : Nat) (c : Cb) : (s.setCb t h c).ports = s.ports := rfl
@[simp] theorem State.setCb_sentFrames (s : State) (t h : Nat) (c : Cb) : (s.setCb t h c).sentFrames = s.sentFrames := rfl
@[simp] theorem State.setCb_physQueue (s : State) (t h : Nat) (c : Cb) : (s.setCb t h c).physQueue = s.physQueue := rfl
@[simp] theorem State.setCb_badFrames (s : State) (t h : Nat) (c : Cb) : (s.setCb t h c).badFrames = s.badFrames := rfl
@[simp] theorem State.setCb_fns (s : State) (t h : Nat) (c : Cb) : (s.setCb t h c).fns = s.fns := rfl
@[simp] theorem State.setCb_hostReads (s : State) (t h : Nat) (c : Cb) : (s.setCb t h c).hostReads = s.hostReads := rfl
@[simp] theorem State.setCb_flash (s : State) (t h : Nat) (c : Cb) : (s.setCb t h c).flash = s.flash := rfl
@[simp] theorem State.setCb_hostImage (s : State) (t h : Nat) (c : Cb) : (s.setCb t h c).hostImage = s.hostImage := rfl
@[simp] theorem State.setCb_harvest (s : State) (t h : Nat) (c : Cb) : (s.setCb t h c).harvest = s.harvest := rfl
@[simp] theorem State.setCb_trims (s : State) (t h : Nat) (c : Cb) : (s.setCb t h c).trims = s.trims := rfl
@[simp] theorem State.setCb_msix (s : State) (t h : Nat) (c : Cb) : (s.setCb t h c).msix = s.msix := rfl
@[simp] theorem State.setCb_mailbox (s : State) (t h : Nat) (c : Cb) : (s.setCb t h c).mailbox = s.mailbox := rfl
@[simp] theorem State.setCb_reports (s : State) (t h : Nat) (c : Cb) : (s.setCb t h c).reports = s.reports := rfl

/-! ## `onCb` -/

@[simp] theorem State.onCb_now (s : State) (t h : Nat) (f : Cb → Cb) : (s.onCb t h f).now = s.now := rfl
@[simp] theorem State.onCb_powered (s : State) (t h : Nat) (f : Cb → Cb) : (s.onCb t h f).powered = s.powered := rfl
@[simp] theorem State.onCb_modnum (s : State) (t h : Nat) (f : Cb → Cb) : (s.onCb t h f).modnum = s.modnum := rfl
@[simp] theorem State.onCb_ctr (s : State) (t h : Nat) (f : Cb → Cb) : (s.onCb t h f).ctr = s.ctr := rfl
@[simp] theorem State.onCb_seq (s : State) (t h : Nat) (f : Cb → Cb) : (s.onCb t h f).seq = s.seq := rfl
@[simp] theorem State.onCb_uids (s : State) (t h : Nat) (f : Cb → Cb) : (s.onCb t h f).uids = s.uids := rfl
@[simp] theorem State.onCb_focus (s : State) (t h : Nat) (f : Cb → Cb) : (s.onCb t h f).focus = s.focus := rfl
@[simp] theorem State.onCb_word (s : State) (t h : Nat) (f : Cb → Cb) : (s.onCb t h f).word = s.word := rfl
@[simp] theorem State.onCb_event (s : State) (t h : Nat) (f : Cb → Cb) : (s.onCb t h f).event = s.event := rfl
@[simp] theorem State.onCb_arr (s : State) (t h : Nat) (f : Cb → Cb) : (s.onCb t h f).arr = s.arr := rfl
@[simp] theorem State.onCb_tie (s : State) (t h : Nat) (f : Cb → Cb) : (s.onCb t h f).tie = s.tie := rfl
@[simp] theorem State.onCb_agenda (s : State) (t h : Nat) (f : Cb → Cb) : (s.onCb t h f).agenda = s.agenda := rfl
@[simp] theorem State.onCb_strands (s : State) (t h : Nat) (f : Cb → Cb) : (s.onCb t h f).strands = s.strands := rfl
@[simp] theorem State.onCb_tiles (s : State) (t h : Nat) (f : Cb → Cb) : (s.onCb t h f).tiles = s.tiles := rfl
@[simp] theorem State.onCb_partOf (s : State) (t h : Nat) (f : Cb → Cb) : (s.onCb t h f).partOf = s.partOf := rfl
@[simp] theorem State.onCb_retired (s : State) (t h : Nat) (f : Cb → Cb) : (s.onCb t h f).retired = s.retired := rfl
@[simp] theorem State.onCb_cores (s : State) (t h : Nat) (f : Cb → Cb) : (s.onCb t h f).cores = s.cores := rfl
@[simp] theorem State.onCb_vunits (s : State) (t h : Nat) (f : Cb → Cb) : (s.onCb t h f).vunits = s.vunits := rfl
@[simp] theorem State.onCb_fetches (s : State) (t h : Nat) (f : Cb → Cb) : (s.onCb t h f).fetches = s.fetches := rfl
@[simp] theorem State.onCb_matrices (s : State) (t h : Nat) (f : Cb → Cb) : (s.onCb t h f).matrices = s.matrices := rfl
@[simp] theorem State.onCb_xchs (s : State) (t h : Nat) (f : Cb → Cb) : (s.onCb t h f).xchs = s.xchs := rfl
@[simp] theorem State.onCb_mem (s : State) (t h : Nat) (f : Cb → Cb) : (s.onCb t h f).mem = s.mem := rfl
@[simp] theorem State.onCb_poison (s : State) (t h : Nat) (f : Cb → Cb) : (s.onCb t h f).poison = s.poison := rfl
@[simp] theorem State.onCb_cache (s : State) (t h : Nat) (f : Cb → Cb) : (s.onCb t h f).cache = s.cache := rfl
@[simp] theorem State.onCb_backing (s : State) (t h : Nat) (f : Cb → Cb) : (s.onCb t h f).backing = s.backing := rfl
@[simp] theorem State.onCb_descs (s : State) (t h : Nat) (f : Cb → Cb) : (s.onCb t h f).descs = s.descs := rfl
@[simp] theorem State.onCb_groups (s : State) (t h : Nat) (f : Cb → Cb) : (s.onCb t h f).groups = s.groups := rfl
@[simp] theorem State.onCb_locks (s : State) (t h : Nat) (f : Cb → Cb) : (s.onCb t h f).locks = s.locks := rfl
@[simp] theorem State.onCb_walks (s : State) (t h : Nat) (f : Cb → Cb) : (s.onCb t h f).walks = s.walks := rfl
@[simp] theorem State.onCb_jobs (s : State) (t h : Nat) (f : Cb → Cb) : (s.onCb t h f).jobs = s.jobs := rfl
@[simp] theorem State.onCb_pairs (s : State) (t h : Nat) (f : Cb → Cb) : (s.onCb t h f).pairs = s.pairs := rfl
@[simp] theorem State.onCb_links (s : State) (t h : Nat) (f : Cb → Cb) : (s.onCb t h f).links = s.links := rfl
@[simp] theorem State.onCb_linkSets (s : State) (t h : Nat) (f : Cb → Cb) : (s.onCb t h f).linkSets = s.linkSets := rfl
@[simp] theorem State.onCb_linkParts (s : State) (t h : Nat) (f : Cb → Cb) : (s.onCb t h f).linkParts = s.linkParts := rfl
@[simp] theorem State.onCb_peerPairs (s : State) (t h : Nat) (f : Cb → Cb) : (s.onCb t h f).peerPairs = s.peerPairs := rfl
@[simp] theorem State.onCb_peerTags (s : State) (t h : Nat) (f : Cb → Cb) : (s.onCb t h f).peerTags = s.peerTags := rfl
@[simp] theorem State.onCb_peerHeld (s : State) (t h : Nat) (f : Cb → Cb) : (s.onCb t h f).peerHeld = s.peerHeld := rfl
@[simp] theorem State.onCb_peerOut (s : State) (t h : Nat) (f : Cb → Cb) : (s.onCb t h f).peerOut = s.peerOut := rfl
@[simp] theorem State.onCb_exportPart (s : State) (t h : Nat) (f : Cb → Cb) : (s.onCb t h f).exportPart = s.exportPart := rfl
@[simp] theorem State.onCb_protos (s : State) (t h : Nat) (f : Cb → Cb) : (s.onCb t h f).protos = s.protos := rfl
@[simp] theorem State.onCb_parts (s : State) (t h : Nat) (f : Cb → Cb) : (s.onCb t h f).parts = s.parts := rfl
@[simp] theorem State.onCb_saved (s : State) (t h : Nat) (f : Cb → Cb) : (s.onCb t h f).saved = s.saved := rfl
@[simp] theorem State.onCb_dies (s : State) (t h : Nat) (f : Cb → Cb) : (s.onCb t h f).dies = s.dies := rfl
@[simp] theorem State.onCb_svc (s : State) (t h : Nat) (f : Cb → Cb) : (s.onCb t h f).svc = s.svc := rfl
@[simp] theorem State.onCb_psendq (s : State) (t h : Nat) (f : Cb → Cb) : (s.onCb t h f).psendq = s.psendq := rfl
@[simp] theorem State.onCb_ports (s : State) (t h : Nat) (f : Cb → Cb) : (s.onCb t h f).ports = s.ports := rfl
@[simp] theorem State.onCb_sentFrames (s : State) (t h : Nat) (f : Cb → Cb) : (s.onCb t h f).sentFrames = s.sentFrames := rfl
@[simp] theorem State.onCb_physQueue (s : State) (t h : Nat) (f : Cb → Cb) : (s.onCb t h f).physQueue = s.physQueue := rfl
@[simp] theorem State.onCb_badFrames (s : State) (t h : Nat) (f : Cb → Cb) : (s.onCb t h f).badFrames = s.badFrames := rfl
@[simp] theorem State.onCb_fns (s : State) (t h : Nat) (f : Cb → Cb) : (s.onCb t h f).fns = s.fns := rfl
@[simp] theorem State.onCb_hostReads (s : State) (t h : Nat) (f : Cb → Cb) : (s.onCb t h f).hostReads = s.hostReads := rfl
@[simp] theorem State.onCb_flash (s : State) (t h : Nat) (f : Cb → Cb) : (s.onCb t h f).flash = s.flash := rfl
@[simp] theorem State.onCb_hostImage (s : State) (t h : Nat) (f : Cb → Cb) : (s.onCb t h f).hostImage = s.hostImage := rfl
@[simp] theorem State.onCb_harvest (s : State) (t h : Nat) (f : Cb → Cb) : (s.onCb t h f).harvest = s.harvest := rfl
@[simp] theorem State.onCb_trims (s : State) (t h : Nat) (f : Cb → Cb) : (s.onCb t h f).trims = s.trims := rfl
@[simp] theorem State.onCb_msix (s : State) (t h : Nat) (f : Cb → Cb) : (s.onCb t h f).msix = s.msix := rfl
@[simp] theorem State.onCb_mailbox (s : State) (t h : Nat) (f : Cb → Cb) : (s.onCb t h f).mailbox = s.mailbox := rfl
@[simp] theorem State.onCb_reports (s : State) (t h : Nat) (f : Cb → Cb) : (s.onCb t h f).reports = s.reports := rfl

/-! ## `onFetch` -/

@[simp] theorem State.onFetch_now (s : State) (t : Nat) (f : Fetch → Fetch) : (s.onFetch t f).now = s.now := rfl
@[simp] theorem State.onFetch_powered (s : State) (t : Nat) (f : Fetch → Fetch) : (s.onFetch t f).powered = s.powered := rfl
@[simp] theorem State.onFetch_modnum (s : State) (t : Nat) (f : Fetch → Fetch) : (s.onFetch t f).modnum = s.modnum := rfl
@[simp] theorem State.onFetch_ctr (s : State) (t : Nat) (f : Fetch → Fetch) : (s.onFetch t f).ctr = s.ctr := rfl
@[simp] theorem State.onFetch_seq (s : State) (t : Nat) (f : Fetch → Fetch) : (s.onFetch t f).seq = s.seq := rfl
@[simp] theorem State.onFetch_uids (s : State) (t : Nat) (f : Fetch → Fetch) : (s.onFetch t f).uids = s.uids := rfl
@[simp] theorem State.onFetch_focus (s : State) (t : Nat) (f : Fetch → Fetch) : (s.onFetch t f).focus = s.focus := rfl
@[simp] theorem State.onFetch_word (s : State) (t : Nat) (f : Fetch → Fetch) : (s.onFetch t f).word = s.word := rfl
@[simp] theorem State.onFetch_event (s : State) (t : Nat) (f : Fetch → Fetch) : (s.onFetch t f).event = s.event := rfl
@[simp] theorem State.onFetch_arr (s : State) (t : Nat) (f : Fetch → Fetch) : (s.onFetch t f).arr = s.arr := rfl
@[simp] theorem State.onFetch_tie (s : State) (t : Nat) (f : Fetch → Fetch) : (s.onFetch t f).tie = s.tie := rfl
@[simp] theorem State.onFetch_agenda (s : State) (t : Nat) (f : Fetch → Fetch) : (s.onFetch t f).agenda = s.agenda := rfl
@[simp] theorem State.onFetch_strands (s : State) (t : Nat) (f : Fetch → Fetch) : (s.onFetch t f).strands = s.strands := rfl
@[simp] theorem State.onFetch_tiles (s : State) (t : Nat) (f : Fetch → Fetch) : (s.onFetch t f).tiles = s.tiles := rfl
@[simp] theorem State.onFetch_partOf (s : State) (t : Nat) (f : Fetch → Fetch) : (s.onFetch t f).partOf = s.partOf := rfl
@[simp] theorem State.onFetch_retired (s : State) (t : Nat) (f : Fetch → Fetch) : (s.onFetch t f).retired = s.retired := rfl
@[simp] theorem State.onFetch_cores (s : State) (t : Nat) (f : Fetch → Fetch) : (s.onFetch t f).cores = s.cores := rfl
@[simp] theorem State.onFetch_vunits (s : State) (t : Nat) (f : Fetch → Fetch) : (s.onFetch t f).vunits = s.vunits := rfl
@[simp] theorem State.onFetch_cbs (s : State) (t : Nat) (f : Fetch → Fetch) : (s.onFetch t f).cbs = s.cbs := rfl
@[simp] theorem State.onFetch_matrices (s : State) (t : Nat) (f : Fetch → Fetch) : (s.onFetch t f).matrices = s.matrices := rfl
@[simp] theorem State.onFetch_xchs (s : State) (t : Nat) (f : Fetch → Fetch) : (s.onFetch t f).xchs = s.xchs := rfl
@[simp] theorem State.onFetch_mem (s : State) (t : Nat) (f : Fetch → Fetch) : (s.onFetch t f).mem = s.mem := rfl
@[simp] theorem State.onFetch_poison (s : State) (t : Nat) (f : Fetch → Fetch) : (s.onFetch t f).poison = s.poison := rfl
@[simp] theorem State.onFetch_cache (s : State) (t : Nat) (f : Fetch → Fetch) : (s.onFetch t f).cache = s.cache := rfl
@[simp] theorem State.onFetch_backing (s : State) (t : Nat) (f : Fetch → Fetch) : (s.onFetch t f).backing = s.backing := rfl
@[simp] theorem State.onFetch_descs (s : State) (t : Nat) (f : Fetch → Fetch) : (s.onFetch t f).descs = s.descs := rfl
@[simp] theorem State.onFetch_groups (s : State) (t : Nat) (f : Fetch → Fetch) : (s.onFetch t f).groups = s.groups := rfl
@[simp] theorem State.onFetch_locks (s : State) (t : Nat) (f : Fetch → Fetch) : (s.onFetch t f).locks = s.locks := rfl
@[simp] theorem State.onFetch_walks (s : State) (t : Nat) (f : Fetch → Fetch) : (s.onFetch t f).walks = s.walks := rfl
@[simp] theorem State.onFetch_jobs (s : State) (t : Nat) (f : Fetch → Fetch) : (s.onFetch t f).jobs = s.jobs := rfl
@[simp] theorem State.onFetch_pairs (s : State) (t : Nat) (f : Fetch → Fetch) : (s.onFetch t f).pairs = s.pairs := rfl
@[simp] theorem State.onFetch_links (s : State) (t : Nat) (f : Fetch → Fetch) : (s.onFetch t f).links = s.links := rfl
@[simp] theorem State.onFetch_linkSets (s : State) (t : Nat) (f : Fetch → Fetch) : (s.onFetch t f).linkSets = s.linkSets := rfl
@[simp] theorem State.onFetch_linkParts (s : State) (t : Nat) (f : Fetch → Fetch) : (s.onFetch t f).linkParts = s.linkParts := rfl
@[simp] theorem State.onFetch_peerPairs (s : State) (t : Nat) (f : Fetch → Fetch) : (s.onFetch t f).peerPairs = s.peerPairs := rfl
@[simp] theorem State.onFetch_peerTags (s : State) (t : Nat) (f : Fetch → Fetch) : (s.onFetch t f).peerTags = s.peerTags := rfl
@[simp] theorem State.onFetch_peerHeld (s : State) (t : Nat) (f : Fetch → Fetch) : (s.onFetch t f).peerHeld = s.peerHeld := rfl
@[simp] theorem State.onFetch_peerOut (s : State) (t : Nat) (f : Fetch → Fetch) : (s.onFetch t f).peerOut = s.peerOut := rfl
@[simp] theorem State.onFetch_exportPart (s : State) (t : Nat) (f : Fetch → Fetch) : (s.onFetch t f).exportPart = s.exportPart := rfl
@[simp] theorem State.onFetch_protos (s : State) (t : Nat) (f : Fetch → Fetch) : (s.onFetch t f).protos = s.protos := rfl
@[simp] theorem State.onFetch_parts (s : State) (t : Nat) (f : Fetch → Fetch) : (s.onFetch t f).parts = s.parts := rfl
@[simp] theorem State.onFetch_saved (s : State) (t : Nat) (f : Fetch → Fetch) : (s.onFetch t f).saved = s.saved := rfl
@[simp] theorem State.onFetch_dies (s : State) (t : Nat) (f : Fetch → Fetch) : (s.onFetch t f).dies = s.dies := rfl
@[simp] theorem State.onFetch_svc (s : State) (t : Nat) (f : Fetch → Fetch) : (s.onFetch t f).svc = s.svc := rfl
@[simp] theorem State.onFetch_psendq (s : State) (t : Nat) (f : Fetch → Fetch) : (s.onFetch t f).psendq = s.psendq := rfl
@[simp] theorem State.onFetch_ports (s : State) (t : Nat) (f : Fetch → Fetch) : (s.onFetch t f).ports = s.ports := rfl
@[simp] theorem State.onFetch_sentFrames (s : State) (t : Nat) (f : Fetch → Fetch) : (s.onFetch t f).sentFrames = s.sentFrames := rfl
@[simp] theorem State.onFetch_physQueue (s : State) (t : Nat) (f : Fetch → Fetch) : (s.onFetch t f).physQueue = s.physQueue := rfl
@[simp] theorem State.onFetch_badFrames (s : State) (t : Nat) (f : Fetch → Fetch) : (s.onFetch t f).badFrames = s.badFrames := rfl
@[simp] theorem State.onFetch_fns (s : State) (t : Nat) (f : Fetch → Fetch) : (s.onFetch t f).fns = s.fns := rfl
@[simp] theorem State.onFetch_hostReads (s : State) (t : Nat) (f : Fetch → Fetch) : (s.onFetch t f).hostReads = s.hostReads := rfl
@[simp] theorem State.onFetch_flash (s : State) (t : Nat) (f : Fetch → Fetch) : (s.onFetch t f).flash = s.flash := rfl
@[simp] theorem State.onFetch_hostImage (s : State) (t : Nat) (f : Fetch → Fetch) : (s.onFetch t f).hostImage = s.hostImage := rfl
@[simp] theorem State.onFetch_harvest (s : State) (t : Nat) (f : Fetch → Fetch) : (s.onFetch t f).harvest = s.harvest := rfl
@[simp] theorem State.onFetch_trims (s : State) (t : Nat) (f : Fetch → Fetch) : (s.onFetch t f).trims = s.trims := rfl
@[simp] theorem State.onFetch_msix (s : State) (t : Nat) (f : Fetch → Fetch) : (s.onFetch t f).msix = s.msix := rfl
@[simp] theorem State.onFetch_mailbox (s : State) (t : Nat) (f : Fetch → Fetch) : (s.onFetch t f).mailbox = s.mailbox := rfl
@[simp] theorem State.onFetch_reports (s : State) (t : Nat) (f : Fetch → Fetch) : (s.onFetch t f).reports = s.reports := rfl

/-! ## `onMatrix` -/

@[simp] theorem State.onMatrix_now (s : State) (t : Nat) (f : Matrix → Matrix) : (s.onMatrix t f).now = s.now := rfl
@[simp] theorem State.onMatrix_powered (s : State) (t : Nat) (f : Matrix → Matrix) : (s.onMatrix t f).powered = s.powered := rfl
@[simp] theorem State.onMatrix_modnum (s : State) (t : Nat) (f : Matrix → Matrix) : (s.onMatrix t f).modnum = s.modnum := rfl
@[simp] theorem State.onMatrix_ctr (s : State) (t : Nat) (f : Matrix → Matrix) : (s.onMatrix t f).ctr = s.ctr := rfl
@[simp] theorem State.onMatrix_seq (s : State) (t : Nat) (f : Matrix → Matrix) : (s.onMatrix t f).seq = s.seq := rfl
@[simp] theorem State.onMatrix_uids (s : State) (t : Nat) (f : Matrix → Matrix) : (s.onMatrix t f).uids = s.uids := rfl
@[simp] theorem State.onMatrix_focus (s : State) (t : Nat) (f : Matrix → Matrix) : (s.onMatrix t f).focus = s.focus := rfl
@[simp] theorem State.onMatrix_word (s : State) (t : Nat) (f : Matrix → Matrix) : (s.onMatrix t f).word = s.word := rfl
@[simp] theorem State.onMatrix_event (s : State) (t : Nat) (f : Matrix → Matrix) : (s.onMatrix t f).event = s.event := rfl
@[simp] theorem State.onMatrix_arr (s : State) (t : Nat) (f : Matrix → Matrix) : (s.onMatrix t f).arr = s.arr := rfl
@[simp] theorem State.onMatrix_tie (s : State) (t : Nat) (f : Matrix → Matrix) : (s.onMatrix t f).tie = s.tie := rfl
@[simp] theorem State.onMatrix_agenda (s : State) (t : Nat) (f : Matrix → Matrix) : (s.onMatrix t f).agenda = s.agenda := rfl
@[simp] theorem State.onMatrix_strands (s : State) (t : Nat) (f : Matrix → Matrix) : (s.onMatrix t f).strands = s.strands := rfl
@[simp] theorem State.onMatrix_tiles (s : State) (t : Nat) (f : Matrix → Matrix) : (s.onMatrix t f).tiles = s.tiles := rfl
@[simp] theorem State.onMatrix_partOf (s : State) (t : Nat) (f : Matrix → Matrix) : (s.onMatrix t f).partOf = s.partOf := rfl
@[simp] theorem State.onMatrix_retired (s : State) (t : Nat) (f : Matrix → Matrix) : (s.onMatrix t f).retired = s.retired := rfl
@[simp] theorem State.onMatrix_cores (s : State) (t : Nat) (f : Matrix → Matrix) : (s.onMatrix t f).cores = s.cores := rfl
@[simp] theorem State.onMatrix_vunits (s : State) (t : Nat) (f : Matrix → Matrix) : (s.onMatrix t f).vunits = s.vunits := rfl
@[simp] theorem State.onMatrix_cbs (s : State) (t : Nat) (f : Matrix → Matrix) : (s.onMatrix t f).cbs = s.cbs := rfl
@[simp] theorem State.onMatrix_fetches (s : State) (t : Nat) (f : Matrix → Matrix) : (s.onMatrix t f).fetches = s.fetches := rfl
@[simp] theorem State.onMatrix_xchs (s : State) (t : Nat) (f : Matrix → Matrix) : (s.onMatrix t f).xchs = s.xchs := rfl
@[simp] theorem State.onMatrix_mem (s : State) (t : Nat) (f : Matrix → Matrix) : (s.onMatrix t f).mem = s.mem := rfl
@[simp] theorem State.onMatrix_poison (s : State) (t : Nat) (f : Matrix → Matrix) : (s.onMatrix t f).poison = s.poison := rfl
@[simp] theorem State.onMatrix_cache (s : State) (t : Nat) (f : Matrix → Matrix) : (s.onMatrix t f).cache = s.cache := rfl
@[simp] theorem State.onMatrix_backing (s : State) (t : Nat) (f : Matrix → Matrix) : (s.onMatrix t f).backing = s.backing := rfl
@[simp] theorem State.onMatrix_descs (s : State) (t : Nat) (f : Matrix → Matrix) : (s.onMatrix t f).descs = s.descs := rfl
@[simp] theorem State.onMatrix_groups (s : State) (t : Nat) (f : Matrix → Matrix) : (s.onMatrix t f).groups = s.groups := rfl
@[simp] theorem State.onMatrix_locks (s : State) (t : Nat) (f : Matrix → Matrix) : (s.onMatrix t f).locks = s.locks := rfl
@[simp] theorem State.onMatrix_walks (s : State) (t : Nat) (f : Matrix → Matrix) : (s.onMatrix t f).walks = s.walks := rfl
@[simp] theorem State.onMatrix_jobs (s : State) (t : Nat) (f : Matrix → Matrix) : (s.onMatrix t f).jobs = s.jobs := rfl
@[simp] theorem State.onMatrix_pairs (s : State) (t : Nat) (f : Matrix → Matrix) : (s.onMatrix t f).pairs = s.pairs := rfl
@[simp] theorem State.onMatrix_links (s : State) (t : Nat) (f : Matrix → Matrix) : (s.onMatrix t f).links = s.links := rfl
@[simp] theorem State.onMatrix_linkSets (s : State) (t : Nat) (f : Matrix → Matrix) : (s.onMatrix t f).linkSets = s.linkSets := rfl
@[simp] theorem State.onMatrix_linkParts (s : State) (t : Nat) (f : Matrix → Matrix) : (s.onMatrix t f).linkParts = s.linkParts := rfl
@[simp] theorem State.onMatrix_peerPairs (s : State) (t : Nat) (f : Matrix → Matrix) : (s.onMatrix t f).peerPairs = s.peerPairs := rfl
@[simp] theorem State.onMatrix_peerTags (s : State) (t : Nat) (f : Matrix → Matrix) : (s.onMatrix t f).peerTags = s.peerTags := rfl
@[simp] theorem State.onMatrix_peerHeld (s : State) (t : Nat) (f : Matrix → Matrix) : (s.onMatrix t f).peerHeld = s.peerHeld := rfl
@[simp] theorem State.onMatrix_peerOut (s : State) (t : Nat) (f : Matrix → Matrix) : (s.onMatrix t f).peerOut = s.peerOut := rfl
@[simp] theorem State.onMatrix_exportPart (s : State) (t : Nat) (f : Matrix → Matrix) : (s.onMatrix t f).exportPart = s.exportPart := rfl
@[simp] theorem State.onMatrix_protos (s : State) (t : Nat) (f : Matrix → Matrix) : (s.onMatrix t f).protos = s.protos := rfl
@[simp] theorem State.onMatrix_parts (s : State) (t : Nat) (f : Matrix → Matrix) : (s.onMatrix t f).parts = s.parts := rfl
@[simp] theorem State.onMatrix_saved (s : State) (t : Nat) (f : Matrix → Matrix) : (s.onMatrix t f).saved = s.saved := rfl
@[simp] theorem State.onMatrix_dies (s : State) (t : Nat) (f : Matrix → Matrix) : (s.onMatrix t f).dies = s.dies := rfl
@[simp] theorem State.onMatrix_svc (s : State) (t : Nat) (f : Matrix → Matrix) : (s.onMatrix t f).svc = s.svc := rfl
@[simp] theorem State.onMatrix_psendq (s : State) (t : Nat) (f : Matrix → Matrix) : (s.onMatrix t f).psendq = s.psendq := rfl
@[simp] theorem State.onMatrix_ports (s : State) (t : Nat) (f : Matrix → Matrix) : (s.onMatrix t f).ports = s.ports := rfl
@[simp] theorem State.onMatrix_sentFrames (s : State) (t : Nat) (f : Matrix → Matrix) : (s.onMatrix t f).sentFrames = s.sentFrames := rfl
@[simp] theorem State.onMatrix_physQueue (s : State) (t : Nat) (f : Matrix → Matrix) : (s.onMatrix t f).physQueue = s.physQueue := rfl
@[simp] theorem State.onMatrix_badFrames (s : State) (t : Nat) (f : Matrix → Matrix) : (s.onMatrix t f).badFrames = s.badFrames := rfl
@[simp] theorem State.onMatrix_fns (s : State) (t : Nat) (f : Matrix → Matrix) : (s.onMatrix t f).fns = s.fns := rfl
@[simp] theorem State.onMatrix_hostReads (s : State) (t : Nat) (f : Matrix → Matrix) : (s.onMatrix t f).hostReads = s.hostReads := rfl
@[simp] theorem State.onMatrix_flash (s : State) (t : Nat) (f : Matrix → Matrix) : (s.onMatrix t f).flash = s.flash := rfl
@[simp] theorem State.onMatrix_hostImage (s : State) (t : Nat) (f : Matrix → Matrix) : (s.onMatrix t f).hostImage = s.hostImage := rfl
@[simp] theorem State.onMatrix_harvest (s : State) (t : Nat) (f : Matrix → Matrix) : (s.onMatrix t f).harvest = s.harvest := rfl
@[simp] theorem State.onMatrix_trims (s : State) (t : Nat) (f : Matrix → Matrix) : (s.onMatrix t f).trims = s.trims := rfl
@[simp] theorem State.onMatrix_msix (s : State) (t : Nat) (f : Matrix → Matrix) : (s.onMatrix t f).msix = s.msix := rfl
@[simp] theorem State.onMatrix_mailbox (s : State) (t : Nat) (f : Matrix → Matrix) : (s.onMatrix t f).mailbox = s.mailbox := rfl
@[simp] theorem State.onMatrix_reports (s : State) (t : Nat) (f : Matrix → Matrix) : (s.onMatrix t f).reports = s.reports := rfl

/-! ## `onXch` -/

@[simp] theorem State.onXch_now (s : State) (t : Nat) (f : Xch → Xch) : (s.onXch t f).now = s.now := rfl
@[simp] theorem State.onXch_powered (s : State) (t : Nat) (f : Xch → Xch) : (s.onXch t f).powered = s.powered := rfl
@[simp] theorem State.onXch_modnum (s : State) (t : Nat) (f : Xch → Xch) : (s.onXch t f).modnum = s.modnum := rfl
@[simp] theorem State.onXch_ctr (s : State) (t : Nat) (f : Xch → Xch) : (s.onXch t f).ctr = s.ctr := rfl
@[simp] theorem State.onXch_seq (s : State) (t : Nat) (f : Xch → Xch) : (s.onXch t f).seq = s.seq := rfl
@[simp] theorem State.onXch_uids (s : State) (t : Nat) (f : Xch → Xch) : (s.onXch t f).uids = s.uids := rfl
@[simp] theorem State.onXch_focus (s : State) (t : Nat) (f : Xch → Xch) : (s.onXch t f).focus = s.focus := rfl
@[simp] theorem State.onXch_word (s : State) (t : Nat) (f : Xch → Xch) : (s.onXch t f).word = s.word := rfl
@[simp] theorem State.onXch_event (s : State) (t : Nat) (f : Xch → Xch) : (s.onXch t f).event = s.event := rfl
@[simp] theorem State.onXch_arr (s : State) (t : Nat) (f : Xch → Xch) : (s.onXch t f).arr = s.arr := rfl
@[simp] theorem State.onXch_tie (s : State) (t : Nat) (f : Xch → Xch) : (s.onXch t f).tie = s.tie := rfl
@[simp] theorem State.onXch_agenda (s : State) (t : Nat) (f : Xch → Xch) : (s.onXch t f).agenda = s.agenda := rfl
@[simp] theorem State.onXch_strands (s : State) (t : Nat) (f : Xch → Xch) : (s.onXch t f).strands = s.strands := rfl
@[simp] theorem State.onXch_tiles (s : State) (t : Nat) (f : Xch → Xch) : (s.onXch t f).tiles = s.tiles := rfl
@[simp] theorem State.onXch_partOf (s : State) (t : Nat) (f : Xch → Xch) : (s.onXch t f).partOf = s.partOf := rfl
@[simp] theorem State.onXch_retired (s : State) (t : Nat) (f : Xch → Xch) : (s.onXch t f).retired = s.retired := rfl
@[simp] theorem State.onXch_cores (s : State) (t : Nat) (f : Xch → Xch) : (s.onXch t f).cores = s.cores := rfl
@[simp] theorem State.onXch_vunits (s : State) (t : Nat) (f : Xch → Xch) : (s.onXch t f).vunits = s.vunits := rfl
@[simp] theorem State.onXch_cbs (s : State) (t : Nat) (f : Xch → Xch) : (s.onXch t f).cbs = s.cbs := rfl
@[simp] theorem State.onXch_fetches (s : State) (t : Nat) (f : Xch → Xch) : (s.onXch t f).fetches = s.fetches := rfl
@[simp] theorem State.onXch_matrices (s : State) (t : Nat) (f : Xch → Xch) : (s.onXch t f).matrices = s.matrices := rfl
@[simp] theorem State.onXch_mem (s : State) (t : Nat) (f : Xch → Xch) : (s.onXch t f).mem = s.mem := rfl
@[simp] theorem State.onXch_poison (s : State) (t : Nat) (f : Xch → Xch) : (s.onXch t f).poison = s.poison := rfl
@[simp] theorem State.onXch_cache (s : State) (t : Nat) (f : Xch → Xch) : (s.onXch t f).cache = s.cache := rfl
@[simp] theorem State.onXch_backing (s : State) (t : Nat) (f : Xch → Xch) : (s.onXch t f).backing = s.backing := rfl
@[simp] theorem State.onXch_descs (s : State) (t : Nat) (f : Xch → Xch) : (s.onXch t f).descs = s.descs := rfl
@[simp] theorem State.onXch_groups (s : State) (t : Nat) (f : Xch → Xch) : (s.onXch t f).groups = s.groups := rfl
@[simp] theorem State.onXch_locks (s : State) (t : Nat) (f : Xch → Xch) : (s.onXch t f).locks = s.locks := rfl
@[simp] theorem State.onXch_walks (s : State) (t : Nat) (f : Xch → Xch) : (s.onXch t f).walks = s.walks := rfl
@[simp] theorem State.onXch_jobs (s : State) (t : Nat) (f : Xch → Xch) : (s.onXch t f).jobs = s.jobs := rfl
@[simp] theorem State.onXch_pairs (s : State) (t : Nat) (f : Xch → Xch) : (s.onXch t f).pairs = s.pairs := rfl
@[simp] theorem State.onXch_links (s : State) (t : Nat) (f : Xch → Xch) : (s.onXch t f).links = s.links := rfl
@[simp] theorem State.onXch_linkSets (s : State) (t : Nat) (f : Xch → Xch) : (s.onXch t f).linkSets = s.linkSets := rfl
@[simp] theorem State.onXch_linkParts (s : State) (t : Nat) (f : Xch → Xch) : (s.onXch t f).linkParts = s.linkParts := rfl
@[simp] theorem State.onXch_peerPairs (s : State) (t : Nat) (f : Xch → Xch) : (s.onXch t f).peerPairs = s.peerPairs := rfl
@[simp] theorem State.onXch_peerTags (s : State) (t : Nat) (f : Xch → Xch) : (s.onXch t f).peerTags = s.peerTags := rfl
@[simp] theorem State.onXch_peerHeld (s : State) (t : Nat) (f : Xch → Xch) : (s.onXch t f).peerHeld = s.peerHeld := rfl
@[simp] theorem State.onXch_peerOut (s : State) (t : Nat) (f : Xch → Xch) : (s.onXch t f).peerOut = s.peerOut := rfl
@[simp] theorem State.onXch_exportPart (s : State) (t : Nat) (f : Xch → Xch) : (s.onXch t f).exportPart = s.exportPart := rfl
@[simp] theorem State.onXch_protos (s : State) (t : Nat) (f : Xch → Xch) : (s.onXch t f).protos = s.protos := rfl
@[simp] theorem State.onXch_parts (s : State) (t : Nat) (f : Xch → Xch) : (s.onXch t f).parts = s.parts := rfl
@[simp] theorem State.onXch_saved (s : State) (t : Nat) (f : Xch → Xch) : (s.onXch t f).saved = s.saved := rfl
@[simp] theorem State.onXch_dies (s : State) (t : Nat) (f : Xch → Xch) : (s.onXch t f).dies = s.dies := rfl
@[simp] theorem State.onXch_svc (s : State) (t : Nat) (f : Xch → Xch) : (s.onXch t f).svc = s.svc := rfl
@[simp] theorem State.onXch_psendq (s : State) (t : Nat) (f : Xch → Xch) : (s.onXch t f).psendq = s.psendq := rfl
@[simp] theorem State.onXch_ports (s : State) (t : Nat) (f : Xch → Xch) : (s.onXch t f).ports = s.ports := rfl
@[simp] theorem State.onXch_sentFrames (s : State) (t : Nat) (f : Xch → Xch) : (s.onXch t f).sentFrames = s.sentFrames := rfl
@[simp] theorem State.onXch_physQueue (s : State) (t : Nat) (f : Xch → Xch) : (s.onXch t f).physQueue = s.physQueue := rfl
@[simp] theorem State.onXch_badFrames (s : State) (t : Nat) (f : Xch → Xch) : (s.onXch t f).badFrames = s.badFrames := rfl
@[simp] theorem State.onXch_fns (s : State) (t : Nat) (f : Xch → Xch) : (s.onXch t f).fns = s.fns := rfl
@[simp] theorem State.onXch_hostReads (s : State) (t : Nat) (f : Xch → Xch) : (s.onXch t f).hostReads = s.hostReads := rfl
@[simp] theorem State.onXch_flash (s : State) (t : Nat) (f : Xch → Xch) : (s.onXch t f).flash = s.flash := rfl
@[simp] theorem State.onXch_hostImage (s : State) (t : Nat) (f : Xch → Xch) : (s.onXch t f).hostImage = s.hostImage := rfl
@[simp] theorem State.onXch_harvest (s : State) (t : Nat) (f : Xch → Xch) : (s.onXch t f).harvest = s.harvest := rfl
@[simp] theorem State.onXch_trims (s : State) (t : Nat) (f : Xch → Xch) : (s.onXch t f).trims = s.trims := rfl
@[simp] theorem State.onXch_msix (s : State) (t : Nat) (f : Xch → Xch) : (s.onXch t f).msix = s.msix := rfl
@[simp] theorem State.onXch_mailbox (s : State) (t : Nat) (f : Xch → Xch) : (s.onXch t f).mailbox = s.mailbox := rfl
@[simp] theorem State.onXch_reports (s : State) (t : Nat) (f : Xch → Xch) : (s.onXch t f).reports = s.reports := rfl

/-! ## `onPart` -/

@[simp] theorem State.onPart_now (s : State) (p : Nat) (f : Part → Part) : (s.onPart p f).now = s.now := rfl
@[simp] theorem State.onPart_powered (s : State) (p : Nat) (f : Part → Part) : (s.onPart p f).powered = s.powered := rfl
@[simp] theorem State.onPart_modnum (s : State) (p : Nat) (f : Part → Part) : (s.onPart p f).modnum = s.modnum := rfl
@[simp] theorem State.onPart_ctr (s : State) (p : Nat) (f : Part → Part) : (s.onPart p f).ctr = s.ctr := rfl
@[simp] theorem State.onPart_seq (s : State) (p : Nat) (f : Part → Part) : (s.onPart p f).seq = s.seq := rfl
@[simp] theorem State.onPart_uids (s : State) (p : Nat) (f : Part → Part) : (s.onPart p f).uids = s.uids := rfl
@[simp] theorem State.onPart_focus (s : State) (p : Nat) (f : Part → Part) : (s.onPart p f).focus = s.focus := rfl
@[simp] theorem State.onPart_word (s : State) (p : Nat) (f : Part → Part) : (s.onPart p f).word = s.word := rfl
@[simp] theorem State.onPart_event (s : State) (p : Nat) (f : Part → Part) : (s.onPart p f).event = s.event := rfl
@[simp] theorem State.onPart_arr (s : State) (p : Nat) (f : Part → Part) : (s.onPart p f).arr = s.arr := rfl
@[simp] theorem State.onPart_tie (s : State) (p : Nat) (f : Part → Part) : (s.onPart p f).tie = s.tie := rfl
@[simp] theorem State.onPart_agenda (s : State) (p : Nat) (f : Part → Part) : (s.onPart p f).agenda = s.agenda := rfl
@[simp] theorem State.onPart_strands (s : State) (p : Nat) (f : Part → Part) : (s.onPart p f).strands = s.strands := rfl
@[simp] theorem State.onPart_tiles (s : State) (p : Nat) (f : Part → Part) : (s.onPart p f).tiles = s.tiles := rfl
@[simp] theorem State.onPart_partOf (s : State) (p : Nat) (f : Part → Part) : (s.onPart p f).partOf = s.partOf := rfl
@[simp] theorem State.onPart_retired (s : State) (p : Nat) (f : Part → Part) : (s.onPart p f).retired = s.retired := rfl
@[simp] theorem State.onPart_cores (s : State) (p : Nat) (f : Part → Part) : (s.onPart p f).cores = s.cores := rfl
@[simp] theorem State.onPart_vunits (s : State) (p : Nat) (f : Part → Part) : (s.onPart p f).vunits = s.vunits := rfl
@[simp] theorem State.onPart_cbs (s : State) (p : Nat) (f : Part → Part) : (s.onPart p f).cbs = s.cbs := rfl
@[simp] theorem State.onPart_fetches (s : State) (p : Nat) (f : Part → Part) : (s.onPart p f).fetches = s.fetches := rfl
@[simp] theorem State.onPart_matrices (s : State) (p : Nat) (f : Part → Part) : (s.onPart p f).matrices = s.matrices := rfl
@[simp] theorem State.onPart_xchs (s : State) (p : Nat) (f : Part → Part) : (s.onPart p f).xchs = s.xchs := rfl
@[simp] theorem State.onPart_mem (s : State) (p : Nat) (f : Part → Part) : (s.onPart p f).mem = s.mem := rfl
@[simp] theorem State.onPart_poison (s : State) (p : Nat) (f : Part → Part) : (s.onPart p f).poison = s.poison := rfl
@[simp] theorem State.onPart_cache (s : State) (p : Nat) (f : Part → Part) : (s.onPart p f).cache = s.cache := rfl
@[simp] theorem State.onPart_backing (s : State) (p : Nat) (f : Part → Part) : (s.onPart p f).backing = s.backing := rfl
@[simp] theorem State.onPart_descs (s : State) (p : Nat) (f : Part → Part) : (s.onPart p f).descs = s.descs := rfl
@[simp] theorem State.onPart_groups (s : State) (p : Nat) (f : Part → Part) : (s.onPart p f).groups = s.groups := rfl
@[simp] theorem State.onPart_locks (s : State) (p : Nat) (f : Part → Part) : (s.onPart p f).locks = s.locks := rfl
@[simp] theorem State.onPart_walks (s : State) (p : Nat) (f : Part → Part) : (s.onPart p f).walks = s.walks := rfl
@[simp] theorem State.onPart_jobs (s : State) (p : Nat) (f : Part → Part) : (s.onPart p f).jobs = s.jobs := rfl
@[simp] theorem State.onPart_pairs (s : State) (p : Nat) (f : Part → Part) : (s.onPart p f).pairs = s.pairs := rfl
@[simp] theorem State.onPart_links (s : State) (p : Nat) (f : Part → Part) : (s.onPart p f).links = s.links := rfl
@[simp] theorem State.onPart_linkSets (s : State) (p : Nat) (f : Part → Part) : (s.onPart p f).linkSets = s.linkSets := rfl
@[simp] theorem State.onPart_linkParts (s : State) (p : Nat) (f : Part → Part) : (s.onPart p f).linkParts = s.linkParts := rfl
@[simp] theorem State.onPart_peerPairs (s : State) (p : Nat) (f : Part → Part) : (s.onPart p f).peerPairs = s.peerPairs := rfl
@[simp] theorem State.onPart_peerTags (s : State) (p : Nat) (f : Part → Part) : (s.onPart p f).peerTags = s.peerTags := rfl
@[simp] theorem State.onPart_peerHeld (s : State) (p : Nat) (f : Part → Part) : (s.onPart p f).peerHeld = s.peerHeld := rfl
@[simp] theorem State.onPart_peerOut (s : State) (p : Nat) (f : Part → Part) : (s.onPart p f).peerOut = s.peerOut := rfl
@[simp] theorem State.onPart_exportPart (s : State) (p : Nat) (f : Part → Part) : (s.onPart p f).exportPart = s.exportPart := rfl
@[simp] theorem State.onPart_protos (s : State) (p : Nat) (f : Part → Part) : (s.onPart p f).protos = s.protos := rfl
@[simp] theorem State.onPart_saved (s : State) (p : Nat) (f : Part → Part) : (s.onPart p f).saved = s.saved := rfl
@[simp] theorem State.onPart_dies (s : State) (p : Nat) (f : Part → Part) : (s.onPart p f).dies = s.dies := rfl
@[simp] theorem State.onPart_svc (s : State) (p : Nat) (f : Part → Part) : (s.onPart p f).svc = s.svc := rfl
@[simp] theorem State.onPart_psendq (s : State) (p : Nat) (f : Part → Part) : (s.onPart p f).psendq = s.psendq := rfl
@[simp] theorem State.onPart_ports (s : State) (p : Nat) (f : Part → Part) : (s.onPart p f).ports = s.ports := rfl
@[simp] theorem State.onPart_sentFrames (s : State) (p : Nat) (f : Part → Part) : (s.onPart p f).sentFrames = s.sentFrames := rfl
@[simp] theorem State.onPart_physQueue (s : State) (p : Nat) (f : Part → Part) : (s.onPart p f).physQueue = s.physQueue := rfl
@[simp] theorem State.onPart_badFrames (s : State) (p : Nat) (f : Part → Part) : (s.onPart p f).badFrames = s.badFrames := rfl
@[simp] theorem State.onPart_fns (s : State) (p : Nat) (f : Part → Part) : (s.onPart p f).fns = s.fns := rfl
@[simp] theorem State.onPart_hostReads (s : State) (p : Nat) (f : Part → Part) : (s.onPart p f).hostReads = s.hostReads := rfl
@[simp] theorem State.onPart_flash (s : State) (p : Nat) (f : Part → Part) : (s.onPart p f).flash = s.flash := rfl
@[simp] theorem State.onPart_hostImage (s : State) (p : Nat) (f : Part → Part) : (s.onPart p f).hostImage = s.hostImage := rfl
@[simp] theorem State.onPart_harvest (s : State) (p : Nat) (f : Part → Part) : (s.onPart p f).harvest = s.harvest := rfl
@[simp] theorem State.onPart_trims (s : State) (p : Nat) (f : Part → Part) : (s.onPart p f).trims = s.trims := rfl
@[simp] theorem State.onPart_msix (s : State) (p : Nat) (f : Part → Part) : (s.onPart p f).msix = s.msix := rfl
@[simp] theorem State.onPart_mailbox (s : State) (p : Nat) (f : Part → Part) : (s.onPart p f).mailbox = s.mailbox := rfl
@[simp] theorem State.onPart_reports (s : State) (p : Nat) (f : Part → Part) : (s.onPart p f).reports = s.reports := rfl

/-! ## `onDie` -/

@[simp] theorem State.onDie_now (s : State) (d : Nat) (f : Die → Die) : (s.onDie d f).now = s.now := rfl
@[simp] theorem State.onDie_powered (s : State) (d : Nat) (f : Die → Die) : (s.onDie d f).powered = s.powered := rfl
@[simp] theorem State.onDie_modnum (s : State) (d : Nat) (f : Die → Die) : (s.onDie d f).modnum = s.modnum := rfl
@[simp] theorem State.onDie_ctr (s : State) (d : Nat) (f : Die → Die) : (s.onDie d f).ctr = s.ctr := rfl
@[simp] theorem State.onDie_seq (s : State) (d : Nat) (f : Die → Die) : (s.onDie d f).seq = s.seq := rfl
@[simp] theorem State.onDie_uids (s : State) (d : Nat) (f : Die → Die) : (s.onDie d f).uids = s.uids := rfl
@[simp] theorem State.onDie_focus (s : State) (d : Nat) (f : Die → Die) : (s.onDie d f).focus = s.focus := rfl
@[simp] theorem State.onDie_word (s : State) (d : Nat) (f : Die → Die) : (s.onDie d f).word = s.word := rfl
@[simp] theorem State.onDie_event (s : State) (d : Nat) (f : Die → Die) : (s.onDie d f).event = s.event := rfl
@[simp] theorem State.onDie_arr (s : State) (d : Nat) (f : Die → Die) : (s.onDie d f).arr = s.arr := rfl
@[simp] theorem State.onDie_tie (s : State) (d : Nat) (f : Die → Die) : (s.onDie d f).tie = s.tie := rfl
@[simp] theorem State.onDie_agenda (s : State) (d : Nat) (f : Die → Die) : (s.onDie d f).agenda = s.agenda := rfl
@[simp] theorem State.onDie_strands (s : State) (d : Nat) (f : Die → Die) : (s.onDie d f).strands = s.strands := rfl
@[simp] theorem State.onDie_tiles (s : State) (d : Nat) (f : Die → Die) : (s.onDie d f).tiles = s.tiles := rfl
@[simp] theorem State.onDie_partOf (s : State) (d : Nat) (f : Die → Die) : (s.onDie d f).partOf = s.partOf := rfl
@[simp] theorem State.onDie_retired (s : State) (d : Nat) (f : Die → Die) : (s.onDie d f).retired = s.retired := rfl
@[simp] theorem State.onDie_cores (s : State) (d : Nat) (f : Die → Die) : (s.onDie d f).cores = s.cores := rfl
@[simp] theorem State.onDie_vunits (s : State) (d : Nat) (f : Die → Die) : (s.onDie d f).vunits = s.vunits := rfl
@[simp] theorem State.onDie_cbs (s : State) (d : Nat) (f : Die → Die) : (s.onDie d f).cbs = s.cbs := rfl
@[simp] theorem State.onDie_fetches (s : State) (d : Nat) (f : Die → Die) : (s.onDie d f).fetches = s.fetches := rfl
@[simp] theorem State.onDie_matrices (s : State) (d : Nat) (f : Die → Die) : (s.onDie d f).matrices = s.matrices := rfl
@[simp] theorem State.onDie_xchs (s : State) (d : Nat) (f : Die → Die) : (s.onDie d f).xchs = s.xchs := rfl
@[simp] theorem State.onDie_mem (s : State) (d : Nat) (f : Die → Die) : (s.onDie d f).mem = s.mem := rfl
@[simp] theorem State.onDie_poison (s : State) (d : Nat) (f : Die → Die) : (s.onDie d f).poison = s.poison := rfl
@[simp] theorem State.onDie_cache (s : State) (d : Nat) (f : Die → Die) : (s.onDie d f).cache = s.cache := rfl
@[simp] theorem State.onDie_backing (s : State) (d : Nat) (f : Die → Die) : (s.onDie d f).backing = s.backing := rfl
@[simp] theorem State.onDie_descs (s : State) (d : Nat) (f : Die → Die) : (s.onDie d f).descs = s.descs := rfl
@[simp] theorem State.onDie_groups (s : State) (d : Nat) (f : Die → Die) : (s.onDie d f).groups = s.groups := rfl
@[simp] theorem State.onDie_locks (s : State) (d : Nat) (f : Die → Die) : (s.onDie d f).locks = s.locks := rfl
@[simp] theorem State.onDie_walks (s : State) (d : Nat) (f : Die → Die) : (s.onDie d f).walks = s.walks := rfl
@[simp] theorem State.onDie_jobs (s : State) (d : Nat) (f : Die → Die) : (s.onDie d f).jobs = s.jobs := rfl
@[simp] theorem State.onDie_pairs (s : State) (d : Nat) (f : Die → Die) : (s.onDie d f).pairs = s.pairs := rfl
@[simp] theorem State.onDie_links (s : State) (d : Nat) (f : Die → Die) : (s.onDie d f).links = s.links := rfl
@[simp] theorem State.onDie_linkSets (s : State) (d : Nat) (f : Die → Die) : (s.onDie d f).linkSets = s.linkSets := rfl
@[simp] theorem State.onDie_linkParts (s : State) (d : Nat) (f : Die → Die) : (s.onDie d f).linkParts = s.linkParts := rfl
@[simp] theorem State.onDie_peerPairs (s : State) (d : Nat) (f : Die → Die) : (s.onDie d f).peerPairs = s.peerPairs := rfl
@[simp] theorem State.onDie_peerTags (s : State) (d : Nat) (f : Die → Die) : (s.onDie d f).peerTags = s.peerTags := rfl
@[simp] theorem State.onDie_peerHeld (s : State) (d : Nat) (f : Die → Die) : (s.onDie d f).peerHeld = s.peerHeld := rfl
@[simp] theorem State.onDie_peerOut (s : State) (d : Nat) (f : Die → Die) : (s.onDie d f).peerOut = s.peerOut := rfl
@[simp] theorem State.onDie_exportPart (s : State) (d : Nat) (f : Die → Die) : (s.onDie d f).exportPart = s.exportPart := rfl
@[simp] theorem State.onDie_protos (s : State) (d : Nat) (f : Die → Die) : (s.onDie d f).protos = s.protos := rfl
@[simp] theorem State.onDie_parts (s : State) (d : Nat) (f : Die → Die) : (s.onDie d f).parts = s.parts := rfl
@[simp] theorem State.onDie_saved (s : State) (d : Nat) (f : Die → Die) : (s.onDie d f).saved = s.saved := rfl
@[simp] theorem State.onDie_svc (s : State) (d : Nat) (f : Die → Die) : (s.onDie d f).svc = s.svc := rfl
@[simp] theorem State.onDie_psendq (s : State) (d : Nat) (f : Die → Die) : (s.onDie d f).psendq = s.psendq := rfl
@[simp] theorem State.onDie_ports (s : State) (d : Nat) (f : Die → Die) : (s.onDie d f).ports = s.ports := rfl
@[simp] theorem State.onDie_sentFrames (s : State) (d : Nat) (f : Die → Die) : (s.onDie d f).sentFrames = s.sentFrames := rfl
@[simp] theorem State.onDie_physQueue (s : State) (d : Nat) (f : Die → Die) : (s.onDie d f).physQueue = s.physQueue := rfl
@[simp] theorem State.onDie_badFrames (s : State) (d : Nat) (f : Die → Die) : (s.onDie d f).badFrames = s.badFrames := rfl
@[simp] theorem State.onDie_fns (s : State) (d : Nat) (f : Die → Die) : (s.onDie d f).fns = s.fns := rfl
@[simp] theorem State.onDie_hostReads (s : State) (d : Nat) (f : Die → Die) : (s.onDie d f).hostReads = s.hostReads := rfl
@[simp] theorem State.onDie_flash (s : State) (d : Nat) (f : Die → Die) : (s.onDie d f).flash = s.flash := rfl
@[simp] theorem State.onDie_hostImage (s : State) (d : Nat) (f : Die → Die) : (s.onDie d f).hostImage = s.hostImage := rfl
@[simp] theorem State.onDie_harvest (s : State) (d : Nat) (f : Die → Die) : (s.onDie d f).harvest = s.harvest := rfl
@[simp] theorem State.onDie_trims (s : State) (d : Nat) (f : Die → Die) : (s.onDie d f).trims = s.trims := rfl
@[simp] theorem State.onDie_msix (s : State) (d : Nat) (f : Die → Die) : (s.onDie d f).msix = s.msix := rfl
@[simp] theorem State.onDie_mailbox (s : State) (d : Nat) (f : Die → Die) : (s.onDie d f).mailbox = s.mailbox := rfl
@[simp] theorem State.onDie_reports (s : State) (d : Nat) (f : Die → Die) : (s.onDie d f).reports = s.reports := rfl

/-! ## `onLink` -/

@[simp] theorem State.onLink_now (s : State) (l : Nat) (f : Link → Link) : (s.onLink l f).now = s.now := rfl
@[simp] theorem State.onLink_powered (s : State) (l : Nat) (f : Link → Link) : (s.onLink l f).powered = s.powered := rfl
@[simp] theorem State.onLink_modnum (s : State) (l : Nat) (f : Link → Link) : (s.onLink l f).modnum = s.modnum := rfl
@[simp] theorem State.onLink_ctr (s : State) (l : Nat) (f : Link → Link) : (s.onLink l f).ctr = s.ctr := rfl
@[simp] theorem State.onLink_seq (s : State) (l : Nat) (f : Link → Link) : (s.onLink l f).seq = s.seq := rfl
@[simp] theorem State.onLink_uids (s : State) (l : Nat) (f : Link → Link) : (s.onLink l f).uids = s.uids := rfl
@[simp] theorem State.onLink_focus (s : State) (l : Nat) (f : Link → Link) : (s.onLink l f).focus = s.focus := rfl
@[simp] theorem State.onLink_word (s : State) (l : Nat) (f : Link → Link) : (s.onLink l f).word = s.word := rfl
@[simp] theorem State.onLink_event (s : State) (l : Nat) (f : Link → Link) : (s.onLink l f).event = s.event := rfl
@[simp] theorem State.onLink_arr (s : State) (l : Nat) (f : Link → Link) : (s.onLink l f).arr = s.arr := rfl
@[simp] theorem State.onLink_tie (s : State) (l : Nat) (f : Link → Link) : (s.onLink l f).tie = s.tie := rfl
@[simp] theorem State.onLink_agenda (s : State) (l : Nat) (f : Link → Link) : (s.onLink l f).agenda = s.agenda := rfl
@[simp] theorem State.onLink_strands (s : State) (l : Nat) (f : Link → Link) : (s.onLink l f).strands = s.strands := rfl
@[simp] theorem State.onLink_tiles (s : State) (l : Nat) (f : Link → Link) : (s.onLink l f).tiles = s.tiles := rfl
@[simp] theorem State.onLink_partOf (s : State) (l : Nat) (f : Link → Link) : (s.onLink l f).partOf = s.partOf := rfl
@[simp] theorem State.onLink_retired (s : State) (l : Nat) (f : Link → Link) : (s.onLink l f).retired = s.retired := rfl
@[simp] theorem State.onLink_cores (s : State) (l : Nat) (f : Link → Link) : (s.onLink l f).cores = s.cores := rfl
@[simp] theorem State.onLink_vunits (s : State) (l : Nat) (f : Link → Link) : (s.onLink l f).vunits = s.vunits := rfl
@[simp] theorem State.onLink_cbs (s : State) (l : Nat) (f : Link → Link) : (s.onLink l f).cbs = s.cbs := rfl
@[simp] theorem State.onLink_fetches (s : State) (l : Nat) (f : Link → Link) : (s.onLink l f).fetches = s.fetches := rfl
@[simp] theorem State.onLink_matrices (s : State) (l : Nat) (f : Link → Link) : (s.onLink l f).matrices = s.matrices := rfl
@[simp] theorem State.onLink_xchs (s : State) (l : Nat) (f : Link → Link) : (s.onLink l f).xchs = s.xchs := rfl
@[simp] theorem State.onLink_mem (s : State) (l : Nat) (f : Link → Link) : (s.onLink l f).mem = s.mem := rfl
@[simp] theorem State.onLink_poison (s : State) (l : Nat) (f : Link → Link) : (s.onLink l f).poison = s.poison := rfl
@[simp] theorem State.onLink_cache (s : State) (l : Nat) (f : Link → Link) : (s.onLink l f).cache = s.cache := rfl
@[simp] theorem State.onLink_backing (s : State) (l : Nat) (f : Link → Link) : (s.onLink l f).backing = s.backing := rfl
@[simp] theorem State.onLink_descs (s : State) (l : Nat) (f : Link → Link) : (s.onLink l f).descs = s.descs := rfl
@[simp] theorem State.onLink_groups (s : State) (l : Nat) (f : Link → Link) : (s.onLink l f).groups = s.groups := rfl
@[simp] theorem State.onLink_locks (s : State) (l : Nat) (f : Link → Link) : (s.onLink l f).locks = s.locks := rfl
@[simp] theorem State.onLink_walks (s : State) (l : Nat) (f : Link → Link) : (s.onLink l f).walks = s.walks := rfl
@[simp] theorem State.onLink_jobs (s : State) (l : Nat) (f : Link → Link) : (s.onLink l f).jobs = s.jobs := rfl
@[simp] theorem State.onLink_pairs (s : State) (l : Nat) (f : Link → Link) : (s.onLink l f).pairs = s.pairs := rfl
@[simp] theorem State.onLink_linkSets (s : State) (l : Nat) (f : Link → Link) : (s.onLink l f).linkSets = s.linkSets := rfl
@[simp] theorem State.onLink_linkParts (s : State) (l : Nat) (f : Link → Link) : (s.onLink l f).linkParts = s.linkParts := rfl
@[simp] theorem State.onLink_peerPairs (s : State) (l : Nat) (f : Link → Link) : (s.onLink l f).peerPairs = s.peerPairs := rfl
@[simp] theorem State.onLink_peerTags (s : State) (l : Nat) (f : Link → Link) : (s.onLink l f).peerTags = s.peerTags := rfl
@[simp] theorem State.onLink_peerHeld (s : State) (l : Nat) (f : Link → Link) : (s.onLink l f).peerHeld = s.peerHeld := rfl
@[simp] theorem State.onLink_peerOut (s : State) (l : Nat) (f : Link → Link) : (s.onLink l f).peerOut = s.peerOut := rfl
@[simp] theorem State.onLink_exportPart (s : State) (l : Nat) (f : Link → Link) : (s.onLink l f).exportPart = s.exportPart := rfl
@[simp] theorem State.onLink_protos (s : State) (l : Nat) (f : Link → Link) : (s.onLink l f).protos = s.protos := rfl
@[simp] theorem State.onLink_parts (s : State) (l : Nat) (f : Link → Link) : (s.onLink l f).parts = s.parts := rfl
@[simp] theorem State.onLink_saved (s : State) (l : Nat) (f : Link → Link) : (s.onLink l f).saved = s.saved := rfl
@[simp] theorem State.onLink_dies (s : State) (l : Nat) (f : Link → Link) : (s.onLink l f).dies = s.dies := rfl
@[simp] theorem State.onLink_svc (s : State) (l : Nat) (f : Link → Link) : (s.onLink l f).svc = s.svc := rfl
@[simp] theorem State.onLink_psendq (s : State) (l : Nat) (f : Link → Link) : (s.onLink l f).psendq = s.psendq := rfl
@[simp] theorem State.onLink_ports (s : State) (l : Nat) (f : Link → Link) : (s.onLink l f).ports = s.ports := rfl
@[simp] theorem State.onLink_sentFrames (s : State) (l : Nat) (f : Link → Link) : (s.onLink l f).sentFrames = s.sentFrames := rfl
@[simp] theorem State.onLink_physQueue (s : State) (l : Nat) (f : Link → Link) : (s.onLink l f).physQueue = s.physQueue := rfl
@[simp] theorem State.onLink_badFrames (s : State) (l : Nat) (f : Link → Link) : (s.onLink l f).badFrames = s.badFrames := rfl
@[simp] theorem State.onLink_fns (s : State) (l : Nat) (f : Link → Link) : (s.onLink l f).fns = s.fns := rfl
@[simp] theorem State.onLink_hostReads (s : State) (l : Nat) (f : Link → Link) : (s.onLink l f).hostReads = s.hostReads := rfl
@[simp] theorem State.onLink_flash (s : State) (l : Nat) (f : Link → Link) : (s.onLink l f).flash = s.flash := rfl
@[simp] theorem State.onLink_hostImage (s : State) (l : Nat) (f : Link → Link) : (s.onLink l f).hostImage = s.hostImage := rfl
@[simp] theorem State.onLink_harvest (s : State) (l : Nat) (f : Link → Link) : (s.onLink l f).harvest = s.harvest := rfl
@[simp] theorem State.onLink_trims (s : State) (l : Nat) (f : Link → Link) : (s.onLink l f).trims = s.trims := rfl
@[simp] theorem State.onLink_msix (s : State) (l : Nat) (f : Link → Link) : (s.onLink l f).msix = s.msix := rfl
@[simp] theorem State.onLink_mailbox (s : State) (l : Nat) (f : Link → Link) : (s.onLink l f).mailbox = s.mailbox := rfl
@[simp] theorem State.onLink_reports (s : State) (l : Nat) (f : Link → Link) : (s.onLink l f).reports = s.reports := rfl

/-! ## `onPair` -/

@[simp] theorem State.onPair_now (s : State) (a b : Nat) (f : Pair → Pair) : (s.onPair a b f).now = s.now := rfl
@[simp] theorem State.onPair_powered (s : State) (a b : Nat) (f : Pair → Pair) : (s.onPair a b f).powered = s.powered := rfl
@[simp] theorem State.onPair_modnum (s : State) (a b : Nat) (f : Pair → Pair) : (s.onPair a b f).modnum = s.modnum := rfl
@[simp] theorem State.onPair_ctr (s : State) (a b : Nat) (f : Pair → Pair) : (s.onPair a b f).ctr = s.ctr := rfl
@[simp] theorem State.onPair_seq (s : State) (a b : Nat) (f : Pair → Pair) : (s.onPair a b f).seq = s.seq := rfl
@[simp] theorem State.onPair_uids (s : State) (a b : Nat) (f : Pair → Pair) : (s.onPair a b f).uids = s.uids := rfl
@[simp] theorem State.onPair_focus (s : State) (a b : Nat) (f : Pair → Pair) : (s.onPair a b f).focus = s.focus := rfl
@[simp] theorem State.onPair_word (s : State) (a b : Nat) (f : Pair → Pair) : (s.onPair a b f).word = s.word := rfl
@[simp] theorem State.onPair_event (s : State) (a b : Nat) (f : Pair → Pair) : (s.onPair a b f).event = s.event := rfl
@[simp] theorem State.onPair_arr (s : State) (a b : Nat) (f : Pair → Pair) : (s.onPair a b f).arr = s.arr := rfl
@[simp] theorem State.onPair_tie (s : State) (a b : Nat) (f : Pair → Pair) : (s.onPair a b f).tie = s.tie := rfl
@[simp] theorem State.onPair_agenda (s : State) (a b : Nat) (f : Pair → Pair) : (s.onPair a b f).agenda = s.agenda := rfl
@[simp] theorem State.onPair_strands (s : State) (a b : Nat) (f : Pair → Pair) : (s.onPair a b f).strands = s.strands := rfl
@[simp] theorem State.onPair_tiles (s : State) (a b : Nat) (f : Pair → Pair) : (s.onPair a b f).tiles = s.tiles := rfl
@[simp] theorem State.onPair_partOf (s : State) (a b : Nat) (f : Pair → Pair) : (s.onPair a b f).partOf = s.partOf := rfl
@[simp] theorem State.onPair_retired (s : State) (a b : Nat) (f : Pair → Pair) : (s.onPair a b f).retired = s.retired := rfl
@[simp] theorem State.onPair_cores (s : State) (a b : Nat) (f : Pair → Pair) : (s.onPair a b f).cores = s.cores := rfl
@[simp] theorem State.onPair_vunits (s : State) (a b : Nat) (f : Pair → Pair) : (s.onPair a b f).vunits = s.vunits := rfl
@[simp] theorem State.onPair_cbs (s : State) (a b : Nat) (f : Pair → Pair) : (s.onPair a b f).cbs = s.cbs := rfl
@[simp] theorem State.onPair_fetches (s : State) (a b : Nat) (f : Pair → Pair) : (s.onPair a b f).fetches = s.fetches := rfl
@[simp] theorem State.onPair_matrices (s : State) (a b : Nat) (f : Pair → Pair) : (s.onPair a b f).matrices = s.matrices := rfl
@[simp] theorem State.onPair_xchs (s : State) (a b : Nat) (f : Pair → Pair) : (s.onPair a b f).xchs = s.xchs := rfl
@[simp] theorem State.onPair_mem (s : State) (a b : Nat) (f : Pair → Pair) : (s.onPair a b f).mem = s.mem := rfl
@[simp] theorem State.onPair_poison (s : State) (a b : Nat) (f : Pair → Pair) : (s.onPair a b f).poison = s.poison := rfl
@[simp] theorem State.onPair_cache (s : State) (a b : Nat) (f : Pair → Pair) : (s.onPair a b f).cache = s.cache := rfl
@[simp] theorem State.onPair_backing (s : State) (a b : Nat) (f : Pair → Pair) : (s.onPair a b f).backing = s.backing := rfl
@[simp] theorem State.onPair_descs (s : State) (a b : Nat) (f : Pair → Pair) : (s.onPair a b f).descs = s.descs := rfl
@[simp] theorem State.onPair_groups (s : State) (a b : Nat) (f : Pair → Pair) : (s.onPair a b f).groups = s.groups := rfl
@[simp] theorem State.onPair_locks (s : State) (a b : Nat) (f : Pair → Pair) : (s.onPair a b f).locks = s.locks := rfl
@[simp] theorem State.onPair_walks (s : State) (a b : Nat) (f : Pair → Pair) : (s.onPair a b f).walks = s.walks := rfl
@[simp] theorem State.onPair_jobs (s : State) (a b : Nat) (f : Pair → Pair) : (s.onPair a b f).jobs = s.jobs := rfl
@[simp] theorem State.onPair_links (s : State) (a b : Nat) (f : Pair → Pair) : (s.onPair a b f).links = s.links := rfl
@[simp] theorem State.onPair_linkSets (s : State) (a b : Nat) (f : Pair → Pair) : (s.onPair a b f).linkSets = s.linkSets := rfl
@[simp] theorem State.onPair_linkParts (s : State) (a b : Nat) (f : Pair → Pair) : (s.onPair a b f).linkParts = s.linkParts := rfl
@[simp] theorem State.onPair_peerPairs (s : State) (a b : Nat) (f : Pair → Pair) : (s.onPair a b f).peerPairs = s.peerPairs := rfl
@[simp] theorem State.onPair_peerTags (s : State) (a b : Nat) (f : Pair → Pair) : (s.onPair a b f).peerTags = s.peerTags := rfl
@[simp] theorem State.onPair_peerHeld (s : State) (a b : Nat) (f : Pair → Pair) : (s.onPair a b f).peerHeld = s.peerHeld := rfl
@[simp] theorem State.onPair_peerOut (s : State) (a b : Nat) (f : Pair → Pair) : (s.onPair a b f).peerOut = s.peerOut := rfl
@[simp] theorem State.onPair_exportPart (s : State) (a b : Nat) (f : Pair → Pair) : (s.onPair a b f).exportPart = s.exportPart := rfl
@[simp] theorem State.onPair_protos (s : State) (a b : Nat) (f : Pair → Pair) : (s.onPair a b f).protos = s.protos := rfl
@[simp] theorem State.onPair_parts (s : State) (a b : Nat) (f : Pair → Pair) : (s.onPair a b f).parts = s.parts := rfl
@[simp] theorem State.onPair_saved (s : State) (a b : Nat) (f : Pair → Pair) : (s.onPair a b f).saved = s.saved := rfl
@[simp] theorem State.onPair_dies (s : State) (a b : Nat) (f : Pair → Pair) : (s.onPair a b f).dies = s.dies := rfl
@[simp] theorem State.onPair_svc (s : State) (a b : Nat) (f : Pair → Pair) : (s.onPair a b f).svc = s.svc := rfl
@[simp] theorem State.onPair_psendq (s : State) (a b : Nat) (f : Pair → Pair) : (s.onPair a b f).psendq = s.psendq := rfl
@[simp] theorem State.onPair_ports (s : State) (a b : Nat) (f : Pair → Pair) : (s.onPair a b f).ports = s.ports := rfl
@[simp] theorem State.onPair_sentFrames (s : State) (a b : Nat) (f : Pair → Pair) : (s.onPair a b f).sentFrames = s.sentFrames := rfl
@[simp] theorem State.onPair_physQueue (s : State) (a b : Nat) (f : Pair → Pair) : (s.onPair a b f).physQueue = s.physQueue := rfl
@[simp] theorem State.onPair_badFrames (s : State) (a b : Nat) (f : Pair → Pair) : (s.onPair a b f).badFrames = s.badFrames := rfl
@[simp] theorem State.onPair_fns (s : State) (a b : Nat) (f : Pair → Pair) : (s.onPair a b f).fns = s.fns := rfl
@[simp] theorem State.onPair_hostReads (s : State) (a b : Nat) (f : Pair → Pair) : (s.onPair a b f).hostReads = s.hostReads := rfl
@[simp] theorem State.onPair_flash (s : State) (a b : Nat) (f : Pair → Pair) : (s.onPair a b f).flash = s.flash := rfl
@[simp] theorem State.onPair_hostImage (s : State) (a b : Nat) (f : Pair → Pair) : (s.onPair a b f).hostImage = s.hostImage := rfl
@[simp] theorem State.onPair_harvest (s : State) (a b : Nat) (f : Pair → Pair) : (s.onPair a b f).harvest = s.harvest := rfl
@[simp] theorem State.onPair_trims (s : State) (a b : Nat) (f : Pair → Pair) : (s.onPair a b f).trims = s.trims := rfl
@[simp] theorem State.onPair_msix (s : State) (a b : Nat) (f : Pair → Pair) : (s.onPair a b f).msix = s.msix := rfl
@[simp] theorem State.onPair_mailbox (s : State) (a b : Nat) (f : Pair → Pair) : (s.onPair a b f).mailbox = s.mailbox := rfl
@[simp] theorem State.onPair_reports (s : State) (a b : Nat) (f : Pair → Pair) : (s.onPair a b f).reports = s.reports := rfl

/-! ## `schedule` -/

@[simp] theorem State.schedule_now (s : State) (d p : Nat) (e : Event) : (s.schedule d p e).now = s.now := rfl
@[simp] theorem State.schedule_powered (s : State) (d p : Nat) (e : Event) : (s.schedule d p e).powered = s.powered := rfl
@[simp] theorem State.schedule_modnum (s : State) (d p : Nat) (e : Event) : (s.schedule d p e).modnum = s.modnum := rfl
@[simp] theorem State.schedule_ctr (s : State) (d p : Nat) (e : Event) : (s.schedule d p e).ctr = s.ctr := rfl
@[simp] theorem State.schedule_uids (s : State) (d p : Nat) (e : Event) : (s.schedule d p e).uids = s.uids := rfl
@[simp] theorem State.schedule_focus (s : State) (d p : Nat) (e : Event) : (s.schedule d p e).focus = s.focus := rfl
@[simp] theorem State.schedule_word (s : State) (d p : Nat) (e : Event) : (s.schedule d p e).word = s.word := rfl
@[simp] theorem State.schedule_event (s : State) (d p : Nat) (e : Event) : (s.schedule d p e).event = s.event := rfl
@[simp] theorem State.schedule_arr (s : State) (d p : Nat) (e : Event) : (s.schedule d p e).arr = s.arr := rfl
@[simp] theorem State.schedule_tie (s : State) (d p : Nat) (e : Event) : (s.schedule d p e).tie = s.tie := rfl
@[simp] theorem State.schedule_strands (s : State) (d p : Nat) (e : Event) : (s.schedule d p e).strands = s.strands := rfl
@[simp] theorem State.schedule_tiles (s : State) (d p : Nat) (e : Event) : (s.schedule d p e).tiles = s.tiles := rfl
@[simp] theorem State.schedule_partOf (s : State) (d p : Nat) (e : Event) : (s.schedule d p e).partOf = s.partOf := rfl
@[simp] theorem State.schedule_retired (s : State) (d p : Nat) (e : Event) : (s.schedule d p e).retired = s.retired := rfl
@[simp] theorem State.schedule_cores (s : State) (d p : Nat) (e : Event) : (s.schedule d p e).cores = s.cores := rfl
@[simp] theorem State.schedule_vunits (s : State) (d p : Nat) (e : Event) : (s.schedule d p e).vunits = s.vunits := rfl
@[simp] theorem State.schedule_cbs (s : State) (d p : Nat) (e : Event) : (s.schedule d p e).cbs = s.cbs := rfl
@[simp] theorem State.schedule_fetches (s : State) (d p : Nat) (e : Event) : (s.schedule d p e).fetches = s.fetches := rfl
@[simp] theorem State.schedule_matrices (s : State) (d p : Nat) (e : Event) : (s.schedule d p e).matrices = s.matrices := rfl
@[simp] theorem State.schedule_xchs (s : State) (d p : Nat) (e : Event) : (s.schedule d p e).xchs = s.xchs := rfl
@[simp] theorem State.schedule_mem (s : State) (d p : Nat) (e : Event) : (s.schedule d p e).mem = s.mem := rfl
@[simp] theorem State.schedule_poison (s : State) (d p : Nat) (e : Event) : (s.schedule d p e).poison = s.poison := rfl
@[simp] theorem State.schedule_cache (s : State) (d p : Nat) (e : Event) : (s.schedule d p e).cache = s.cache := rfl
@[simp] theorem State.schedule_backing (s : State) (d p : Nat) (e : Event) : (s.schedule d p e).backing = s.backing := rfl
@[simp] theorem State.schedule_descs (s : State) (d p : Nat) (e : Event) : (s.schedule d p e).descs = s.descs := rfl
@[simp] theorem State.schedule_groups (s : State) (d p : Nat) (e : Event) : (s.schedule d p e).groups = s.groups := rfl
@[simp] theorem State.schedule_locks (s : State) (d p : Nat) (e : Event) : (s.schedule d p e).locks = s.locks := rfl
@[simp] theorem State.schedule_walks (s : State) (d p : Nat) (e : Event) : (s.schedule d p e).walks = s.walks := rfl
@[simp] theorem State.schedule_jobs (s : State) (d p : Nat) (e : Event) : (s.schedule d p e).jobs = s.jobs := rfl
@[simp] theorem State.schedule_pairs (s : State) (d p : Nat) (e : Event) : (s.schedule d p e).pairs = s.pairs := rfl
@[simp] theorem State.schedule_links (s : State) (d p : Nat) (e : Event) : (s.schedule d p e).links = s.links := rfl
@[simp] theorem State.schedule_linkSets (s : State) (d p : Nat) (e : Event) : (s.schedule d p e).linkSets = s.linkSets := rfl
@[simp] theorem State.schedule_linkParts (s : State) (d p : Nat) (e : Event) : (s.schedule d p e).linkParts = s.linkParts := rfl
@[simp] theorem State.schedule_peerPairs (s : State) (d p : Nat) (e : Event) : (s.schedule d p e).peerPairs = s.peerPairs := rfl
@[simp] theorem State.schedule_peerTags (s : State) (d p : Nat) (e : Event) : (s.schedule d p e).peerTags = s.peerTags := rfl
@[simp] theorem State.schedule_peerHeld (s : State) (d p : Nat) (e : Event) : (s.schedule d p e).peerHeld = s.peerHeld := rfl
@[simp] theorem State.schedule_peerOut (s : State) (d p : Nat) (e : Event) : (s.schedule d p e).peerOut = s.peerOut := rfl
@[simp] theorem State.schedule_exportPart (s : State) (d p : Nat) (e : Event) : (s.schedule d p e).exportPart = s.exportPart := rfl
@[simp] theorem State.schedule_protos (s : State) (d p : Nat) (e : Event) : (s.schedule d p e).protos = s.protos := rfl
@[simp] theorem State.schedule_parts (s : State) (d p : Nat) (e : Event) : (s.schedule d p e).parts = s.parts := rfl
@[simp] theorem State.schedule_saved (s : State) (d p : Nat) (e : Event) : (s.schedule d p e).saved = s.saved := rfl
@[simp] theorem State.schedule_dies (s : State) (d p : Nat) (e : Event) : (s.schedule d p e).dies = s.dies := rfl
@[simp] theorem State.schedule_svc (s : State) (d p : Nat) (e : Event) : (s.schedule d p e).svc = s.svc := rfl
@[simp] theorem State.schedule_psendq (s : State) (d p : Nat) (e : Event) : (s.schedule d p e).psendq = s.psendq := rfl
@[simp] theorem State.schedule_ports (s : State) (d p : Nat) (e : Event) : (s.schedule d p e).ports = s.ports := rfl
@[simp] theorem State.schedule_sentFrames (s : State) (d p : Nat) (e : Event) : (s.schedule d p e).sentFrames = s.sentFrames := rfl
@[simp] theorem State.schedule_physQueue (s : State) (d p : Nat) (e : Event) : (s.schedule d p e).physQueue = s.physQueue := rfl
@[simp] theorem State.schedule_badFrames (s : State) (d p : Nat) (e : Event) : (s.schedule d p e).badFrames = s.badFrames := rfl
@[simp] theorem State.schedule_fns (s : State) (d p : Nat) (e : Event) : (s.schedule d p e).fns = s.fns := rfl
@[simp] theorem State.schedule_hostReads (s : State) (d p : Nat) (e : Event) : (s.schedule d p e).hostReads = s.hostReads := rfl
@[simp] theorem State.schedule_flash (s : State) (d p : Nat) (e : Event) : (s.schedule d p e).flash = s.flash := rfl
@[simp] theorem State.schedule_hostImage (s : State) (d p : Nat) (e : Event) : (s.schedule d p e).hostImage = s.hostImage := rfl
@[simp] theorem State.schedule_harvest (s : State) (d p : Nat) (e : Event) : (s.schedule d p e).harvest = s.harvest := rfl
@[simp] theorem State.schedule_trims (s : State) (d p : Nat) (e : Event) : (s.schedule d p e).trims = s.trims := rfl
@[simp] theorem State.schedule_msix (s : State) (d p : Nat) (e : Event) : (s.schedule d p e).msix = s.msix := rfl
@[simp] theorem State.schedule_mailbox (s : State) (d p : Nat) (e : Event) : (s.schedule d p e).mailbox = s.mailbox := rfl
@[simp] theorem State.schedule_reports (s : State) (d p : Nat) (e : Event) : (s.schedule d p e).reports = s.reports := rfl

/-! ## `setByte` -/

@[simp] theorem State.setByte_now (s : State) (k : Nat) (b : Byte) : (s.setByte k b).now = s.now := rfl
@[simp] theorem State.setByte_powered (s : State) (k : Nat) (b : Byte) : (s.setByte k b).powered = s.powered := rfl
@[simp] theorem State.setByte_modnum (s : State) (k : Nat) (b : Byte) : (s.setByte k b).modnum = s.modnum := rfl
@[simp] theorem State.setByte_ctr (s : State) (k : Nat) (b : Byte) : (s.setByte k b).ctr = s.ctr := rfl
@[simp] theorem State.setByte_seq (s : State) (k : Nat) (b : Byte) : (s.setByte k b).seq = s.seq := rfl
@[simp] theorem State.setByte_uids (s : State) (k : Nat) (b : Byte) : (s.setByte k b).uids = s.uids := rfl
@[simp] theorem State.setByte_focus (s : State) (k : Nat) (b : Byte) : (s.setByte k b).focus = s.focus := rfl
@[simp] theorem State.setByte_word (s : State) (k : Nat) (b : Byte) : (s.setByte k b).word = s.word := rfl
@[simp] theorem State.setByte_event (s : State) (k : Nat) (b : Byte) : (s.setByte k b).event = s.event := rfl
@[simp] theorem State.setByte_arr (s : State) (k : Nat) (b : Byte) : (s.setByte k b).arr = s.arr := rfl
@[simp] theorem State.setByte_tie (s : State) (k : Nat) (b : Byte) : (s.setByte k b).tie = s.tie := rfl
@[simp] theorem State.setByte_agenda (s : State) (k : Nat) (b : Byte) : (s.setByte k b).agenda = s.agenda := rfl
@[simp] theorem State.setByte_strands (s : State) (k : Nat) (b : Byte) : (s.setByte k b).strands = s.strands := rfl
@[simp] theorem State.setByte_tiles (s : State) (k : Nat) (b : Byte) : (s.setByte k b).tiles = s.tiles := rfl
@[simp] theorem State.setByte_partOf (s : State) (k : Nat) (b : Byte) : (s.setByte k b).partOf = s.partOf := rfl
@[simp] theorem State.setByte_retired (s : State) (k : Nat) (b : Byte) : (s.setByte k b).retired = s.retired := rfl
@[simp] theorem State.setByte_cores (s : State) (k : Nat) (b : Byte) : (s.setByte k b).cores = s.cores := rfl
@[simp] theorem State.setByte_vunits (s : State) (k : Nat) (b : Byte) : (s.setByte k b).vunits = s.vunits := rfl
@[simp] theorem State.setByte_cbs (s : State) (k : Nat) (b : Byte) : (s.setByte k b).cbs = s.cbs := rfl
@[simp] theorem State.setByte_fetches (s : State) (k : Nat) (b : Byte) : (s.setByte k b).fetches = s.fetches := rfl
@[simp] theorem State.setByte_matrices (s : State) (k : Nat) (b : Byte) : (s.setByte k b).matrices = s.matrices := rfl
@[simp] theorem State.setByte_xchs (s : State) (k : Nat) (b : Byte) : (s.setByte k b).xchs = s.xchs := rfl
@[simp] theorem State.setByte_poison (s : State) (k : Nat) (b : Byte) : (s.setByte k b).poison = s.poison := rfl
@[simp] theorem State.setByte_cache (s : State) (k : Nat) (b : Byte) : (s.setByte k b).cache = s.cache := rfl
@[simp] theorem State.setByte_backing (s : State) (k : Nat) (b : Byte) : (s.setByte k b).backing = s.backing := rfl
@[simp] theorem State.setByte_descs (s : State) (k : Nat) (b : Byte) : (s.setByte k b).descs = s.descs := rfl
@[simp] theorem State.setByte_groups (s : State) (k : Nat) (b : Byte) : (s.setByte k b).groups = s.groups := rfl
@[simp] theorem State.setByte_locks (s : State) (k : Nat) (b : Byte) : (s.setByte k b).locks = s.locks := rfl
@[simp] theorem State.setByte_walks (s : State) (k : Nat) (b : Byte) : (s.setByte k b).walks = s.walks := rfl
@[simp] theorem State.setByte_jobs (s : State) (k : Nat) (b : Byte) : (s.setByte k b).jobs = s.jobs := rfl
@[simp] theorem State.setByte_pairs (s : State) (k : Nat) (b : Byte) : (s.setByte k b).pairs = s.pairs := rfl
@[simp] theorem State.setByte_links (s : State) (k : Nat) (b : Byte) : (s.setByte k b).links = s.links := rfl
@[simp] theorem State.setByte_linkSets (s : State) (k : Nat) (b : Byte) : (s.setByte k b).linkSets = s.linkSets := rfl
@[simp] theorem State.setByte_linkParts (s : State) (k : Nat) (b : Byte) : (s.setByte k b).linkParts = s.linkParts := rfl
@[simp] theorem State.setByte_peerPairs (s : State) (k : Nat) (b : Byte) : (s.setByte k b).peerPairs = s.peerPairs := rfl
@[simp] theorem State.setByte_peerTags (s : State) (k : Nat) (b : Byte) : (s.setByte k b).peerTags = s.peerTags := rfl
@[simp] theorem State.setByte_peerHeld (s : State) (k : Nat) (b : Byte) : (s.setByte k b).peerHeld = s.peerHeld := rfl
@[simp] theorem State.setByte_peerOut (s : State) (k : Nat) (b : Byte) : (s.setByte k b).peerOut = s.peerOut := rfl
@[simp] theorem State.setByte_exportPart (s : State) (k : Nat) (b : Byte) : (s.setByte k b).exportPart = s.exportPart := rfl
@[simp] theorem State.setByte_protos (s : State) (k : Nat) (b : Byte) : (s.setByte k b).protos = s.protos := rfl
@[simp] theorem State.setByte_parts (s : State) (k : Nat) (b : Byte) : (s.setByte k b).parts = s.parts := rfl
@[simp] theorem State.setByte_saved (s : State) (k : Nat) (b : Byte) : (s.setByte k b).saved = s.saved := rfl
@[simp] theorem State.setByte_dies (s : State) (k : Nat) (b : Byte) : (s.setByte k b).dies = s.dies := rfl
@[simp] theorem State.setByte_svc (s : State) (k : Nat) (b : Byte) : (s.setByte k b).svc = s.svc := rfl
@[simp] theorem State.setByte_psendq (s : State) (k : Nat) (b : Byte) : (s.setByte k b).psendq = s.psendq := rfl
@[simp] theorem State.setByte_ports (s : State) (k : Nat) (b : Byte) : (s.setByte k b).ports = s.ports := rfl
@[simp] theorem State.setByte_sentFrames (s : State) (k : Nat) (b : Byte) : (s.setByte k b).sentFrames = s.sentFrames := rfl
@[simp] theorem State.setByte_physQueue (s : State) (k : Nat) (b : Byte) : (s.setByte k b).physQueue = s.physQueue := rfl
@[simp] theorem State.setByte_badFrames (s : State) (k : Nat) (b : Byte) : (s.setByte k b).badFrames = s.badFrames := rfl
@[simp] theorem State.setByte_fns (s : State) (k : Nat) (b : Byte) : (s.setByte k b).fns = s.fns := rfl
@[simp] theorem State.setByte_hostReads (s : State) (k : Nat) (b : Byte) : (s.setByte k b).hostReads = s.hostReads := rfl
@[simp] theorem State.setByte_flash (s : State) (k : Nat) (b : Byte) : (s.setByte k b).flash = s.flash := rfl
@[simp] theorem State.setByte_hostImage (s : State) (k : Nat) (b : Byte) : (s.setByte k b).hostImage = s.hostImage := rfl
@[simp] theorem State.setByte_harvest (s : State) (k : Nat) (b : Byte) : (s.setByte k b).harvest = s.harvest := rfl
@[simp] theorem State.setByte_trims (s : State) (k : Nat) (b : Byte) : (s.setByte k b).trims = s.trims := rfl
@[simp] theorem State.setByte_msix (s : State) (k : Nat) (b : Byte) : (s.setByte k b).msix = s.msix := rfl
@[simp] theorem State.setByte_mailbox (s : State) (k : Nat) (b : Byte) : (s.setByte k b).mailbox = s.mailbox := rfl
@[simp] theorem State.setByte_reports (s : State) (k : Nat) (b : Byte) : (s.setByte k b).reports = s.reports := rfl

end Sys2Proof.Machine
end

