-- ==== Sys2Proof/Laws/Ops.lean ====
section
/-! SUPPORT. What the shared operations of instructions do: reading and changing strands and cores, issuing, retiring,
and writing back. -/

namespace Sys2Proof.Machine
open Sys2Proof

/-! ## Strands and cores -/

theorem State.strand_onStrand (s : State) (u v : Nat) (f : Strand → Strand) :
    (s.onStrand u f).strand v = if v = u then (s.strand v).map f else s.strand v := SMap.find?_adjust _ _ _ _

@[simp] theorem State.strand_onStrand_self (s : State) (u : Nat) (f : Strand → Strand) :
    (s.onStrand u f).strand u = (s.strand u).map f := SMap.find?_adjust_self _ _ _

theorem State.strand_onStrand_ne (s : State) {u v : Nat} (f : Strand → Strand) (h : v ≠ u) :
    (s.onStrand u f).strand v = s.strand v := SMap.find?_adjust_ne _ _ h

@[simp] theorem State.core_onCore_self (s : State) (t c : Nat) (f : Core → Core) :
    (s.onCore t c f).core t c = f (s.core t c) := SMap.getD_put_self _ _ _ _

theorem State.core_onCore_ne (s : State) {t c a b : Nat} (f : Core → Core) (h : coreNo a b ≠ coreNo t c) :
    (s.onCore t c f).core a b = s.core a b := SMap.getD_put_ne _ _ _ h

@[simp] theorem State.strand_schedule (s : State) (d p : Nat) (e : Event) (v : Nat) :
    (s.schedule d p e).strand v = s.strand v := rfl
@[simp] theorem State.strand_onCore (s : State) (t c : Nat) (f : Core → Core) (v : Nat) :
    (s.onCore t c f).strand v = s.strand v := rfl
@[simp] theorem State.core_onStrand (s : State) (u : Nat) (f : Strand → Strand) (a b : Nat) :
    (s.onStrand u f).core a b = s.core a b := rfl
@[simp] theorem State.core_schedule (s : State) (d p : Nat) (e : Event) (a b : Nat) :
    (s.schedule d p e).core a b = s.core a b := rfl

/-! ## The scoreboard and poison (R72, R116) -/

/-- A clear strand is not blocked. -/
theorem Strand.Clear.blocked {x : Strand} {rd wr : List Reg} (h : x.Clear rd wr) : x.blocked rd wr = false := by
  have key : ∀ r ∈ rd ++ wr, x.isPending r = false := by
    intro r hr
    unfold Strand.isPending
    by_cases h24 : r.toNat < 24
    · simp only [h24, decide_true, Bool.true_and, List.any_eq_false, beq_iff_eq]
      exact fun p hp => h.arrived p hp r hr h24
    · simp [h24]
  unfold Strand.blocked
  simp only [Bool.or_eq_false_iff, List.any_eq_false, Bool.not_eq_true]
  exact ⟨fun r hr => key r (List.mem_append_left _ hr), fun r hr => key r (List.mem_append_right _ hr)⟩

/-- A clear strand reads no poison. -/
theorem Strand.Clear.poisonIn {x : Strand} {rd wr : List Reg} (h : x.Clear rd wr) : x.poisonIn rd = none := by
  have : x.poison.filter (fun e => rd.any (fun r => r.toNat == e.1)) = [] := by
    rw [List.filter_eq_nil_iff]
    intro e he
    simp only [List.any_eq_true, beq_iff_eq, not_exists, not_and]
    exact fun r hr => Ne.symm (h.whole e he r hr)
  unfold Strand.poisonIn
  rw [this]
  rfl

/-! ## Issuing -/

/-- An instruction whose registers are in does what its own meaning says. -/
theorem issue_clear {s : State} {u t c n : Nat} {x : Strand} {rd wr : List Reg} {body : Nat → Strand → State → Act}
    (hi : s.Issuing u x t c n) (hc : x.Clear rd wr) :
    issue rd wr body s = .next (finish u t c n false (body u x s)) := by
  unfold issue issueWith
  simp only [hi.focus, hi.strand, hi.place, hc.blocked, hc.poisonIn, hi.start]
  rfl

/-- As `issue_clear`, where poison is looked for in other registers than those read. -/
theorem issueWith_clear {s : State} {u t c n : Nat} {x : Strand} {rd wr ps : List Reg}
    {body : Nat → Strand → State → Act} (hi : s.Issuing u x t c n) (hc : x.Clear rd wr) (hp : x.Clear ps []) :
    issueWith rd wr ps body s = .next (finish u t c n false (body u x s)) := by
  unfold issueWith
  simp only [hi.focus, hi.strand, hi.place, hc.blocked, hp.poisonIn, hi.start]
  rfl

/-- A supervisor instruction in supervisor mode. -/
theorem issueSup_clear {s : State} {u t c n : Nat} {x : Strand} {rd wr : List Reg} {body : Nat → Strand → State → Act}
    (hi : s.Issuing u x t c n) (hs : x.ctx.sup = true) (hc : x.Clear rd wr) :
    issueSup rd wr body s = .next (finish u t c n false (body u x s)) := by
  unfold issueSup
  simp only [hi.focus, hi.strand, hs]
  exact issue_clear hi hc

/-! ## Retiring -/

/-- An instruction that changes only its strand, to `f x`, and retires at `pc`. -/
theorem retiredAs_of_strand {s : State} {u t c n : Nat} {x : Strand} (hi : s.Issuing u x t c n)
    (f : Strand → Strand) (pc : BitVec 48) :
    s.RetiredAs (finish u t c n false (.ok ((s.onStrand u f).retireTo u pc))) u t c n (f x) pc := by
  have hx := hi.strand
  have h1 : (s.onStrand u f).strand u = some (f x) := by simp [hx]
  unfold finish State.retireTo State.took
  simp only [h1, Bool.false_eq_true, if_false]
  have hsteps : (State.onStrand (s.onStrand u f) u (fun x => x.retired pc)).steps (f x) = s.steps (f x) := rfl
  rw [hsteps]
  by_cases hst : s.steps (f x) = true
  · simp only [hst, if_true]
    refine ⟨?_, ?_, ?_, ?_, ?_, ?_, ?_⟩
    · simp [hx, Strand.finished, Strand.retired]
    · intro v hv; simp [State.strand_onStrand_ne _ _ hv]
    · simp
    · intro a b hab; simp [State.core_onCore_ne _ _ hab]
    · simp [hst, State.schedule, State.onCore, State.onStrand]
    · intro k; rfl
    · rfl
  · simp only [hst]
    refine ⟨?_, ?_, ?_, ?_, ?_, ?_, ?_⟩
    · simp [hx, Strand.finished, Strand.retired]
    · intro v hv; simp [State.strand_onStrand_ne _ _ hv]
    · simp
    · intro a b hab; simp [State.core_onCore_ne _ _ hab]
    · simp [hst, State.onCore, State.onStrand]
    · intro k; rfl
    · rfl

end Sys2Proof.Machine
end

