-- ==== Sys2Proof/Tests/Slice0.lean ====
section
/-! SUPPORT. Tests: words of the table decoded, limits of encodings, values that the spec works out, and for each
statement of the certificate concrete states and operands that meet its hypotheses. -/

open Sys2Proof Sys2Proof.Machine
namespace Sys2Proof.Tests

/-- Every word decodes to the instruction beside it, and a guarded one has guard p3 negated. -/
def decodesTo (l : List (Half × Instr)) : Bool :=
  l.all (fun e => match decode e.1 with
    | .ok i => i == e.2 && (unguarded e.1 || guardOf e.1 == ⟨3, true⟩)
    | .error _ => false)

/-- Words of the table's rows with every operand field filled, under guard p3 negated. -/
theorem test_decode_sys : decodesTo [
    (0x00E00001, .nop),
    (0x00E00002, .done),
    (0x00E00003, .yield),
    (0x00E0B144, .trap 709),
    (0x00E00005, .brk),
    (0x00E50006, .rdcyc 5),
    (0x00E50007, .rdout 5),
    (0x00E50008, .pseq 5),
    (0x00E0B149, .svc 709)] = true := by decide

/-- Words of the table's rows with every operand field filled, under guard p3 negated. -/
theorem test_decode_alu : decodesTo [
    (0x04E58B00, .add 5 17 12),
    (0x04E58B01, .sub 5 17 12),
    (0x04E58B02, .mul 5 17 12),
    (0x04E58B03, .mulh 5 17 12),
    (0x04E58B04, .mulhs 5 17 12),
    (0x04E58B05, .div 5 17 12),
    (0x04E58B06, .divs 5 17 12),
    (0x04E58B07, .rem 5 17 12),
    (0x04E58B08, .rems 5 17 12),
    (0x04E58B09, .and 5 17 12),
    (0x04E58B0A, .or 5 17 12),
    (0x04E58B0B, .xor 5 17 12),
    (0x04E58B0C, .andn 5 17 12),
    (0x04E58B0D, .shl 5 17 12),
    (0x04E58B0E, .shr 5 17 12),
    (0x04E58B0F, .sra 5 17 12),
    (0x04E58B10, .rol 5 17 12),
    (0x04E58B11, .min 5 17 12),
    (0x04E58B12, .mins 5 17 12),
    (0x04E58B13, .max 5 17 12),
    (0x04E58B14, .maxs 5 17 12),
    (0x04E58815, .clz 5 17),
    (0x04E58816, .ctz 5 17),
    (0x04E58817, .popc 5 17),
    (0x04E58818, .sxb 5 17),
    (0x04E58819, .sxh 5 17),
    (0x04E5881A, .sxw 5 17),
    (0x04E5881B, .zxw 5 17),
    (0x04E58B1C, .addw 5 17 12),
    (0x04E58B1D, .subw 5 17 12),
    (0x04E58B1E, .mulw 5 17 12),
    (0x04E58B1F, .adds 5 17 12),
    (0x04E58B20, .subs 5 17 12),
    (0x04E58821, .bswp 5 17)] = true := by decide

/-- Words of the table's rows with every operand field filled, under guard p3 negated. -/
theorem test_decode_shift : decodesTo [
    (0x18E5882B, .shli 5 17 43),
    (0x18E5886B, .shri 5 17 43),
    (0x18E588AB, .srai 5 17 43),
    (0x18E588EB, .roli 5 17 43)] = true := by decide

/-- Words of the table's rows with every operand field filled, under guard p3 negated. -/
theorem test_decode_cmp : decodesTo [
    (0x20F68B00, .cmpEq 11 17 12),
    (0x20F78D30, .cmpEqImm 11 17 83),
    (0x20F68B01, .cmpNe 11 17 12),
    (0x20F78D31, .cmpNeImm 11 17 83),
    (0x20F68B02, .cmpLt 11 17 12),
    (0x20F78D32, .cmpLtImm 11 17 83),
    (0x20F68B03, .cmpGe 11 17 12),
    (0x20F78D33, .cmpGeImm 11 17 83),
    (0x20F68B04, .cmpLtu 11 17 12),
    (0x20F78D34, .cmpLtuImm 11 17 83),
    (0x20F68B05, .cmpGeu 11 17 12),
    (0x20F78D35, .cmpGeuImm 11 17 83),
    (0x20F68B06, .cmpGt 11 17 12),
    (0x20F78D36, .cmpGtImm 11 17 83),
    (0x20F68B07, .cmpLe 11 17 12),
    (0x20F78D37, .cmpLeImm 11 17 83),
    (0x20F68B08, .cmpGtu 11 17 12),
    (0x20F78D38, .cmpGtuImm 11 17 83),
    (0x20F68B09, .cmpLeu 11 17 12),
    (0x20F78D39, .cmpLeuImm 11 17 83),
    (0x20F68B0A, .cmpTst 11 17 12),
    (0x20F78D3A, .cmpTstImm 11 17 83),
    (0x20F68B0B, .cmpNtst 11 17 12),
    (0x20F78D3B, .cmpNtstImm 11 17 83),
    (0x20F68B0C, .cmpFeq 11 17 12),
    (0x20F68B0D, .cmpFlt 11 17 12),
    (0x20F68B0E, .cmpFle 11 17 12),
    (0x20F68B0F, .cmpFunord 11 17 12)] = true := by decide

/-- Words of the table's rows with every operand field filled, under guard p3 negated. -/
theorem test_decode_pred : decodesTo [
    (0x24ED3800, .pand 6 9 12),
    (0x24ED3801, .por 6 9 12),
    (0x24ED3802, .pxor 6 9 12),
    (0x24ED3803, .pandn 6 9 12),
    (0x24ED2004, .pnot 6 9),
    (0x24E50008, .pget 5),
    (0x24E08809, .pput 17)] = true := by decide

/-- Words of the table's rows with every operand field filled, under guard p3 negated. -/
theorem test_decode_jump : decodesTo [
    (0x38E08800, .jr 17),
    (0x38E58801, .jcall 5 17)] = true := by decide

/-- Words of the table's rows with every operand field filled, under guard p3 negated. -/
theorem test_decode_float : decodesTo [
    (0x3CE58B00, .fadd 5 17 12),
    (0x3CE58B01, .fsub 5 17 12),
    (0x3CE58B02, .fmul 5 17 12),
    (0x3CE58B03, .fma 5 17 12),
    (0x3CE58B04, .fmax 5 17 12),
    (0x3CE58B05, .fmin 5 17 12),
    (0x3CE58806, .fabs 5 17),
    (0x3CE58807, .fneg 5 17),
    (0x3CE58B08, .fdiv 5 17 12),
    (0x3CE58809, .fsqrt 5 17),
    (0x3CE5880A, .frsqrt 5 17),
    (0x3CE5880B, .frcp 5 17),
    (0x3CE5880C, .fexp2 5 17),
    (0x3CE5880D, .flog2 5 17),
    (0x3CE58810, .itof 5 17),
    (0x3CE58811, .ftoiRne 5 17),
    (0x3CE58812, .ftoiRz 5 17),
    (0x3CE58813, .ftoiDn 5 17),
    (0x3CE58B14, .bfdot4 5 17 12),
    (0x3CE58B15, .e4dot8 5 17 12),
    (0x3CE58B16, .bfpack 5 17 12),
    (0x3CE58817, .bfunpk 5 17)] = true := by decide

/-- Words of the table's rows with every operand field filled, under guard p3 negated. -/
theorem test_decode_atomics : decodesTo [
    (0x6CE58B20, .aadd 5 17 12 true),
    (0x6CE58B21, .aand 5 17 12 true),
    (0x6CE58B22, .aor 5 17 12 true),
    (0x6CE58B23, .axor 5 17 12 true),
    (0x6CE58B24, .amin 5 17 12 true),
    (0x6CE58B25, .amins 5 17 12 true),
    (0x6CE58B26, .amax 5 17 12 true),
    (0x6CE58B27, .amaxs 5 17 12 true),
    (0x6CE58B28, .aswap 5 17 12 true),
    (0x6CE58B29, .acas 5 17 12 true)] = true := by decide

/-- Words of the table's rows with every operand field filled, under guard p3 negated. -/
theorem test_decode_posted : decodesTo [
    (0x70E08B20, .postAdd 17 12 true),
    (0x70E08B21, .postAnd 17 12 true),
    (0x70E08B22, .postOr 17 12 true),
    (0x70E08B23, .postXor 17 12 true),
    (0x70E08B24, .postMin 17 12 true),
    (0x70E08B25, .postMins 17 12 true),
    (0x70E08B26, .postMax 17 12 true),
    (0x70E08B27, .postMaxs 17 12 true),
    (0x70E08B2A, .postSt 17 12 true)] = true := by decide

/-- Words of the table's rows with every operand field filled, under guard p3 negated. -/
theorem test_decode_fences : decodesTo [
    (0x74E05400, .fenceRel 2 true false true),
    (0x74E05401, .fenceAcq 2 true false true),
    (0x74E05402, .fenceFull 2 true false true),
    (0x74E08B03, .park 17 12)] = true := by decide

/-- Words of the table's rows with every operand field filled, under guard p3 negated. -/
theorem test_decode_strands : decodesTo [
    (0x78E58B00, .spawn 5 17 12),
    (0x78E58B01, .spawnat 5 17 12),
    (0x78E08802, .go 17),
    (0x78E00003, .pin),
    (0x78E00004, .unpin),
    (0x78E08805, .join 17),
    (0x78E08B06, .cancel 17 12),
    (0x78E08807, .prio 17),
    (0x78E08808, .setlin 17)] = true := by decide

/-- Words of the table's rows with every operand field filled, under guard p3 negated. -/
theorem test_decode_sync : decodesTo [
    (0x7CE08800, .arrive 17),
    (0x7CE08B01, .await 17 12)] = true := by decide

/-- Words of the table's rows with every operand field filled, under guard p3 negated. -/
theorem test_decode_vector_alu : decodesTo [
    (0x80FAB900, .vfadd 6 5 3 9),
    (0x80FAB901, .vfsub 6 5 3 9),
    (0x80FAB902, .vfmul 6 5 3 9),
    (0x80FAB903, .vfma 6 5 3 9),
    (0x80FAB904, .vfmax 6 5 3 9),
    (0x80FAB905, .vfmin 6 5 3 9),
    (0x80F83906, .vfabs 6 3 9),
    (0x80F83907, .vfneg 6 3 9),
    (0x80FAB908, .vfdiv 6 5 3 9),
    (0x80FAB909, .vfcmpEq 6 5 3 9),
    (0x80FAB90A, .vfcmpLt 6 5 3 9),
    (0x80FAB90B, .vfcmpLe 6 5 3 9),
    (0x80FAB910, .viadd 6 5 3 9),
    (0x80FAB911, .visub 6 5 3 9),
    (0x80FAB912, .vimul 6 5 3 9),
    (0x80FAB913, .vimax 6 5 3 9),
    (0x80FAB914, .vimin 6 5 3 9),
    (0x80FAB915, .vand 6 5 3 9),
    (0x80FAB916, .vor 6 5 3 9),
    (0x80FAB917, .vxor 6 5 3 9),
    (0x80FAB918, .vshl 6 5 3 9),
    (0x80FAB919, .vshr 6 5 3 9),
    (0x80FAB91A, .vsra 6 5 3 9),
    (0x80FAB91B, .vicmpEq 6 5 3 9),
    (0x80FAB91C, .vicmpLt 6 5 3 9),
    (0x80FAB920, .vsel 6 5 3 9),
    (0x80F83921, .vmov 6 3 9)] = true := by decide

/-- Words of the table's rows with every operand field filled, under guard p3 negated. -/
theorem test_decode_vector_memory : decodesTo [
    (0x84F22C50, .vld 4 17 12 5),
    (0x84F22C51, .vst 4 17 12 5),
    (0x84F22052, .vldr 4 17 5)] = true := by decide

/-- Words of the table's rows with every operand field filled, under guard p3 negated. -/
theorem test_decode_vector_convert : decodesTo [
    (0x88F83900, .vcvtF32I32 6 3 9),
    (0x88F83901, .vcvtI32F32Rne 6 3 9),
    (0x88F83902, .vcvtI32F32Rz 6 3 9),
    (0x88F83903, .vqzE4m3 6 3 9),
    (0x88F83904, .vqzE5m2 6 3 9),
    (0x88F83905, .vqzBf16 6 3 9),
    (0x88F83906, .vqzE5m2Ieee 6 3 9)] = true := by decide

/-- Words of the table's rows with every operand field filled, under guard p3 negated. -/
theorem test_decode_vector_reduce : decodesTo [
    (0x8CF83900, .vrsum 6 3 9),
    (0x8CF83901, .vrmax 6 3 9),
    (0x8CF83902, .vrmin 6 3 9),
    (0x8CF83903, .vramax 6 3 9),
    (0x8CF83908, .vrsqrt 6 3 9),
    (0x8CF83909, .vrcp 6 3 9),
    (0x8CF8390A, .vsqrt 6 3 9),
    (0x8CF8390B, .vexp2 6 3 9),
    (0x8CF8390C, .vlog2 6 3 9)] = true := by decide

/-- Words of the table's rows with every operand field filled, under guard p3 negated. -/
theorem test_decode_vector_unit : decodesTo [
    (0x90E00000, .vclaim),
    (0x90E00001, .vrel),
    (0x90E08B02, .vshape 17 12),
    (0x90F08803, .vbcast 4 17),
    (0x90F08B04, .vget 4 17 12),
    (0x90F08B05, .vput 4 17 12),
    (0x90F00006, .vzero 4)] = true := by decide

/-- Words of the table's rows with every operand field filled, under guard p3 negated. -/
theorem test_decode_fetch_control : decodesTo [
    (0xA4E50080, .fid 5 2),
    (0xA4E50081, .fdone 5 2),
    (0xA4E08882, .fwait 17 2),
    (0xA4E50083, .fstat 5 2),
    (0xA4E58B04, .mcset 5 17 12),
    (0xA4E58805, .mcclr 5 17),
    (0xA4E58886, .fres 5 17 2),
    (0xA4E58887, .fabt 5 17 2)] = true := by decide

/-- Words of the table's rows with every operand field filled, under guard p3 negated. -/
theorem test_decode_matrix_control : decodesTo [
    (0xB4E00000, .mclaim),
    (0xB4E00001, .mrel),
    (0xB4E08B02, .mfmt 17 12),
    (0xB4E00003, .mwait),
    (0xB4E50004, .mstat 5)] = true := by decide

/-- Words of the table's rows with every operand field filled, under guard p3 negated. -/
theorem test_decode_cb : decodesTo [
    (0xB8E088C0, .cbinit 17 3),
    (0xB8E500C1, .cbwait 5 3),
    (0xB8E500C2, .cbspace 5 3),
    (0xB8E088C3, .cbpush 17 3),
    (0xB8E000C4, .cbpop 3),
    (0xB8E500C5, .cbcnt 5 3)] = true := by decide

/-- Words of the table's rows with every operand field filled, under guard p3 negated. -/
theorem test_decode_exchange : decodesTo [
    (0xC0E58880, .xopen 5 17 2),
    (0xC0E50081, .xclose 5 2),
    (0xC0E50082, .xstat 5 2)] = true := by decide

/-- Words of the table's rows with every operand field filled, under guard p3 negated. -/
theorem test_decode_csr : decodesTo [
    (0xE0ED0032, .csrr 13 50),
    (0xE0ED4032, .csrw 13 50),
    (0xE0ED8032, .csrs 13 50),
    (0xE0EDC032, .csrc 13 50)] = true := by decide

/-- Words of the table's rows with every operand field filled, under guard p3 negated. -/
theorem test_decode_priv : decodesTo [
    (0xE4E00000, .tret),
    (0xE4E08B01, .tlbi 17 12),
    (0xE4E00302, .tlbia 12),
    (0xE4E08B03, .cwb 17 12),
    (0xE4E08B04, .cinv 17 12),
    (0xE4E58B05, .domset 5 17 12),
    (0xE4E58B06, .preemptSave 5 17 12),
    (0xE4E58B07, .pack 5 17 12),
    (0xE4E58B08, .prest 5 17 12),
    (0xE4E58809, .sres 5 17),
    (0xE4E5880A, .sredir 5 17)] = true := by decide

/-- Words of the table's rows with every operand field filled, under guard p3 negated. -/
theorem test_decode_single_majors : decodesTo [
    (0x08E58DA3, .addi 5 17 1443),
    (0x0CE58DA3, .andi 5 17 1443),
    (0x10E58DA3, .ori 5 17 1443),
    (0x14E58DA3, .xori 5 17 1443),
    (0x1CE58DA3, .muli 5 17 1443),
    (0x28B0BEEF, .movz 5 2 48879),
    (0x2CB0BEEF, .movk 5 2 48879),
    (0x30F2345A, .br 1193050),
    (0x34F2345A, .call 1193050),
    (0x40E58DA3, .ldb 5 17 1443),
    (0x44E58DA3, .ldh 5 17 1443),
    (0x48E58DA3, .ldw 5 17 1443),
    (0x4CE58DA3, .ldd 5 17 1443),
    (0x50E58DA3, .ldbs 5 17 1443),
    (0x54E58DA3, .ldhs 5 17 1443),
    (0x58E58DA3, .ldws 5 17 1443),
    (0x5CE58DA3, .stb 5 17 1443),
    (0x60E58DA3, .sth 5 17 1443),
    (0x64E58DA3, .stw 5 17 1443),
    (0x68E58DA3, .std 5 17 1443),
    (0xA0EBB300, .fetch 11 11 3),
    (0xB0EBB000, .mgo 11 11),
    (0xC4EBB300, .psend 11 11 3)] = true := by decide


/-! ## States for witnesses: strand 7 on tile 0 -/

/-- A register file by a list of values. -/
def regsOf (l : List Word) : Vector Word 24 := Vector.ofFn (fun i => l.getD i.val 0)

/-- g1: local store of tile 0; g2: of tile 5; g3: misaligned; g4: a start address; g5: at or above 2^48. -/
def ctx0 (sup : Bool) (tvec : BitVec 48) : Ctx :=
  { rootCtx with sup := sup, tvec := tvec, pc := 0x100,
                 g := regsOf [0, 0xFE00000000000040, 0xFE00000500000040, 3, 0x1000, 0x4000000000000, 1, 2] }

/-- A user strand in slot 3 of core 1. -/
def userX : Strand := { Strand.fresh (ctx0 false 0x2000) 0 .none with place := .slot 0 1 3, run := .ready }
/-- A supervisor strand in slot 2 of core 0. -/
def supX : Strand := { Strand.fresh (ctx0 true 0x2000) 0 .none with place := .slot 0 0 2, run := .ready }

/-- The machine with strand 7 in focus. -/
def withX (x : Strand) : State := { State.reset with strands := [(7, x)], uids := 9, focus := 7 }
/-- The machine with an event under way. -/
def withEv (x : Strand) (ev : Event) : State := { withX x with event := ev }

/-- Variants of the user strand: an address that no region decodes in g8; a load out; pinned; a posted operation out; a
refused operation and an engine trap pending; lineage 1. -/
def farX : Strand := { userX with ctx := { userX.ctx with g := userX.ctx.g.set 8 0xFF00000000000000 } }
def waitingX : Strand := { userX with pending := [(0, 20)], ids := 1 }
def pinnedX : Strand := { userX with ctx := { userX.ctx with xpin := true } }
def postedX : Strand := { userX with posted := [⟨0, 0, 5⟩] }
def refusedX : Strand := { userX with refusals := [(5, 0x40)], engTrap := some (0x0F, 2) }
def lineX : Strand := { userX with ctx := { userX.ctx with lin := 1 } }
/-- A strand in a later phase of its instruction. -/
def inPhase (x : Strand) (n : Nat) : Strand := { x with prog := { x.prog with phase := n } }

/-- Accesses of tile 0 at tile 5, and tile 5 with its turn of cycle 0 used. -/
def reqAt (op : ReqOp) : Req := ⟨0, 5, .ls 5 0x40, 0xFE00000500000040, op, .reg 7 0 4 false, 0, false, false⟩
def postAt : Post := ⟨0, 5, .ls 5 0x40, 0xFE00000500000040, .rmw .add 8 1, 7, 0, 0, false, 0, false⟩
def busyOwner : State := (withX userX).onTile 5 (fun t => { t with remote := 1 })
/-- Strand 7 holds the vector unit of its core. -/
def holding : State := (withX userX).onVunit 0 1 (fun v => { v with holder := some 7 })

theorem clear_of_empty {x : Strand} (h : x.pending = []) (h' : x.poison = []) (rd wr : List Reg) : x.Clear rd wr :=
  ⟨by simp [h], by simp [h']⟩

theorem user_issuing : (withX userX).Issuing 7 userX 0 1 3 := ⟨rfl, rfl, rfl, rfl⟩
theorem sup_issuing : (withX supX).Issuing 7 supX 0 0 2 := ⟨rfl, rfl, rfl, rfl⟩
theorem user_clear (rd wr : List Reg) : userX.Clear rd wr := clear_of_empty rfl rfl rd wr
theorem sup_clear (rd wr : List Reg) : supX.Clear rd wr := clear_of_empty rfl rfl rd wr

/-- `RegisterMembersExecute`: an integer, a moving and an f32 member. -/
theorem witness_registerMembers :
    (∃ f, integerMember (.add 1 2 3) = some (1, [2, 3], f)) ∧ (∃ f, movingMember 0 (.movk 1 3 0xFFFF) = some (1, [1], f)) ∧
    (∃ f, floatMember (.fma 1 2 3) = some (1, [1, 2, 3], f)) ∧ (withX userX).Issuing 7 userX 0 1 3 ∧
    userX.Clear [1, 2, 3] [1] := ⟨⟨_, rfl⟩, ⟨_, rfl⟩, ⟨_, rfl⟩, user_issuing, user_clear _ _⟩

theorem witness_predicateMembers :
    (∃ f, compareMember (.cmpLtImm 0 1 (-64)) = some (0, [1], f)) ∧ (∃ f, contextMember (.prio 3) = some ([3], f)) ∧
    (withX userX).Issuing 7 userX 0 1 3 ∧ userX.Clear [1] [] ∧ userX.Clear [3] [] :=
  ⟨⟨_, rfl⟩, ⟨_, rfl⟩, user_issuing, user_clear _ _, user_clear _ _⟩

/-- `JumpsTransferOrTrap`: an aligned target, a misaligned one, and 2^48. -/
theorem witness_jumps :
    (∃ t l, jumpMember (.jcall 4 4) = some ([4], [4], t, l) ∧ (t userX).toNat % 4 = 0 ∧ (t userX).toNat < 2 ^ 48) ∧
    (∃ t l, jumpMember (.jr 3) = some ([3], [], t, l) ∧ (t userX).toNat % 4 ≠ 0) ∧
    (∃ t l, jumpMember (.jr 5) = some ([5], [], t, l) ∧ (t userX).toNat % 4 = 0 ∧ 2 ^ 48 ≤ (t userX).toNat) ∧
    (withX userX).Issuing 7 userX 0 1 3 ∧ userX.Clear [4] [4] ∧ userX.ctx.tvec ≠ 0 :=
  ⟨⟨_, _, rfl, by decide, by decide⟩, ⟨_, _, rfl, by decide⟩, ⟨_, _, rfl, by decide, by decide⟩, user_issuing,
    user_clear _ _, by decide⟩

/-- The address in g1 names byte 0x40 of the own local store; the one in g2 names that of tile 5. -/
theorem names_own (p : Perm) : (withX userX).Names 7 userX (userX.reg 1) p (.ls 0 0x40) 0 (cellNo 0 true 0x40) (withX userX) :=
  ⟨rfl, rfl⟩

theorem names_away (p : Perm) : (withX userX).Names 7 userX (userX.reg 2) p (.ls 5 0x40) 5 (cellNo 5 true 0x40) (withX userX) :=
  ⟨rfl, rfl⟩

/-! ## Loads, stores, atomics and posted operations -/

/-- A strand with one load of g1 to come. -/
def loadingX : Strand := { userX with pending := [(0, 1)], ids := 1 }

/-- `LoadsExecute`: a load at the own tile; an answer with data, and with an error. -/
theorem witness_loads :
    loadMember (.ldbs 4 1 0) = some (1, true, 4, 1, 0) ∧ (withX userX).Issuing 7 userX 0 1 3 ∧ userX.Clear [1] [4] ∧
    (withX userX).Names 7 userX (userX.reg 1 + offsetOf 0 1) permR (.ls 0 0x40) 0 (cellNo 0 true 0x40) (withX userX) ∧
    (userX.reg 1 + offsetOf 0 1).toNat % 1 = 0 ∧ (withX userX).real 0 = userX.tile ∧ userX.pending.length < 8 ∧
    (withX loadingX).strand 7 = some loadingX ∧ (0, 1) ∈ loadingX.pending ∧ [(0xFF : Byte)].length ≤ 8 ∧
    (withEv loadingX (.responseArrival ⟨.reg 7 0 1 true, 0, .data [0xFF]⟩)).event =
      .responseArrival ⟨.reg 7 0 1 true, 0, .data [0xFF]⟩ ∧
    (withEv loadingX (.responseArrival ⟨.reg 7 0 1 true, 0, .fail 7⟩)).event = .responseArrival ⟨.reg 7 0 1 true, 0, .fail 7⟩ :=
  ⟨rfl, user_issuing, user_clear _ _, ⟨rfl, rfl⟩, by decide, rfl, by decide, rfl, by decide, by decide, rfl, rfl⟩
/-- `LoadsExecute`: the answer of a load whose destination is `zr`. -/
def zeroX : Strand := { userX with pending := [(0, 27)], ids := 1 }
theorem witness_loadToZero :
    (withEv zeroX (.responseArrival ⟨.reg 7 0 27 false, 0, .data [1]⟩)).strand 7 = some zeroX ∧ (0, 27) ∈ zeroX.pending ∧
    24 ≤ 27 ∧ 27 < 32 := ⟨rfl, by decide, by decide, by decide⟩

/-- The machine with a poisoned granule at 0x40 of tile 0's local store. -/
def withPoison (x : Strand) : State := { withX x with poison := [(cellNo 0 true 0x40, ())] }

/-- `StoresExecute`, `AtomicsExecute`: with no byte poisoned, and with one. -/
theorem witness_stores :
    storeMember (.std 4 1 0) = some (8, 4, 1, 0) ∧ atomicMember (.acas 4 1 6 false) = some (.cas, 8, 4, 1, 6, true) ∧
    (withX userX).memoryOk ∧ (withX userX).Issuing 7 userX 0 1 3 ∧ userX.Clear [4, 1, 6] [4] ∧
    (withX userX).Names 7 userX (userX.reg 1) permRW (.ls 0 0x40) 0 (cellNo 0 true 0x40) (withX userX) ∧
    (userX.reg 1).toNat % 8 = 0 ∧ (withX userX).real 0 = userX.tile ∧
    (withX userX).partly (cellNo 0 true 0x40) (placed (bytesOf 8 (userX.reg 4))) = false ∧
    (withX userX).anyPoison (cellNo 0 true 0x40) 8 = false ∧
    (withPoison userX).partly (cellNo 0 true 0x40) (placed (bytesOf 1 (userX.reg 4))) = true ∧
    (withPoison userX).anyPoison (cellNo 0 true 0x40) 8 = true ∧
    rmwValue .cas 8 (wordOf ((withX userX).readBytes (cellNo 0 true 0x40) 8)) 1 1 = none :=
  ⟨rfl, rfl, rfl, user_issuing, user_clear _ _, ⟨rfl, rfl⟩, by decide, rfl, by decide, by decide, by decide, by decide, by decide⟩

/-- `PostsExecute`: a posted operation and `arrive` at the own tile. -/
theorem witness_posts :
    postMember (.postMaxs 1 6 false) = some (.maxs, 8, 1, 6) ∧ (withX userX).memoryOk ∧
    (withX userX).Issuing 7 userX 0 1 3 ∧ userX.Clear [1, 6] [] ∧
    (withX userX).Names 7 userX (userX.reg 1) (postPerm .maxs) (.ls 0 0x40) 0 (cellNo 0 true 0x40) (withX userX) ∧
    (userX.reg 1).toNat % 8 = 0 ∧ (withX userX).mayPost userX = true ∧ (withX userX).released 7 userX = true ∧
    ∀ j, j < 8 → (withX userX).poisoned (cellNo 0 true 0x40 + j) = false :=
  ⟨rfl, rfl, user_issuing, user_clear _ _, ⟨rfl, rfl⟩, by decide, by decide, by decide, by decide⟩
/-- `PostsExecute`: an `arrive` with a posted operation out. -/
theorem witness_arriveWaits :
    (withX postedX).Issuing 7 postedX 0 1 3 ∧ postedX.Clear [1] [] ∧ (postedX.reg 1).toNat % 8 = 0 ∧
    (withX postedX).Names 7 postedX (postedX.reg 1) permRW (.ls 0 0x40) 0 (cellNo 0 true 0x40) (withX postedX) ∧
    (withX postedX).released 7 postedX = false :=
  ⟨⟨rfl, rfl, rfl, rfl⟩, clear_of_empty rfl rfl _ _, by decide, ⟨rfl, rfl⟩, by decide⟩

/-- `BadAddressesTrap`: misaligned, and no region. -/
theorem witness_badAddresses :
    (∃ f, alignedMember (.std 4 3 0) = some (8, [4, 3], [], f) ∧ (f userX).toNat % 8 ≠ 0) ∧
    (∃ f, alignedMember (.await 8 6) = some (8, [8, 6], [], f) ∧ (f farX).toNat % 8 = 0 ∧
      (withX farX).vectorMemBusy 7 farX = false ∧ (withX farX).region farX.tile farX.ctx.sup (f farX) = none) ∧
    (withX userX).Issuing 7 userX 0 1 3 ∧ userX.Clear [4, 3] [] ∧ userX.ctx.tvec ≠ 0 ∧
    (withX farX).Issuing 7 farX 0 1 3 ∧ farX.Clear [8, 6] [] ∧ farX.ctx.tvec ≠ 0 :=
  ⟨⟨_, rfl, by decide⟩, ⟨_, rfl, by decide, by decide, by decide⟩, user_issuing, user_clear _ _, by decide, ⟨rfl, rfl, rfl, rfl⟩,
    clear_of_empty rfl rfl _ _, by decide⟩

/-- `RoamingAccessesMigrate`: nothing out; something out; the limit of alternations reached. -/
theorem witness_roaming :
    (∃ f, accessMember (.ldd 4 2 0) = some (8, [2], [4], f, permR) ∧ (f userX).toNat % 8 = 0 ∧
      (withX userX).Names 7 userX (f userX) permR (.ls 5 0x40) 5 (cellNo 5 true 0x40) (withX userX)) ∧
    (withX userX).Issuing 7 userX 0 1 3 ∧ userX.Clear [2] [4] ∧ (withX userX).real 5 ≠ userX.tile ∧
    (withX userX).pinned 7 userX = false ∧ userX.poison = [] ∧ userX.pending = [] ∧ userX.posted = [] ∧
    (userX.ctx.nextAlt 5).toNat < userX.ctx.plim.toNat ∧ waitingX.pending ≠ [] ∧
    (withX waitingX).Issuing 7 waitingX 0 1 3 ∧ waitingX.Clear [2] [4] ∧ (withX waitingX).pinned 7 waitingX = false :=
  ⟨⟨_, rfl, by decide, ⟨rfl, rfl⟩⟩, user_issuing, user_clear _ _, by decide, by decide, rfl, rfl, rfl, by decide, by decide,
    ⟨rfl, rfl, rfl, rfl⟩, ⟨by decide, by decide⟩, by decide⟩

/-- `AwayAccessesRequest`: a pinned strand's load and store at tile 5. -/
theorem witness_away :
    loadMember (.ldd 4 2 0) = some (8, false, 4, 2, 0) ∧ storeMember (.std 4 2 0) = some (8, 4, 2, 0) ∧
    (withX pinnedX).Issuing 7 pinnedX 0 1 3 ∧ pinnedX.Clear [4, 2] [4] ∧
    (withX pinnedX).Names 7 pinnedX (pinnedX.reg 2 + offsetOf 0 8) permW (.ls 5 0x40) 5 (cellNo 5 true 0x40) (withX pinnedX) ∧
    (pinnedX.reg 2 + offsetOf 0 8).toNat % 8 = 0 ∧ (withX pinnedX).real 5 ≠ pinnedX.tile ∧
    (withX pinnedX).pinned 7 pinnedX = true ∧ pinnedX.pending.length < 8 ∧ (withX pinnedX).mayPost pinnedX = true ∧
    ((withX pinnedX).tile 0).filters = [] ∧ Config.dieOf 5 = Config.dieOf 0 ∧
    SMap.find? (withX pinnedX).retired 5 = none :=
  ⟨rfl, rfl, ⟨rfl, rfl, rfl, rfl⟩, clear_of_empty rfl rfl _ _, ⟨rfl, rfl⟩, by decide, by decide, by decide, by decide, by decide,
    rfl, by decide, rfl⟩
/-- `AwayAccessesRequest`: the strand is pinned, or the pinning rule pins it: it came from tile 5 and has been here four times. -/
def backX : Strand := { userX with ctx := { userX.ctx with prev := 5, alt := 3 } }
theorem witness_sendsFrom :
    (withX pinnedX).SendsFrom 7 pinnedX 5 pinnedX ∧ (withX backX).SendsFrom 7 backX 5 (backX.ruled 0) ∧ backX.ruled 0 ≠ backX ∧
    (withX backX).Issuing 7 backX 0 1 3 ∧ backX.Clear [4, 2] [4] ∧ 5 < Config.tiles ∧
    (withX backX).Names 7 backX (backX.reg 2 + offsetOf 0 8) permW (.ls 5 0x40) 5 (cellNo 5 true 0x40) (withX backX) :=
  ⟨.inl ⟨by decide, rfl⟩, .inr ⟨by decide, rfl, rfl, rfl, by decide, by decide, rfl⟩, by decide, ⟨rfl, rfl, rfl, rfl⟩,
    clear_of_empty rfl rfl _ _, by decide, ⟨rfl, rfl⟩⟩

/-- `FencesAndParkWait`: a fence with nothing out, and with a posted operation out; the word at g1 is 0, which is g0 and
not g6. -/
theorem witness_waits :
    (∃ ok, fenceMember (.fenceRel 2 true true true) = some ok ∧ ok (withX userX) 7 userX = true ∧
      ok (withX postedX) 7 postedX = false) ∧
    (withX userX).Issuing 7 userX 0 1 3 ∧ userX.Clear [] [] ∧ (withX userX).vectorMemBusy 7 userX = false ∧
    (withX postedX).Issuing 7 postedX 0 1 3 ∧ postedX.Clear [] [] ∧ (withX postedX).vectorMemBusy 7 postedX = false ∧
    postedX.run = .ready ∧ userX.Clear [1, 0] [] ∧
    (withX userX).Names 7 userX (userX.reg 1) permR (.ls 0 0x40) 0 (cellNo 0 true 0x40) (withX userX) ∧
    (withX userX).released 7 userX = true ∧ (withX userX).anyPoison (cellNo 0 true 0x40) 8 = false ∧
    (withX userX).wordAt (cellNo 0 true 0x40) = userX.reg 0 ∧ (withX userX).wordAt (cellNo 0 true 0x40) ≠ userX.reg 6 ∧
    userX.place = .slot 0 1 3 ∧ (withX userX).kennelFree 0 1 = true ∧ ((withX userX).core 0 1).inSlot = [] ∧
    ((withX userX).tile 0).hold = [] :=
  ⟨⟨_, rfl, by decide, by decide⟩, user_issuing, user_clear _ _, by decide, ⟨rfl, rfl, rfl, rfl⟩, clear_of_empty rfl rfl _ _,
    by decide, rfl, user_clear _ _, ⟨rfl, rfl⟩, by decide, by decide, by decide, by decide, rfl, by decide, rfl, rfl⟩

/-! ## The fabric and owners -/

/-- `AcknowledgementsAndDeferredTraps`. -/
theorem witness_acknowledgements :
    (withEv postedX (.acknowledgementArrival 7 0)).strand 7 = some postedX ∧ postedX.run = .ready ∧
    (withEv refusedX (.deferredRefusalTrap 7)).strand 7 = some refusedX ∧ refusedX.place = .slot 0 1 3 ∧
    refusedX.refusals = [(5, 0x40)] ∧ refusedX.ctx.tvec ≠ 0 ∧ refusedX.engTrap = some (0x0F, 2) ∧
    toSupervisor 0x0F 2 false = false :=
  ⟨rfl, rfl, rfl, rfl, rfl, by decide, rfl, by decide⟩

/-- `OwnersPerform`: a load, an atomic and a posted operation of tile 0 at tile 5; the owner busy; a refusal. -/
theorem witness_owners :
    (withEv userX (.requestArrival (reqAt (.load 8)))).memoryOk ∧ (withX userX).fromHere (reqAt (.load 8)) = false ∧
    (withX userX).filtered 5 (.req (reqAt (.load 8))) = false ∧ (reqAt (.load 8)).bad = false ∧
    (withX userX).reach 5 0 false (.ls 5 0x40) = .perform (cellNo 5 true 0x40) ∧ ((withX userX).tile 5).remote ≤ (withX userX).now ∧
    (withX userX).now < (busyOwner.tile 5).remote ∧ busyOwner.reach 5 0 false (.ls 5 0x40) = .perform (cellNo 5 true 0x40) ∧
    (withX userX).reach 5 0 false (.md 1 0 0) = .refuse ∧
    (withX userX).anyPoison (cellNo 5 true 0x40) 8 = false ∧ (∃ v, rmwValue .swap 8 0 1 0 = some v) ∧
    (withX userX).filtered 5 (.post postAt) = false ∧ postAt.op = .rmw .add 8 1 ∧ postAt.bad = false ∧
    (withX userX).fromPort (reqAt (.load 8)) = false :=
  ⟨by decide, by decide, by decide, rfl, by decide, by decide, by decide, by decide, by decide, by decide, ⟨_, rfl⟩, by decide, rfl, rfl, rfl⟩

/-! ## Strands -/

/-- `DoneAndYieldExecute`: with and without a claim; a kennel slot free, for `FencesAndParkWait` too. -/
theorem witness_done :
    (withX userX).strandsOk ∧ (withX userX).Issuing 7 userX 0 1 3 ∧ (withX userX).claims 0 7 = false ∧
    (withX userX).released 7 userX = true ∧ userX.poison = [] ∧ userX.ctx.tvec ≠ 0 ∧
    holding.strandsOk ∧ holding.Issuing 7 userX 0 1 3 ∧ holding.claims 0 7 = true ∧ (withX userX).memoryOk ∧ 1 < Config.coresOf 0 ∧
    (withX userX).kennelFree 0 1 = true :=
  ⟨by decide, user_issuing, by decide, by decide, rfl, by decide, by decide, ⟨rfl, rfl, rfl, rfl⟩, by decide, by decide,
    by decide, by decide⟩

/-- A strand in a `spawn` that waits for an earlier child to be admitted. -/
def keptX : Strand := { userX with prog := { Prog.none with words := [(0, 9)] } }

/-- `SpawnsExecute`: a good start, a misaligned one, one at 2^48 or above; the argument's owner near and far; a sid
still to be taken and one kept. -/
theorem witness_spawns :
    (withX userX).strandsOk ∧ (withX userX).Issuing 7 userX 0 1 3 ∧ userX.Clear [4, 6] [7] ∧ userX.poison = [] ∧
    userX.pending = [] ∧ userX.child = none ∧ (userX.reg 4).toNat % 4 = 0 ∧ (userX.reg 4).toNat < 2 ^ 48 ∧
    (withX userX).translate 7 userX (userX.reg 1) permR = .ok (.here (.ls 0 0x40) 0 (cellNo 0 true 0x40), withX userX) ∧
    (withX userX).translate 7 userX (userX.reg 2) permR = .ok (.here (.ls 5 0x40) 5 (cellNo 5 true 0x40), withX userX) ∧
    (withX userX).real 0 = userX.tile ∧ (withX userX).real 5 ≠ userX.tile ∧ userX.ctx.sup = false ∧
    (userX.reg 3).toNat % 4 ≠ 0 ∧ (userX.reg 5).toNat % 4 = 0 ∧ 2 ^ 48 ≤ (userX.reg 5).toNat ∧ userX.ctx.tvec ≠ 0 ∧
    (withX userX).SpawnsAs userX 0 1 ∧ (withX keptX).Issuing 7 keptX 0 1 3 ∧ (withX keptX).SpawnsAs keptX 9 0 :=
  ⟨by decide, user_issuing, user_clear _ _, rfl, rfl, rfl, by decide, by decide, rfl, rfl, rfl, by decide, rfl, by decide,
    by decide, by decide, by decide, .inl ⟨rfl, by decide, by decide⟩, ⟨rfl, rfl, rfl, rfl⟩, .inr ⟨9, rfl, by decide, by decide⟩⟩

/-- `GoExecutes`: pinned, at home, and away. -/
theorem witness_go :
    (withX pinnedX).Issuing 7 pinnedX 0 1 3 ∧ (withX pinnedX).pinned 7 pinnedX = true ∧ pinnedX.ctx.tvec ≠ 0 ∧
    (withX userX).Issuing 7 userX 0 1 3 ∧ userX.Clear [2] [] ∧ (withX userX).pinned 7 userX = false ∧
    (withX userX).translate 7 userX (userX.reg 2) permR = .ok (.here (.ls 5 0x40) 5 (cellNo 5 true 0x40), withX userX) ∧
    (withX userX).translate 7 userX (userX.reg 1) permR = .ok (.here (.ls 0 0x40) 0 (cellNo 0 true 0x40), withX userX) ∧
    (withX userX).real 5 ≠ userX.tile ∧ (withX userX).real 0 = userX.tile ∧ userX.pending = [] ∧ userX.posted = [] :=
  ⟨⟨rfl, rfl, rfl, rfl⟩, by decide, by decide, user_issuing, user_clear _ _, by decide, rfl, rfl, by decide, rfl, rfl, rfl⟩

/-- `JoinAndSetlinExecute`: a lineage that stays within its bits and one that does not; a join record at g1; the join's
second phase. -/
theorem witness_join :
    (∀ i, i < 16 → (∃ j, j ≤ i ∧ lineX.ctx.lin.getLsbD j = true) →
      ((lineX.reg 6).setWidth 16 : BitVec 16).getLsbD i = lineX.ctx.lin.getLsbD i) ∧
    (lineX.ctx.lin.getLsbD 0 = true ∧ ((lineX.reg 0).setWidth 16 : BitVec 16).getLsbD 0 = false) ∧
    (withX lineX).Issuing 7 lineX 0 1 3 ∧ lineX.Clear [6] [] ∧ lineX.ctx.tvec ≠ 0 ∧
    (withX userX).memoryOk ∧ (withX userX).strandsOk ∧ userX.Clear [1] [] ∧ userX.prog.phase = 0 ∧
    (withX userX).claims userX.tile 7 = false ∧ (userX.reg 1).toNat % 8 = 0 ∧ (withX userX).released 7 userX = true ∧
    (withX userX).translate 7 userX (userX.reg 1) permRW = .ok (.here (.ls 0 0x40) 0 (cellNo 0 true 0x40), withX userX) ∧
    (withX userX).translate 7 userX (userX.reg 1 + 8) permR = .ok (.here (.ls 0 0x48) 0 (cellNo 0 true 0x48), withX userX) ∧
    (withX userX).translate 7 userX (userX.reg 1 + 16) permR = .ok (.here (.ls 0 0x50) 0 (cellNo 0 true 0x50), withX userX) ∧
    (∀ j, j < 8 → (withX userX).poisoned (cellNo 0 true 0x40 + j) = false) ∧
    (inPhase userX 1).prog.phase = 1 ∧ (inPhase userX 1).posted = [] :=
  ⟨by decide, by decide, ⟨rfl, rfl, rfl, rfl⟩, clear_of_empty rfl rfl _ _, by decide, by decide, by decide, user_clear _ _, rfl,
    by decide, by decide, by decide, rfl, rfl, rfl, by decide, rfl, rfl⟩

/-! ### Contexts that arrive -/

def mig0 : Mig := ⟨7, 5, 0, 0, false, false, false, none⟩
/-- Strand 7 on its way from tile 5 to tile 0. -/
def migX : Strand := { userX with tile := 5, place := .slot 5 1 3, run := .held, packet := some (.mig mig0) }
/-- Tile 0 without room, and tile 0 retired. -/
def fullTile (x : Strand) : State :=
  (withX x).onTile 0 (fun t => { t with regs := { t.regs with kdepth := 0, klend := 0 } })
def goneTile (x : Strand) : State := { withX x with retired := [(0, none)] }
/-- The context of a parked strand that is complete at tile 0 and reads its word. -/
def parkX : Strand := { inPhase userX 1 with run := .held, watch := some (.ls 0 0x40, 0, false) }

/-- `ContextsArrive`: a slot free, none free, a destination that is gone; its access's owner elsewhere, and a `domset` of the
domain under way; a parked context that reads its word. -/
theorem witness_contextsArrive :
    (withX migX).memoryOk ∧ (withX migX).strandsOk ∧ (withX migX).unready 0 = false ∧ migX.handler = none ∧
    (withX migX).reachCtx mig0 false = .perform 0 ∧ mig0.bad = false ∧ ({ mig0 with bad := true } : Mig).bad = true ∧
    (goneTile migX).reachCtx mig0 false = .refuse ∧ (withX migX).reachCtx { mig0 with tgt := some (.ls 5 0x40) } false = .forward 5 ∧
    Config.dieOf 0 = Config.dieOf 5 ∧ SMap.find? (withX migX).retired 5 = none ∧
    ({ withX migX with protos := [(8, { (default : Proto) with kind := 3, part := 0, dom := 0 })] } : State).reachCtx
      { mig0 with tgt := some (.md 0 0 0) } false = .hold ∧
    (withX migX).strand 7 = some migX ∧ migX.marked = none ∧ (withX migX).filtered 0 (.mig mig0) = false ∧
    (withX migX).gone 0 = false ∧ (∀ e ∈ ((withX migX).tile 0).calls, e.1 ≠ 7) ∧
    (∃ c l, (withX migX).findSlot 0 7 migX = some (c, l)) ∧ (fullTile migX).filtered 0 (.mig mig0) = false ∧
    (fullTile migX).gone 0 = false ∧ (fullTile migX).findSlot 0 7 migX = none ∧
    ((fullTile migX).tile 0).halted = false ∧ ((fullTile migX).tile 0).hold.length < 64 ∧
    (goneTile migX).filtered 0 (.mig mig0) = false ∧ (goneTile migX).gone 0 = true ∧
    (withEv parkX (.parkContextArrival mig0)).strand 7 = some parkX ∧ parkX.prog.phase = 1 ∧
    (withX parkX).locate 0 (.ls 0 0x40) = some (0, cellNo 0 true 0x40) ∧ ((withX parkX).tile 0).remote ≤ (withX parkX).now ∧
    parkX.refusals = [] ∧ parkX.engTrap = none ∧ (withX parkX).anyPoison (cellNo 0 true 0x40) 8 = false ∧
    (withX parkX).wordAt (cellNo 0 true 0x40) = 0 :=
  ⟨by decide, by decide, by decide, rfl, by decide, rfl, rfl, by decide, by decide, by decide, rfl, by decide,
    rfl, rfl, by decide, by decide, by decide, ⟨_, _, rfl⟩, by decide, by decide, by decide, by decide, by decide, by decide,
    by decide, rfl, rfl, by decide, by decide, rfl, rfl, by decide, by decide⟩

/-- The origin still holds slot 3 of core 1 of tile 5. -/
def ghost : State := ((withX { migX with tile := 0, place := .kennel 0 1 }).onCore 5 1 (fun k => { k with slots := [(3, 7)] }))
/-- A `spawnat` child 7 and its waiting parent 8. -/
def parentX : Strand := { inPhase userX 1 with run := .held, prog := { Prog.none with phase := 9, words := [(0, 7)] } }
def childX : Strand := { userX with birth := .spawnat 8, run := .held }
def family : State := { withX childX with strands := [(7, childX), (8, parentX)], event := .admissionAnswer 7 0 }
/-- A strand that waits for the answer of another tile. -/
def opX : Strand := { inPhase supX 1 with run := .held }

/-- `AnswersReachOrigin`. -/
theorem witness_answers :
    family.strand 7 = some childX ∧ family.spawner 7 = some 8 ∧ family.strand 8 = some parentX ∧
    ghost.strand 7 ≠ none ∧ ghost.spawner 7 = none ∧ 1 < Config.coresOf 5 ∧
    List.find? (fun e => e.2 == 7) (ghost.core 5 1).slots = some (3, 7) ∧ (ghost.core 5 1).kennel = [] ∧
    (withX migX).spawner 7 = none ∧ migX.ctx.tvec ≠ 0 ∧ migX.packet = some (.mig mig0) ∧
    opX.run = .held ∧ opX.prog.phase = 1 ∧ (withX userX).strandsOk ∧ userX.handler = none ∧
    ((withX userX).core 0 1).inSlot = [] ∧ ((withX userX).tile 0).hold = [] ∧ migX.inFlight = true ∧ userX.inFlight = false ∧
    ({ migX with asked := true } : Strand).asked = true :=
  ⟨rfl, by decide, rfl, by decide, by decide, by decide, by decide, rfl, by decide, by decide, rfl, rfl, rfl, by decide, rfl, rfl, rfl, by decide, by decide, rfl⟩

/-- Strand 7 in a kennel slot of core 1, ready; and waiting as a watcher that is due to wake. -/
def kennelX : Strand := { userX with place := .kennel 0 1, nextAt := 0, complete := 0 }
def kennelS : State :=
  { (withX kennelX).onCore 0 1 (fun k => { k with kennel := [7] }) with now := 100 }
def supKennel : State :=
  { (withX { supX with place := .kennel 0 0 }).onCore 0 0 (fun k => { k with kennel := [7] }) with now := 100 }
def watcherX : Strand := { userX with run := .waiting (.park 0 false) }
def wakeS : State := (withX watcherX).onTile 0 (fun t => { t with waking := [(0, 0, 7)] })
def lentS : State :=
  (withX { userX with place := .lent 0 1 }).onCore 0 1 (fun k => { k with lent := [7], moving := [7] })

/-- The same with every barrel slot of core 0 taken: core 1 takes the entry. -/
def fullCore : State := kennelS.onCore 0 0 (fun k => { k with slots := (List.range 16).map (fun n => (n, 20 + n)) })

/-- `StrandTimersExecute`. -/
theorem witness_timers :
    (∃ h ∈ ((fullTile migX).onTile 0 (fun t => { t with hold := [⟨7, 5, 0, 255, false, 0⟩] }) |>.tile 0).hold,
      h.uid = 7 ∧ h.stamp = 0) ∧
    kennelS.strand 7 = some kennelX ∧ kennelX.place = .kennel kennelX.tile 1 ∧ kennelX.tick = 0 ∧ kennelX.ecls < 3 ∧
    supKennel.freeSlot 0 0 = some 0 ∧ supKennel.chooseEntry 0 0 = some 7 ∧ (supKennel.core 0 1).inSlot = [] ∧
    (supKennel.tile 0).hold = [] ∧ (lentS.core 0 1).moving.contains 7 = true ∧ (lentS.core 0 1).inSlot = [] ∧
    (wakeS.tile 0).waking = [(0, 0, 7)] ∧ wakeS.strand 7 = some watcherX ∧ watcherX.run = .waiting (.park 0 false) ∧
    watcherX.marked = none ∧ watcherX.home = 0 ∧ ((withX userX).tile 0).filters = [] ∧ userX.ctx.sup = false ∧
    (∀ k, k < 1 → fullCore.freeSlot 0 k = none) ∧ fullCore.freeSlot 0 1 = some 0 ∧ fullCore.chooseEntry 0 1 = some 7 ∧
    (∀ k, k < 4 → (fullCore.core 0 k).inSlot = []) :=
  ⟨⟨_, List.mem_singleton.2 rfl, rfl, rfl⟩, rfl, rfl, rfl, by decide, by decide, by decide, rfl, rfl, by decide, rfl, rfl, rfl,
    rfl, rfl, rfl, rfl, rfl, by decide, by decide, by decide, by decide⟩

/-! ## The vector unit -/

/-- Strand 7 holds the unit of core 1 in the shape of a claim; element 5 of v0 is poisoned. -/
def unit0 : VUnit := { VUnit.reset with holder := some 7 }
def unitBad : VUnit := { unit0 with poison := [(5, (7, 0x40))] }
def withUnit (x : Strand) (v : VUnit) : State := (withX x).onVunit 0 1 (fun _ => v)

theorem arrived_of_reset {v : VUnit} (h : v.pending = Vector.replicate 8 0) (vs : List VReg) : v.Arrived vs := by
  intro r _
  have : r.toNat < 8 := r.isLt
  simp [h, this]

theorem user_holds (v : VUnit) (h : v.holder = some 7) (b : v.busy ≤ 0) : (withUnit userX v).HoldsUnit 7 userX 0 1 3 v :=
  ⟨⟨rfl, rfl, rfl, rfl⟩, rfl, rfl, h, b, rfl⟩

/-- `VectorElementsExecute`: clean and poisoned operands; a reduction. -/
theorem witness_vectorElements :
    (withUnit userX unit0).HoldsUnit 7 userX 0 1 3 unit0 ∧ (withUnit userX unitBad).HoldsUnit 7 userX 0 1 3 unitBad ∧
    (∃ e, elementMember (.vfma 2 0 1 3) = some e ∧ unit0.Arrived e.vs ∧ unitBad.Arrived e.vs ∧ userX.Clear e.regs [] ∧
      unit0.poisonIn (e.used unit0) = none ∧ unitBad.poisonIn (e.used unitBad) = some (7, 0x40)) ∧
    (∃ f g, reduceMember (.vrmax 2 0 10) = some (2, 0, 10, f, g)) ∧ unit0.lanes ≤ 64 ∧
    unit0.poisonIn (unit0.usesB 0 10) = none ∧ userX.ctx.tvec ≠ 0 ∧ toSupervisor 7 0x40 false = false :=
  ⟨user_holds _ rfl (Nat.le_refl 0), user_holds _ rfl (Nat.le_refl 0), ⟨_, rfl, arrived_of_reset rfl _, arrived_of_reset rfl _, user_clear _ _, by decide, by decide⟩,
    ⟨_, _, rfl⟩, by decide, by decide, by decide, by decide⟩

/-- `VectorUnitMembersExecute`, `VectorClaimRules`: inside and outside the shape; a free unit, and one that another holds. -/
theorem witness_vectorUnit :
    (withUnit userX unit0).HoldsUnit 7 userX 0 1 3 unit0 ∧ unit0.Arrived [0] ∧ unit0.anyPending = false ∧ unit0.waiters = [] ∧
    unit0.inside 1023 = true ∧ ({ unit0 with rows := 1, lanes := 1 } : VUnit).inside 1 = false ∧
    (withX userX).Issuing 7 userX 0 1 3 ∧ ((withX userX).vunit 0 1).holder = none ∧ ((withX userX).vunit 0 1).waiters = [] ∧
    (Config.hasSupervisor 0 && (1 : Nat) == 0) = false ∧
    ((withUnit userX { unit0 with holder := some 8 }).vunit 0 1).holder = some 8 ∧ needsVector .vrel = true :=
  ⟨user_holds _ rfl (Nat.le_refl 0), arrived_of_reset rfl _, by decide, rfl, by decide, by decide, user_issuing, rfl, rfl, by decide, rfl, rfl⟩

/-- `VectorMemoryExecutes`: `vld` and `vst` of one row of one lane at g1; a piece of it. -/
def unit1 : VUnit := { unit0 with rows := 1, lanes := 1 }
def job1 : VJob := ⟨2, 0, 0xFE00000000000040, 0, false, [.ls 0 0x40], 0, 0x100⟩
def loadingUnit : VUnit := { unit1 with job := some job1, loads := 1 }

theorem witness_vectorMemory :
    (withUnit userX unit1).HoldsUnit 7 userX 0 1 3 unit1 ∧ unit1.anyPending = false ∧
    (userX.reg 1).toNat % vmSize 0 = 0 ∧ (userX.reg 0).toNat % vmSize 0 = 0 ∧
    pieceTargets 7 userX permR (VJob.pieces ⟨2, 0, userX.reg 1, userX.reg 0, false, [], 0, userX.ctx.pc⟩ unit1) (withUnit userX unit1)
      = .ok ([.ls 0 0x40], withUnit userX unit1) ∧
    (withUnit userX unit1).locate 0 (.ls 0 0x40) = some (0, cellNo 0 true 0x40) ∧
    unit1.poisonIn (unit1.usesOwn 2) = none ∧ (withUnit userX unit1).failingPiece 0 unit1 job1 = none ∧
    (withUnit userX loadingUnit).vclaimCore 0 7 = some 1 ∧ ((withUnit userX loadingUnit).vunit 0 1).job = some job1 ∧
    (job1.pieces loadingUnit)[0]? ≠ none ∧ job1.v < 8 :=
  ⟨user_holds _ rfl (Nat.le_refl 0), by decide, by decide, by decide, rfl, by decide, by decide, by decide, by decide, rfl,
    by decide, by decide⟩

/-! ## Circular buffers and the matrix engine -/

/-- A handle of two slots of 64 x 64 f32 at offset 0x1000 of tile 0's local store, with `n` slots filled. -/
def cb0 (n : BitVec 32) : Cb :=
  { base := 0x1000, size := 257, count := 2, fmt := 0, rows := 64, cols := 64, c0 := 0, produced := n, consumed := 0, ppos := 0,
    cpos := 0, prodBy := none, consBy := none, waitP := [], waitC := [] }
def withCb (x : Strand) (n : BitVec 32) : State := (withX x).setCb 0 3 (cb0 n)
/-- `cbinit` with its four words in. -/
def cbinitX (w0 : Word) : Strand :=
  { userX with run := .stalled, prog := { Prog.none with phase := 1, words := [(0, w0), (1, 0x404000), (2, 0), (3, 0)] } }

/-- `CbInstructionsExecute`: unset; none, one and two slots filled; a good descriptor and one whose first word is wrong. -/
theorem witness_cb :
    (withX userX).Issuing 7 userX 0 1 3 ∧ userX.Clear [1] [2] ∧ userX.poison = [] ∧ (withX userX).cb 0 3 = none ∧
    userX.ctx.tvec ≠ 0 ∧ (withCb userX 0).Issuing 7 userX 0 1 3 ∧ (withCb userX 0).cb 0 3 = some (cb0 0) ∧
    (withCb userX 1).cb 0 3 = some (cb0 1) ∧ (cb0 0).consBy = none ∧ (cb0 0).prodBy = none ∧
    ((cb0 0).produced - (cb0 0).consumed).toNat = 0 ∧ 0 < ((cb0 1).produced - (cb0 1).consumed).toNat ∧
    ((cb0 1).produced - (cb0 1).consumed).toNat < (cb0 1).count ∧
    (cb0 2).count ≤ ((cb0 2).produced - (cb0 2).consumed).toNat ∧ (withCb userX 0).inError 0 3 = false ∧
    (withCb userX 1).loadsDone 7 userX = true ∧ (withCb userX 0).memoryOk ∧
    (∀ j, j < 8 → (withCb userX 0).poisoned (cellNo 0 true 0x1000 + j) = false) ∧
    (∃ ws, wordTargets false 7 userX (userX.reg 1) 4 (withX userX) = .ok (ws, withX userX)) ∧ (userX.reg 1).toNat % 8 = 0 ∧
    (cbinitX 0x2010100001000).prog.words.map (·.2) = [0x2010100001000, 0x404000, 0, 0] ∧
    cbBadWord 0 [0x2010100001000, 0x404000, 0, 0] = none ∧ cbBadWord 0 [1, 0x404000, 0, 0] = some 0 ∧
    (withX (cbinitX 1)).cbHeld 0 3 = false ∧ (withX (cbinitX 1)).cbNamed 0 3 = false :=
  ⟨user_issuing, user_clear _ _, rfl, rfl, by decide, ⟨rfl, rfl, rfl, rfl⟩, rfl, rfl, rfl, rfl, by decide, by decide, by decide,
    by decide, by decide, by decide, by decide, by decide, ⟨_, rfl⟩, by decide, rfl, by decide, by decide, by decide, by decide⟩

/-- Strand `u` holds the matrix engine of tile 0, whose queue is `q`. -/
def withMatrix (x : Strand) (u : Nat) (q : List MCmd) : State :=
  (withX x).onMatrix 0 (fun m => { m with holder := some u, queue := q })
/-- `mzero` of accumulator 1. -/
def mzero1 : MCmd := ⟨0x12, 0, 0, MCtx.reset⟩

/-- `MatrixClaimExecutes`. -/
theorem witness_matrixClaim :
    ((withX userX).matrix 0).holder = none ∧ ((withX userX).matrix 0).waiters = [] ∧
    (Config.hasSupervisor 0 && (1 : Nat) == 0) = false ∧ (withX userX).Issuing 7 userX 0 1 3 ∧ userX.poison = [] ∧
    ((withMatrix userX 8 []).matrix 0).holder = some 8 ∧ (withMatrix userX 7 []).Issuing 7 userX 0 1 3 ∧
    ((withMatrix userX 7 []).matrix 0).queue = [] ∧ ((withMatrix userX 7 [mzero1]).matrix 0).queue ≠ [] ∧
    userX.Clear [1, 2] [3] ∧ userX.ctx.tvec ≠ 0 :=
  ⟨rfl, rfl, by decide, user_issuing, rfl, rfl, ⟨rfl, rfl, rfl, rfl⟩, rfl, by decide, user_clear _ _, by decide⟩

/-- A strand with the eight words of a command in g8 to g15. -/
def cmdX (l : List Word) : Strand :=
  { userX with ctx := { userX.ctx with
      g := regsOf ([0, 0xFE00000000000040, 0xFE00000500000040, 3, 0x1000, 0x4000000000000, 1, 2] ++ l) } }
/-- A context record for formats 2 and 3, read. -/
def mfmtX : Strand :=
  { userX with run := .stalled,
               prog := { Prog.none with phase := 1, words := (List.range 9).map (fun i => (i, if i = 0 then 0x32 else 0)) } }

/-- A step that may fire: both handles hold a slot with its header, and strand 7 holds the engine. -/
def stepS : State :=
  let h (c : BitVec 32) : Cb := { cb0 (c + 1) with consumed := c, consBy := some .matrix }
  let s := (((withX userX).setCb 0 3 (h 0)).setCb 0 4 (h 0)).onMatrix 0 (fun m =>
    { m with queue := [⟨0x104300, 0, 0, MCtx.reset⟩], phase := 1, holder := some 7 })
  { s with mem := [(cellNo 0 true 0x1001, 64), (cellNo 0 true 0x1002, 64)], event := .matrixStepFire 0 }

/-- `MatrixCommandsExecute`: room and none, a malformed word, both phases of `mfmt`. -/
theorem witness_matrixCommands :
    (withMatrix (cmdX [0x12]) 7 []).malformed 0 ((cmdX [0x12]).eight 8) = none ∧
    (withMatrix (cmdX [0x11F]) 7 []).malformed 0 ((cmdX [0x11F]).eight 8) = some 0 ∧
    ((withMatrix (cmdX [0x12]) 7 []).matrix 0).queue.length < 16 ∧
    16 ≤ ((withMatrix (cmdX [0x12]) 7 (List.replicate 16 mzero1)).matrix 0).queue.length ∧
    (cmdX [0x12]).Clear (eightFrom 8) [] ∧ mfmtX.prog.phase = 1 ∧ (mfmtX.prog.words.map (·.2)).length = 9 ∧
    (ctxOf (mfmtX.prog.words.map (·.2))).fa = 2 ∧ (ctxOf (mfmtX.prog.words.map (·.2))).fb = 3 ∧
    (∃ ws, wordTargets false 7 userX (userX.reg 1) 9 (withMatrix userX 7 []) = .ok (ws, withMatrix userX 7 [])) ∧
    (withMatrix userX 7 []).region 0 false (userX.reg 1) = some (.ls 0 0x40) ∧
    (withMatrix (cmdX [0x12]) 7 []).vectorMemBusy 7 (cmdX [0x12]) = false :=
  ⟨by decide, by decide, by decide, by decide, clear_of_empty rfl rfl _ _, rfl, by decide, by decide, by decide, ⟨_, rfl⟩,
    by decide, by decide⟩

/-- `MatrixEngineSteps`: a start and a step that may fire, with the holder there. -/
theorem witness_matrixSteps :
    (stepS.matrix 0).holder = some 7 ∧ stepS.strand 7 = some userX ∧ userX.marked = none ∧
    (∃ q rest, (stepS.matrix 0).queue = q :: rest ∧ q.op = 0 ∧ q.ha = 3 ∧ q.hb = 4) ∧
    mzero1.op = 2 ∧ ((withMatrix userX 7 [mzero1]).matrix 0).phase = 0 ∧ (withMatrix userX 7 [mzero1]).strand 7 = some userX ∧
    (stepS.tile 0).halted = false ∧ (stepS.matrix 0).phase = 1 ∧ (stepS.die 0).hot ≤ stepS.now ∧
    (∃ a, stepS.cb 0 3 = some a ∧ a.consBy = some .matrix ∧ a.produced ≠ a.consumed) ∧
    (∃ a, stepS.cb 0 4 = some a ∧ a.consBy = some .matrix ∧ a.produced ≠ a.consumed) ∧
    stepS.headerWrong 0 3 0 0 = none ∧ stepS.headerWrong 0 4 0 0 = none :=
  ⟨rfl, rfl, rfl, ⟨_, _, rfl, by decide, by decide, by decide⟩, rfl, rfl, rfl, rfl, rfl, by decide, ⟨_, rfl, rfl, by decide⟩,
    ⟨_, rfl, rfl, by decide⟩, by decide, by decide⟩

/-- `MatrixActionsEnd`: `mzero`, and an `mout` in f32 to handle 3. -/
def actS (w0 : Word) : State :=
  { (withCb userX 0).onMatrix 0 (fun m => { m with queue := [⟨w0, 0, 0, MCtx.reset⟩], phase := 2 }) with
    event := .matrixActionEnd 0 }
theorem witness_matrixActions :
    (actS 0x12).event = .matrixActionEnd 0 ∧ ((actS 0x12).matrix 0).queue = [⟨0x12, 0, 0, MCtx.reset⟩] ∧
    ((actS 0x12).matrix 0).phase = 2 ∧ ((actS 0x12).matrix 0).poison = [] ∧ (⟨0x12, 0, 0, MCtx.reset⟩ : MCmd).op = 2 ∧
    (⟨0x12, 0, 0, MCtx.reset⟩ : MCmd).inputs = [] ∧ (⟨0x30001, 0, 0, MCtx.reset⟩ : MCmd).op = 1 ∧
    (⟨0x30001, 0, 0, MCtx.reset⟩ : MCmd).ho = 3 ∧ (⟨0x30001, 0, 0, MCtx.reset⟩ : MCmd).ofmt = 0 ∧
    (actS 0x30001).memoryOk ∧ (actS 0x30001).cb 0 3 = some (cb0 0) ∧ ((actS 0x30001).matrix 0).bad = false ∧
    (actS 0x30001).poison = [] ∧ (⟨0x200000030001, 0, 0, MCtx.reset⟩ : MCmd).ofmt = 2 ∧
    (⟨0x300000030001, 0, 0, MCtx.reset⟩ : MCmd).ofmt = 3 :=
  ⟨rfl, rfl, rfl, rfl, by decide, by decide, by decide, by decide, by decide, by decide, rfl, rfl, rfl, by decide, by decide⟩

/-! ## The fetch engine -/

/-- A command of one burst from 0x1000 of tile 0's local store, in a delivery mode, to 0x80. -/
def fwords (mode : Word) : List Word := [0xFE00000000001000, 0x0001000100010001, 0, 0, 0, 0xFE00000000000080, 0, mode]
/-- A channel of tile 0 holds the command `c`. -/
def withCmd (c : FCmd) : State := (withX userX).onChan 0 0 (fun k => { k with cmds := [c], fid := 1 })

/-- `FetchInstructionsExecute`: a good command, a full queue, a wrong word; ids that are complete, under way and not given. -/
theorem witness_fetch :
    (withX (cmdX (fwords 0))).Issuing 7 (cmdX (fwords 0)) 0 1 3 ∧ (cmdX (fwords 0)).Clear (eightFrom 8) [] ∧
    (newCmd ((cmdX (fwords 0)).eight 8) 0 (cmdX (fwords 0)).ctx).mode ≠ 3 ∧
    (withX (cmdX (fwords 0))).fetchMalformed 0 (newCmd ((cmdX (fwords 0)).eight 8) 0 (cmdX (fwords 0)).ctx) = none ∧
    (withX (cmdX (fwords 4))).fetchMalformed 0 (newCmd ((cmdX (fwords 4)).eight 8) 0 (cmdX (fwords 4)).ctx) = some 7 ∧
    ((withX (cmdX (fwords 0))).chan 0 7).cmds.length < 8 ∧
    8 ≤ (((withX (cmdX (fwords 0))).onChan 0 7 (fun k => { k with cmds := List.replicate 8 default })).chan 0 7).cmds.length ∧
    (userX.reg 0).setWidth 32 = ((withX userX).chan 0 0).fid ∧
    (((withX userX).chan 0 0).fdone - (userX.reg 0).setWidth 32).toNat < 2 ^ 31 ∧
    (userX.reg 6).setWidth 32 = ((withCmd default).chan 0 0).fid ∧
    2 ^ 31 ≤ (((withCmd default).chan 0 0).fdone - (userX.reg 6).setWidth 32).toNat ∧
    ¬ ((userX.reg 7).setWidth 32 = ((withCmd default).chan 0 0).fid ∨
      2 ^ 31 ≤ ((userX.reg 7).setWidth 32 - ((withCmd default).chan 0 0).fid).toNat) :=
  ⟨⟨rfl, rfl, rfl, rfl⟩, clear_of_empty rfl rfl _ _, by decide, by decide, by decide, by decide, by decide, by decide, by decide,
    by decide, by decide, by decide⟩

/-- A supervisor strand with values in g8 on, in a phase of its instruction with words read. -/
def supWith (l : List Word) (ph : Nat) (ws : List Word) : Strand :=
  { supX with ctx := { supX.ctx with g := regsOf ([0, 0xFE00000000000040, 0, 0, 0, 0, 0, 0] ++ l) },
              prog := { Prog.none with phase := ph, words := (List.range ws.length).zip ws } }

/-- `FetchSupervisorMembersExecute`: a free group and one in use; a record of two members; a tile here and elsewhere. -/
theorem witness_fetchSupervisor :
    supX.ctx.sup = true ∧ supX.Clear [8] [1] ∧ (withX supX).lockedBy (groupNo 0 0) = none ∧ (withX supX).groupBusy 0 0 = false ∧
    (withCmd { (default : FCmd) with w := (Vector.replicate 8 0).set 7 3 }).groupBusy 0 0 = true ∧
    (∃ ws s1, wordTargets true 7 supX (supX.reg 1) 1 ((withX supX).lock (groupNo 0 0) 7) = .ok (ws, s1)) ∧
    (withX supX).memberList 0 2 [0x50000] = some [0, 5] ∧ (supWith [] 4 [0x50000]).prog.words.map (·.2) = [0x50000] ∧
    ((supWith [5] 0 []).reg 8).toNat % 4096 < Config.tiles ∧ Config.dieOf 5 = Config.dieOf 0 ∧
    Config.tiles ≤ ((supWith [0xFFF] 0 []).reg 8).toNat % 4096 ∧ ((withX supX).tile 0).filters = [] ∧
    SMap.find? (withX supX).retired 5 = none :=
  ⟨rfl, sup_clear _ _, by decide, by decide, by decide, ⟨_, _, rfl⟩, by decide, by decide, by decide, by decide, by decide, rfl, rfl⟩

/-- A burst of a command in a mode is due under tag 0 of tile 0. -/
def fcmd (mode : Word) : FCmd := { newCmd (Vector.ofFn (fun i => (fwords mode).getD i.val 0)) 1 userX.ctx with reads := 1, k := 1 }
def burstS (mode : Word) (ev : Event) : State :=
  { ((withCmd (fcmd mode)).onFetch 0 (fun f =>
      { f with reads := [(0, ⟨0, 1, 0, (0, 0, 0, 0), 0xFE00000000001000, some (.ls 0 0x80), 0, [0, 1], 0, none, false⟩)] })).setCb 0 0 (cb0 0) with
    event := ev }

/-- `BurstsLand`, and a command at its completion point. -/
theorem witness_bursts :
    (burstS 0 .none).memoryOk ∧ (burstS 0 .none).strandsOk ∧ (List.replicate 64 (1 : Byte)).length = 64 ∧
    (burstS 0 .none).cmd 0 0 1 = some (fcmd 0) ∧ (fcmd 0).killed = false ∧
    (∃ x, SMap.find? ((burstS 0 .none).fetch 0).reads 0 = some x ∧ x.dst = some (.ls 0 0x80)) ∧
    (burstS 0 .none).locate 0 (.ls 0 0x80) = some (0, cellNo 0 true 0x80) ∧
    (∀ j, j < 64 → (burstS 0 .none).poisoned (cellNo 0 true 0x80 + j) = false) ∧
    (burstS 2 .none).cb 0 (fcmd 2).handle = some (cb0 0) ∧
    (withCmd { fcmd 0 with reads := 0 }).atCompletion 0 { fcmd 0 with reads := 0 } = true ∧
    ({ fcmd 0 with reads := 0 } : FCmd).aux = 0 ∧ ({ fcmd 0 with reads := 0 } : FCmd).tpc = 0 :=
  ⟨by decide, by decide, by decide, rfl, rfl, ⟨_, rfl, rfl⟩, by decide, by decide, by decide, by decide, by decide, by decide⟩

/-- A command whose blocks stand in a table at 0x40 of tile 0's local store, or at an address of no region. -/
def tableCmd (tbl : Word) : FCmd :=
  { newCmd (Vector.ofFn (fun i => ([0xFE00000000001000, 0x0001000100010001, 0, 0, tbl, 0x80, 0, 1] : List Word).getD i.val 0))
      1 userX.ctx with k := 0 }

/-- Its read of the entry is out, under tag 0. -/
def tableOut : State := (withCmd (tableCmd 0xFE00000000000040)).onFetch 0 (fun f =>
  { f with reads := [(0, ⟨0, 1, 0, (0, 0, 0, 0), 0xFE00000000000040, none, 0, [], 0, none, true⟩)] })

/-- `FetchEngineSteps`: a table read, a read to issue, a multicast burst, writes, a slot to push, an arrival, a restart. -/
theorem witness_fetchSteps :
    ((withCmd (tableCmd 0xFE00000000000040)).chan 0 0).active = some (tableCmd 0xFE00000000000040) ∧
    ((withCmd (tableCmd 0xFE00000000000040)).chan 0 0).stopped = none ∧ (tableCmd 0xFE00000000000040).tbl ≠ 0 ∧
    (tableCmd 0xFE00000000000040).blockOffset (tableCmd 0xFE00000000000040).k = none ∧
    (tableCmd 0xFE00000000000040).asked = none ∧ (tableCmd 0xFE00000000000040).k < (tableCmd 0xFE00000000000040).bursts ∧
    (withCmd (tableCmd 0xFE00000000000040)).fetchSide 0 0 (tableCmd 0xFE00000000000040) =
      (true, withCmd (tableCmd 0xFE00000000000040)) ∧
    (withCmd (tableCmd 0xFF00000000000000)).engineTrans 0 (tableCmd 0xFF00000000000000) 0xFF00000000000000 permR = .fault 3 ∧
    (∃ tgt o k s1, (withCmd (tableCmd 0xFE00000000000040)).engineTrans 0 (tableCmd 0xFE00000000000040)
      0xFE00000000000040 permR = .ok tgt o k s1) ∧
    (tableCmd 0).blockOffset 0 = some 0 ∧ ((withCmd (tableCmd 0)).fetch 0).issued ≤ (withCmd (tableCmd 0)).now ∧
    (tableCmd 0).mode = 1 ∧ SMap.find? ((withCmd (tableCmd 0)).fetch 0).reads 0 = none ∧
    (∀ h, h < 8 → h ≠ 0 → ((withCmd (tableCmd 0)).chan 0 h).cmds = []) ∧
    ({ burstS 3 .none with groups := [(0, [0, 5])] } : State).members 0 (fcmd 3).grp = [0, 5] ∧
    (withX userX).reach 5 0 false (.ls 5 0x40) = .perform (cellNo 5 true 0x40) ∧ (withX userX).reach 5 0 false (.md 1 0 0) = .refuse ∧
    ({ withCb userX 0 with agenda := [] } : State).slotFull 0
      { fcmd 2 with w := (fcmd 2).w.set 5 3, started := true, slots := [(0, 256)] } = true ∧
    (fcmd 0).stop = none ∧ (fcmd 0).aborted = false ∧ (fcmd 0).mode ≠ 2 ∧
    (withCmd { fcmd 0 with stop := some ⟨2, 3, 0, 0⟩ }).cmd 0 0 1 = some { fcmd 0 with stop := some ⟨2, 3, 0, 0⟩ } ∧
    (withCmd (fcmd 0)).cmd 0 0 9 = none ∧
    (∃ x, SMap.find? (tableOut.fetch 0).reads 0 = some x ∧ x.table = true ∧ x.ch = 0 ∧ x.id = 1) :=
  ⟨rfl, rfl, by decide, by decide, rfl, by decide, rfl, rfl, ⟨_, _, _, _, rfl⟩, by decide, by decide, by decide, rfl, by decide, by decide,
    by decide, by decide, by decide, rfl, rfl, by decide, rfl, rfl, ⟨_, rfl, rfl, rfl, rfl⟩⟩

/-! ## The exchange engine -/

/-- An exchange channel of tile 0 in a state. -/
def withXch (x : Strand) (f : XChan → XChan) : State := (withCb x 1).onXchan 0 0 f
/-- A descriptor for tile 5, channel 1, out-CB 3 and in-CB 2, of slots of 257 blocks. -/
def xw0 : Word := 0x404000231005
def xopenX (w0 : Word) : Strand :=
  { userX with run := .stalled, prog := { Prog.none with phase := 1, words := [(0, w0), (1, 0), (2, 0), (3, 0)] } }
def sendEnd (x : XChan) : XChan :=
  { x with st := 1, sender := true, peer := 5, pch := 1, h := 3, sbytes := 16448, count := 2 }
def recvEnd (x : XChan) : XChan := { x with st := 2, sender := false, peer := 5, pch := 1, h := 3, sbytes := 16448 }

/-- `ExchangeInstructionsExecute`. -/
theorem witness_exchange :
    (withX userX).strand 7 = some userX ∧ userX.place = .slot 0 1 3 ∧ userX.Clear [1] [2] ∧ userX.poison = [] ∧
    ((withX userX).xchan 0 0).st = 0 ∧ ((withXch userX sendEnd).xchan 0 0).st = 1 ∧ (inPhase userX 2).prog.phase = 2 ∧
    (∃ ws, wordTargets false 7 userX (userX.reg 1) 4 (withX userX) = .ok (ws, withX userX)) ∧
    (xopenX xw0).prog.words.map (·.2) = [xw0, 0, 0, 0] ∧ (withX (xopenX xw0)).xchBadWord 0 [xw0, 0, 0, 0] = none ∧
    (withX (xopenX 0xFFF)).xchBadWord 0 [0xFFF, 0, 0, 0] = some 0 ∧ (withX (xopenX xw0)).outCbOk 0 3 0x4040 = false ∧
    (withCb (xopenX xw0) 1).cb 0 3 = some (cb0 1) ∧ 64 * (cb0 1).size = 0x4040 ∧ (cb0 1).waitC = [] ∧
    (inPhase userX 3).nextAt ≤ (withX userX).now ∧ ((withCb (xopenX xw0) 1).tile 0).halted = false ∧
    (xopenX xw0).prog.bad = none ∧ Config.dieOf 5 = Config.dieOf 0 :=
  ⟨rfl, rfl, user_clear _ _, rfl, rfl, by decide, rfl, ⟨_, rfl⟩, rfl, by decide, by decide, by decide, rfl, by decide, rfl,
    by decide, rfl, rfl, by decide⟩

/-- `ExchangeStepsExecute`: a data flit, a permit, a bind flit with each outcome, a slot to ship, and the closing. -/
theorem witness_exchangeSteps :
    SMap.find? (withX userX).retired 0 = none ∧ ((withXch userX recvEnd).xchan 0 0).st = 2 ∧
    ((withXch userX recvEnd).xchan 0 0).peer = 5 ∧ ((withXch userX recvEnd).xchan 0 0).err = false ∧
    (withXch userX recvEnd).cb 0 3 = some (cb0 1) ∧ (withXch userX recvEnd).memoryOk ∧
    (∀ j, j < 64 → (withXch userX recvEnd).poisoned (cellNo 0 true 0x5080 + j) = false) ∧
    ((withXch userX sendEnd).xchan 0 0).sender = true ∧ ((withXch userX sendEnd).tile 0).halted = false ∧
    ((withXch userX sendEnd).xchan 0 0).resync = false ∧ ((withXch userX sendEnd).xchan 0 0).peer < 2 ^ 12 ∧
    (withXch userX sendEnd).slotReady 0 0 = true ∧ (withXch userX sendEnd).gone 5 = false ∧
    (withXch userX sendEnd).inError 0 3 = false ∧ (withXch userX sendEnd).anyPoison (cellNo 0 true 0x1000) 64 = false ∧
    ((withXch userX sendEnd).xch 0).freeAt ≤ (withX userX).now ∧
    (((withXch userX sendEnd).onXch 0 (fun e => { e with rr := 3 })).xch 0).sending = none ∧
    ((withXch userX (fun x => { x with st := 4, opener := 7 })).xchan 0 0).closers = [] ∧
    ((withXch userX (fun x => { sendEnd x with st := 3, closers := [7] })).xchan 0 0).closers = [7] ∧
    (withX userX).cb 0 3 = none ∧ (cb0 0).prodBy = none ∧ (cb0 0).waitP = [] ∧ (cb0 0).produced = 0 ∧
    (withXch userX recvEnd).unready 0 = false ∧ (withXch userX recvEnd).pairWaits 5 0 = false ∧
    (withXch userX sendEnd).pairWaits 5 0 = false ∧ (withXch userX (fun x => { sendEnd x with err := true })).boundInError 0 3 = true ∧
    ((withXch userX (fun x => { sendEnd x with st := 4 })).xchan 0 0).st = 4 ∧
    (withXch userX (fun x => { sendEnd x with st := 4 })).unready 0 = false ∧ ((withXch userX recvEnd).xchan 0 0).h ≠ 2 :=
  ⟨rfl, by decide, by decide, by decide, rfl, by decide, by decide, by decide, rfl, by decide, by decide, by decide, by decide,
    by decide, by decide, by decide, rfl, by decide, by decide, rfl, rfl, rfl, rfl, by decide, by decide, by decide, by decide,
    by decide, by decide, by decide⟩

/-! ## Traps, privilege and the control and status registers -/

/-- A strand without a trap vector. -/
def noVecX (sup : Bool) : Strand :=
  { (if sup then supX else userX) with ctx := { (if sup then supX else userX).ctx with tvec := 0 } }

/-- `SystemTraps`: with a vector, without one in each mode, and `svc`. -/
theorem witness_systemTraps :
    (withX userX).Issuing 7 userX 0 1 3 ∧ userX.ctx.tvec ≠ 0 ∧ (withX (noVecX false)).Issuing 7 (noVecX false) 0 1 3 ∧
    (noVecX false).ctx.sup = false ∧ (noVecX false).ctx.tvec = 0 ∧ (withX (noVecX false)).kennelFree 0 1 = true ∧
    (withX (noVecX true)).Issuing 7 (noVecX true) 0 0 2 ∧ (noVecX true).ctx.sup = true ∧ (noVecX true).ctx.tvec = 0 ∧
    SMap.find? (withX userX).retired (Config.tile0 (Config.dieOf 0)) = none :=
  ⟨user_issuing, by decide, ⟨rfl, rfl, rfl, rfl⟩, rfl, rfl, by decide, ⟨rfl, rfl, rfl, rfl⟩, rfl, rfl, rfl⟩

/-- `PrivilegedInstructions`: user mode; `tret` to an aligned and to a misaligned `tpc`. -/
theorem witness_privileged :
    supervisorOnly (.tlbia 1) = true ∧ userX.ctx.sup = false ∧ userX.ctx.tvec ≠ 0 ∧ supX.ctx.sup = true ∧
    supX.ctx.tpc.toNat % 4 = 0 ∧ (withX { supX with ctx := { supX.ctx with tpc := 2 } }).Issuing 7
      { supX with ctx := { supX.ctx with tpc := 2 } } 0 0 2 ∧ (2 : BitVec 48).toNat % 4 ≠ 0 :=
  ⟨by decide, rfl, by decide, rfl, by decide, ⟨rfl, rfl, rfl, rfl⟩, by decide⟩

/-- The tile that `starget` names is tile 5. -/
def csrS (x : Strand) (ev : Event) : State :=
  { (withX x).onTile 0 (fun t => { t with regs := { t.regs with starget := 5 } }) with event := ev }

/-- `CsrsReadAndWrite`: the first and last user CSR, supervisor CSRs here and at tile 5, and each event. -/
theorem witness_csrs :
    (0x00, 0#64) ∈ (withX userX).userReadings userX ∧ (0x2F, 0#64) ∈ (withX userX).userReadings userX ∧
    (∃ f, (0x30, f) ∈ userWrites 0x1003) ∧ (∃ f, (0x41, f) ∈ userWrites 0) ∧ supX.ctx.sup = true ∧
    (withX supX).csrTile supX 0x800 = supX.tile ∧ (csrS supX .none).csrTile supX 0x807 = 5 ∧
    Config.dieOf 5 = Config.dieOf 0 ∧ supX.Clear [1] [4] ∧
    (csrS supX (csrEvent 5 0x80F 0)).event = csrEvent 5 0x80F 0 ∧
    (csrS supX (.pinholdWrite (some 7) 0 0)).strand 7 = some supX ∧
    (csrS supX (.remoteCsrRequest ⟨5, 0x807, 2, 4, 7, 0, 0⟩)).strand 7 = some supX :=
  ⟨by decide, by decide, ⟨_, List.mem_cons_self⟩, ⟨_, List.mem_of_getElem? (i := 6) rfl⟩, rfl, by decide, by decide, by decide,
    sup_clear _ _, rfl, rfl, rfl⟩

/-! ## Memory maintenance, partitions and contexts -/

/-- A walk of the user strand at level 2 of the table for address 0x200000, permission read. -/
def walk2 : Walk := ⟨0, 0, 0x200000, permR, 2, .strand 7, false, none⟩
def walkS (ev : Event) : State :=
  { withX userX with walks := [(8, walk2)], descs := [(descNo 0 3, ⟨[0], 2 ^ 20, 0⟩)], event := ev }
/-- The 1 GiB page that a leaf entry maps, in domain 3 from 1 GiB on (R53). -/
def page0 : TlbEntry := ⟨0, true, 3, 512, true, false, false⟩

/-- A fill of line 4 under way on tile 0. -/
def fillS : State := (withX userX).onTile 0 (fun t => { t with fills := [(5, ⟨4, 3, false, 7⟩)] })

/-- `MemoryEventsExecute`: a walk's entry, of a walk that is stale too; a fill under way and one that is overtaken. -/
theorem witness_memoryEvents :
    SMap.find? (walkS (.walkEntryResponse 8 (.fail 7))).walks 8 = some walk2 ∧ walk2.who = .strand 7 ∧
    walk2.stale = false ∧ ({ walk2 with stale := true } : Walk).stale = true ∧ walk2.fn = none ∧ (withX userX).lentAt 0 1 = none ∧
    SMap.find? (fillS.tile 0).fills 5 = some ⟨4, 3, false, 7⟩ ∧ SMap.find? ((withX userX).tile 0).fills 5 = none ∧
    (walkS .none).strand 7 = some userX ∧ (wordOf [0, 0, 0, 0, 0, 0, 0, 0]).getLsbD 0 = false ∧
    ((withX userX).regs 0).scrubrate ≠ 0 ∧ 64 * 1 < Config.memSize 0 ∧
    pteOf 0x40000073 2 walk2.va.toNat = .leaf page0 ∧ walk2.perm.within page0 = true ∧ permRW.within page0 = false ∧
    (walkS .none).locate 0 (.md 0 3 (page0.offset walk2.va.toNat)) = some (0, cellNo 0 false 0x40200000) ∧
    (walkS (.icacheFill 0 5 (.fail 7))).event = .icacheFill 0 5 (.fail 7) :=
  ⟨rfl, rfl, rfl, rfl, rfl, by decide, rfl, rfl, rfl, by decide, by decide, by decide, by decide, by decide, by decide, by decide, rfl⟩

/-- A supervisor strand whose g8 and g9 hold a range of tile 0's memory. -/
def rangeX (a b : Word) : Strand := supWith [a, b] 0 []
/-- A partition without tiles, one with tile 0 in focus, and a round under way that tile 0 leads. -/
def round1 (k : Nat) : Proto := { (default : Proto) with kind := k, part := 0, lead := 0, uid := 7, n := 1 }
def heldX (ph : Nat) (v : Word) : Strand := { supX with run := .held, prog := { Prog.none with phase := ph, val := v } }
def roundS (k : Nat) (ev : Event) : State := { withX (heldX 4 8) with protos := [(8, round1 k)], event := ev }

/-- `InvalidationsExecute`: no tile and some; a misaligned range, one outside memory, an empty one and one line; the
acknowledgement of the last tile; a line that is cleaned, and one that is dropped. -/
theorem witness_invalidations :
    (withX supX).focus = 7 ∧ (withX supX).strand 7 = some supX ∧ supX.place = .slot 0 0 2 ∧ supX.poison = [] ∧ supX.pending = [] ∧
    0 ∈ (withX supX).tilesOf 0 ∧ (withX supX).tilesOf 1 = [] ∧
    ((rangeX 8 64).reg 8).toNat % 2 ^ 48 % 64 ≠ 0 ∧ Config.memSize 0 < ((rangeX 0xFFFFFFFFFFC0 64).reg 8).toNat % 2 ^ 48 + 64 ∧
    ((rangeX 0 0).reg 9).toNat = 0 ∧ ¬ (Config.memSize 0 < 0 + ((rangeX 0 64).reg 9).toNat) ∧
    (roundS 1 (.tlbiFlitArrival ⟨8, 0⟩)).proto 8 = some (round1 1) ∧ (round1 1).n ≤ (round1 1).acks + 1 ∧
    (heldX 4 8).prog.val = BitVec.ofNat 64 8 ∧ (heldX 4 8).run = .held ∧ (withX supX).memoryOk ∧
    ({ withX supX with cache := [(cacheSet (cellNo 0 false 0), [⟨0, 1, 1⟩])], backing := [(cellNo 0 false 0, (List.replicate 64 1, false))],
                       event := .cacheOpArrival ⟨0, 0, 64, true, 7⟩ } : State).event = .cacheOpArrival ⟨0, 0, 64, true, 7⟩ ∧
    512 < (64 : Nat) % 512 + 512 :=
  ⟨rfl, rfl, rfl, rfl, rfl, List.mem_filter.2 ⟨List.mem_range.2 (by decide), rfl⟩, List.filter_eq_nil_iff.2 (fun _ _ h => by cases h), by decide, by decide, by decide,
    by decide, rfl, by decide, by decide, rfl, rfl, rfl, by decide⟩

/-- A record of `domset`: one owner, tile 0, of one 4 KiB unit. -/
def dset (l : List Word) (ph : Nat) : Strand := supWith [] ph l
/-- `DomsetExecutes`: lengths at both ends, a record of one owner, a reserved bit, an owner's pool, a wrong tile. -/
theorem witness_domset :
    descOf [0x10001, 0, 0] = some ⟨[0], 1, 0⟩ ∧ intoPool ⟨[0], 1, 0⟩ = false ∧ descOf [0x10801, 0, 0] = none ∧
    intoPool ⟨[0], 2 ^ 24, 0⟩ = true ∧ (withX supX).partOfTile 0 = 0 ∧ Config.tiles ≤ 4095 ∧
    (dset [0x10001, 0, 0] 3).prog.words.map (·.2) = [0x10001, 0, 0] ∧ (dset [0x10001, 0] 1).prog.bad = none ∧
    (0x10400 : Word).toNat % 2 ^ 11 = 1024 ∧ 1024 < (0x10401 : Word).toNat % 2 ^ 11 ∧
    (∃ ws s1, wordTargets true 7 supX (supX.reg 1) 2 (withX supX) = .ok (ws, s1)) ∧
    (roundS 3 .none).proto 8 = some (round1 3) ∧ (withX supX).vectorMemBusy 7 supX = false ∧ Config.partitions ≤ 48 ∧
    ¬ Config.partitions ≤ 47 :=
  ⟨by decide, by decide, by decide, by decide, rfl, by decide, rfl, rfl, by decide, by decide, ⟨_, _, rfl⟩, rfl, by decide, by decide,
    by decide⟩

/-- A user strand that waits for the supervisor, beside the supervisor strand in focus. -/
def askingX (tvec : BitVec 48) (cause : BitVec 8) : Strand :=
  { userX with run := .waiting .supervisor, place := .kennel 0 1,
               ctx := { userX.ctx with sid := 0x42, tvec := tvec, tcause := cause } }
def twoS (x y : Strand) : State := { withX x with strands := [(7, x), (8, y)] }

/-- `ContextRecordsExecute`: no such strand and one; a record; a word to store; `sres`. -/
theorem witness_contextRecords :
    (withX (supWith [0x42] 0 [])).named (supWith [0x42] 0 []) ((supWith [0x42] 0 []).reg 8) = none ∧
    (twoS (supWith [0x42] 0 []) (askingX 0x2000 0x10)).named (supWith [0x42] 0 []) ((supWith [0x42] 0 []).reg 8) = some 8 ∧
    (twoS supX (askingX 0x2000 0x10)).strand 8 = some (askingX 0x2000 0x10) ∧ (8 : Nat) ≠ 7 ∧
    (supX.reg 1).toNat % 64 = 0 ∧ (supX.reg 3).toNat % 64 ≠ 0 ∧ (supWith [9] 0 []).reg 8 = 9 ∧
    (List.replicate 32 (0 : Word)).length = 32 ∧ ctxReserved (List.replicate 32 0xFFFFFFFFFFFFFFFF) = true ∧
    (withX supX).waiter 0 0x42 0 = none ∧ (twoS supX (askingX 0 2)).waiter 0 0x42 0 = some 8 ∧
    (askingX 0 2).ctx.tvec = 0 ∧ (askingX 0x2000 0x10).ctx.tcause = 0x10 ∧
    (∃ s1, (withX (supWith [] 32 [])).translate 7 (supWith [] 32 []) ((supWith [] 32 []).reg 1 + BitVec.ofNat 64 (8 * 31)) permW
      = .ok (.here (.ls 0 0x138) 0 (cellNo 0 true 0x138), s1)) ∧
    (withX supX).real 0 = supX.tile ∧ (∀ j, j < 8 → (withX supX).poisoned (cellNo 0 true 0x138 + j) = false) :=
  ⟨by decide, by decide, rfl, by decide, by decide, by decide, by decide, by decide, by decide, by decide, by decide, rfl, rfl,
    ⟨_, rfl⟩, rfl, by decide⟩

/-- A cancellation of lineages 2 and 3 of partition 0. -/
def cancel1 : Proto := { round1 0 with a := 2, m := 0xFFFE, users := true }
/-- A machine in which it runs, with strand 7 of lineage `l` on tile 0. -/
def cancelS (l : BitVec 16) (ev : Event) : State :=
  { withX { userX with ctx := { userX.ctx with lin := l } } with protos := [(8, cancel1)], event := ev }
/-- A partition in a mode. -/
def modeS (x : Strand) (m : PartMode) (ev : Event) : State :=
  { withX x with parts := [(0, { Part.reset with mode := m })], event := ev }

/-- `PartitionMembersExecute`: the issuer in the family and not; operation 3; each mode that a member needs. -/
theorem witness_partitionMembers :
    (withX userX).strand 7 = some userX ∧ userX.ctx.lin ^^^ 0 &&& 0xFFFF = 0 ∧ (userX.ctx.lin ^^^ 1) &&& 0xFFFF ≠ 0 ∧
    (withX userX).cancelsFrom 0 < 4 ∧ ((withX userX).part 0).mode = .running ∧ supX.ctx.sup = true ∧
    ((supWith [0x300] 0 []).reg 8).toNat / 2 ^ 8 % 4 = 3 ∧ ((modeS supX .saved .none).part 0).mode = .saved ∧
    ((modeS supX .stopped .none).part 0).mode = .stopped ∧ (∀ q ∈ (withX supX).protos, ¬ (q.2.part = 0 ∧ (q.2.kind = 0 ∨ q.2.kind = 3))) ∧
    (withX supX).tilesOf 0 ≠ [] ∧ (0x1001 : Nat) % 4096 ≠ 0 ∧ (inPhase supX 2).prog.phase = 2 :=
  ⟨rfl, by decide, by decide, by decide, rfl, rfl, by decide, rfl, rfl, by decide, List.ne_nil_of_mem (a := 0) (List.mem_filter.2 ⟨List.mem_range.2 (by decide), rfl⟩), by decide, rfl⟩

/-- `CancellationRuns`: no call, no command, no holder; a last flit; the family and another; a waiter. -/
theorem witness_cancellation :
    (cancelS 3 (.cancelFlitArrival ⟨8, 0⟩)).proto 8 = some cancel1 ∧ ((cancelS 3 .none).tile 0).calls = [] ∧
    (∀ ch, ch < 8 → ((cancelS 3 .none).chan 0 ch).cmds = []) ∧ ((cancelS 3 .none).matrix 0).holder = none ∧
    (∀ c, c < 4 → ((cancelS 3 .none).vunit 0 c).holder = none) ∧
    cancel1.Family { userX with ctx := { userX.ctx with lin := 3 } } ∧ ¬ cancel1.Family userX ∧
    (cancelS 3 .none).familyBusy 0 (cancel1.filter 8) = false ∧
    ((cancelS 3 .none).onMatrix 0 (fun m => { m with phase := 2, holder := some 7 })).familyBusy 0 (cancel1.filter 8) = true ∧
    cancel1.n ≤ cancel1.acks + 1 ∧ ({ cancel1 with n := 2 } : Proto).acks + 1 < 2 ∧ (cancelS 3 .none).strandsOk ∧
    (cancelS 3 .none).peerOut? 7 userX = false ∧
    ({ userX with run := .waiting .cancel, prog := { Prog.none with val := 8 } } : Strand).prog.val = BitVec.ofNat 64 8 :=
  ⟨rfl, rfl, by decide, rfl, by decide, by unfold Proto.Family; decide, by unfold Proto.Family; decide, by decide, by decide, by decide,
    by decide, by decide, by decide, by decide⟩

/-- A pre-emption of a kind. -/
def preempt1 (k : Nat) : Proto := { round1 k with area := 1 }
/-- A partition with two functions bound, whose first function's turn it is. -/
def slicedS : State :=
  { withX supX with parts := [(0, { Part.reset with fns := [1, 2], slices := [9, 9], sliceStamp := 40 })],
                    fns := [(1, ⟨0, 0, [], [], []⟩), (2, ⟨0, 0, [], [], []⟩)], event := .sliceExpiry 0 40 }
/-- `PreemptionRuns`: each kind; a settled tile; a slice whose turn ends; a header failure while the partition runs. -/
theorem witness_preemption :
    ({ withX supX with protos := [(8, preempt1 7)], event := .preemptFlitArrival ⟨8, 0⟩ } : State).proto 8 = some (preempt1 7) ∧
    ((withX supX).tile 0).calls = [] ∧
    (preempt1 4).kind ≠ 7 ∧ ({ preempt1 4 with n := 3 } : Proto).tiles.length + 1 < 3 ∧
    ({ State.reset with protos := [(8, preempt1 4)] } : State).tileSettled 0 { preempt1 4 with tiles := [0] } = true ∧
    State.reset.usersOf 0 = [] ∧
    State.reset.memoryOk ∧ (preempt1 4).n ≤ (preempt1 4).acks + 1 ∧ (preempt1 4).users = false ∧ (State.reset.part 0).reason = 0 ∧
    (State.reset.core 0 0).stopped = false ∧ ((modeS supX .saved .none).part 0).mode = .saved ∧
    (slicedS.part 0).sliceStamp = 40 ∧ (slicedS.part 0).mode = .running ∧ slicedS.tilesOf 0 ≠ [] ∧ slicedS.timeSliced 0 = true ∧
    State.reset.timeSliced 0 = false ∧ slicedS.protos = [] ∧ slicedS.locks = [] ∧
    (0 : Nat) < Config.tiles ∧ (State.reset.part (State.reset.partOfTile 0)).mode = .running :=
  ⟨rfl, rfl, by decide, by decide, by decide, rfl, rfl, by decide, rfl, rfl, rfl, rfl, rfl, rfl,
    List.ne_nil_of_mem (a := 0) (List.mem_filter.2 ⟨List.mem_range.2 (by decide), rfl⟩), by decide, by decide, rfl, rfl, by decide, rfl⟩

/-- A restore of tile 0 whose area is zeros, and what nothing saved knows of it. -/
def restoreS : State := { withX supX with protos := [(8, preempt1 5)], event := .restoreFlitArrival ⟨8, 4096⟩ }
theorem not_saved (v : Nat) (y : Strand) (h : restoreS.strand v = some y) (a key : Nat) (l : Bool) : y.place ≠ .saved a 4 key l := by
  intro hp
  by_cases hv : v = 7
  · subst hv
    cases h
    cases hp
  · have h' : SMap.find? [(7, supX)] v = some y := h
    simp only [SMap.find?, if_neg (Ne.symm hv)] at h'
    split at h' <;> cases h'
/-- `PreemptionRuns`: an area of zeros is read back: no context, no command, no end. -/
theorem witness_restore :
    restoreS.savedAt 0 (preempt1 5).key = some (Saved.none (preempt1 5).key (restoreS.areaCell 0 (preempt1 5).key)) ∧
    restoreS.memoryOk ∧ restoreS.strandsOk ∧ (∀ k n, restoreS.spanBad k n = false) ∧ restoreS.mem = [] ∧
    restoreS.gone 0 = false :=
  ⟨rfl, rfl, by decide, fun _ _ => rfl, rfl, by decide⟩

/-! ## The fabric, the ports and the module -/

/-- A packet of tile 100 for tile 5 under the number that is expected, and under another. -/
def flit0 (n : BitVec 8) : PortFlit := ⟨100, 5, (withX userX).flitHeader 100 5 n 0 0 (.ack 7 0), 0, .ack 7 0⟩
theorem flit0_good (n : BitVec 8) : headerFails (flit0 n).hdr = 0 := by
  have h : (flit0 n).hdr.crc = Config.crc16 (headerCovered (flit0 n).hdr) := rfl
  have hd : (flit0 n).hdr.dst = 5 := rfl
  have hk : (flit0 n).hdr.kind = packetKind (.ack 7 0) := rfl
  unfold headerFails
  rw [if_neg (fun hn => hn h), hd, hk, if_neg (by decide), if_neg (by decide)]
theorem flit0_bad : headerFails { (flit0 0).hdr with crc := ~~~(flit0 0).hdr.crc } = 1 := by
  have h : (flit0 0).hdr.crc = Config.crc16 (headerCovered (flit0 0).hdr) := rfl
  have hc : headerCovered { (flit0 0).hdr with crc := ~~~(flit0 0).hdr.crc } = headerCovered (flit0 0).hdr := rfl
  unfold headerFails
  rw [hc, if_pos]
  show ~~~(flit0 0).hdr.crc ≠ _
  rw [← h]
  intro hn
  have := congrArg (fun v : BitVec 16 => v.getLsbD 0) hn
  simp at this
/-- A frame with number 0, and link 0 as reset leaves it. -/
def frame0 (ok idle : Bool) (ack : BitVec 16) : Frame :=
  ⟨1, 0, ack, ok, idle, .none, if idle then [] else [(3, 0, .data 9 5)]⟩
def linkS (f : Link → Link) (ev : Event) : State := { withX userX with links := [(0, f Link.reset)], event := ev }

/-- `FabricAndLinksExecute`: both numbers; a timer that is due and a stale one; frames that fail, are idle, and are
accepted; the timers, a lane, a resynchronisation. -/
theorem witness_fabric :
    (∀ n, headerFails (flit0 n).hdr = 0) ∧ headerFails { (flit0 0).hdr with crc := ~~~(flit0 0).hdr.crc } = 1 ∧
    ((withX userX).pair 100 5).expected = (flit0 0).hdr.seq ∧ ((withX userX).pair 100 5).expected ≠ (flit0 1).hdr.seq ∧
    ((withX userX).pair 100 5).fi = (flit0 0).hdr.fi ∧ (flit0 0).hdr.fi = (flit0 0).hdr.nf ∧ (0 : Nat) < Config.links ∧
    ((linkS id .none).link 0).ready = true ∧
    SMap.find? (withX userX).retired 5 = none ∧ (∀ r, (flit0 0).pkt ≠ .resp r) ∧
    ((withX userX).pair 100 5).queue = [] ∧ ((withX userX).pair 100 5).stamp = 0 ∧
    ((linkS (fun k => { k with training := true }) .none).link 0).training = true ∧ ((linkS id .none).link 0).mode ≠ .down ∧
    (frame0 true false 0).ack = ((linkS id .none).link 0).ack ∧ (frame0 true false 0).seq = ((linkS id .none).link 0).expected ∧
    (withX userX).peerHeld = [] ∧ (SMap.getD (withX userX).peerPairs (peerPairNo 1 3) (0, 0)).2 = 0 ∧
    SMap.find? ({ withX userX with peerTags := [(9, (.reg 7 0 4 false, 0, 2, 8))] } : State).peerTags 9 = some (.reg 7 0 4 false, 0, 2, 8) ∧
    ((frame0 true true 1).ack - ((linkS id .none).link 0).ack).toNat < 2 ^ 15 ∧ (withX userX).peerOut = [] ∧
    ((linkS (fun k => { k with store := [frame0 true false 0] }) .none).link 0).store ≠ [] ∧ ((linkS id .none).link 0).mode = .full ∧
    ((linkS (fun k => { k with resync := true }) .none).link 0).resync = true :=
  ⟨flit0_good, flit0_bad, rfl, by show (0 : BitVec 8) ≠ 1; decide, rfl, rfl, by decide, rfl,
    rfl, (fun _ h => by cases h), rfl, rfl, rfl, by decide, rfl, rfl, rfl, rfl, rfl, by decide, rfl, by decide, rfl, rfl⟩

/-- A send of 8 bytes of local store at 0x40, with a block at 0x1000, and a malformed one. -/
def sendX (n : Word) : Strand := cmdX [0xFE00000000000040, n, 0xFE00000000001000]
theorem witness_psend :
    psendBadWord ((sendX 8).eight 8) 0 = none ∧ psendBadWord ((sendX 0).eight 8) 0 = some 1 ∧
    psendBadWord ((sendX 8953).eight 8) 0 = some 1 ∧ (sendX 8).Clear (eightFrom 8) [] ∧ (∀ q ∈ (sendX 8).posted, q.cls = 2) ∧
    (∃ pay s1, payTargets 7 (sendX 8) (pagePieces 0xFE00000000000040 8) (withX (sendX 8)) = .ok (pay, s1)) ∧
    (∃ b s1, optTarget 7 (sendX 8) 0xFE00000000001000 permR true (withX (sendX 8)) = .ok (b, s1)) ∧
    SMap.getD (withX (sendX 8)).psendq (sendNo 0 0) [] = [] ∧ (withX (sendX 8)).vectorMemBusy 7 (sendX 8) = false :=
  ⟨by decide, by decide, by decide, clear_of_empty rfl rfl _ _, by decide, ⟨_, _, rfl⟩, ⟨_, _, rfl⟩, rfl, by decide⟩

/-- A frame from 10.0.0.2 port 5 to 10.0.0.1 port 9 with a Ralvos header for service 100. -/
def frame1 : EthFrame :=
  ⟨0, sentBytes 5 0 (leBytes 8 7 ++ leBytes 8 (9 + 5 * 2 ^ 16) ++ leBytes 8 0x0A000001 ++ leBytes 8 0 ++ leBytes 8 0x0A000002)
    ([100, 0, 1, 0] ++ List.replicate 12 0)⟩
/-- The words of an entry that takes it: partition 0, two slots of 128 bytes at 0x10000, one tile. -/
def words1 : SvcWords := ⟨100 * 2 ^ 16 + 9, 0x10000, 2 + 2 * 2 ^ 32, 0x100, 2 ^ 28⟩
def svc1 : Svc := { Svc.reset with w := words1, v := true, live := some words1 }
def req1 : Request := ⟨List.replicate 64 0, [1, 2]⟩
def edgeS (e : Svc) (ev : Event) : State := { State.reset with ports := [(0, ⟨5, [⟨false, 0x0A000001, 0⟩]⟩)], svc := [(3, e)], event := ev }
def job1' (who : JobFor) (got : List Answer) (tgts : List Target) : Job := ⟨who, 0, none, false, 0, [], none, got, tgts⟩
/-- The accesses of a unit are over. -/
def unitS (s : State) (j : Job) : State := { s with jobs := [(8, j)], uids := 9, agenda := [⟨0, 1, 0, 0, .job 8⟩] }
theorem unit_done (s : State) (j : Job) (h : s.powered = true) (h' : s.now = 0) (hj : j.todo = []) : (unitS s j).UnitDone 8 j :=
  ⟨h, ⟨⟨0, 1, 0, 0, .job 8⟩, [], by simp [unitS, State.dueEvent, h'], rfl⟩, rfl, hj⟩
theorem lead_zero {s : State} {p : Nat} (h : s.partOfTile 0 = p) : s.leadTile p = some 0 := by
  unfold State.leadTile
  rw [show Config.tiles = 3071 + 1 from rfl, List.range_succ_eq_map, List.find?_cons_of_pos (by simp [h])]
def rec1 : Launch := ⟨0, 0x100, 1, 2, 3, 1, 0, 5, 2⟩
/-- A launch waits in class 1 of partition 0. -/
def launchS : State :=
  { State.reset with parts := [(0, { Part.reset with queues := (Vector.replicate 4 []).set 1 [rec1] })], event := .launchDispatch 0 }
def fn1 : VFn := ⟨0, 0, [], [], []⟩
def send1 : Psend := ⟨0, [(.ls 0 0x40, 8)], some (.ls 0 0x1000), none⟩

set_option maxRecDepth 20000 in
/-- Known sums of the standards that R285 names: CRC-32 of "123456789", and an IPv4 header whose sum is good. -/
theorem test_sums : crc32 [0x31, 0x32, 0x33, 0x34, 0x35, 0x36, 0x37, 0x38, 0x39] = 0xCBF43926 ∧
    sumGood (sum16 [0x45, 0, 0, 0x73, 0, 0, 0x40, 0, 0x40, 0x11, 0xB8, 0x61, 0xC0, 0xA8, 0, 1, 0xC0, 0xA8, 0, 0xC7]) = true := by
  decide

set_option maxRecDepth 20000 in
/-- `EdgeEventsExecute`: a frame that an entry takes, one that none takes, one that fails. -/
theorem witness_frames :
    frame1.faulty = false ∧ svc1.takes [⟨false, 0x0A000001, 0⟩] frame1 = true ∧ svc1.takes [] frame1 = false ∧
    frame1.bytes.length = 64 ∧ ({ frame1 with bytes := frame1.bytes.set 20 1 } : EthFrame).faulty = true := by decide

/-- `EdgeEventsExecute`: the state of the entry that takes it; rings with room and without. -/
theorem witness_service :
    svc1.frames = [] ∧ svc1.live = some words1 ∧ (edgeS svc1 .none).leadTile 0 = some 0 ∧ 2 ≤ words1.slotSize - 64 ∧
    (svc1.produced - svc1.consumed).toNat < words1.slots ∧
    words1.slots ≤ ((({ svc1 with produced := 2 } : Svc)).produced - svc1.consumed).toNat ∧
    (edgeS svc1 .none).queueFull 0 0 = false ∧ words1.slotSize - 64 < 65 ∧ ({ svc1 with frames := [req1] } : Svc).frames ≠ [] ∧
    (unitS (edgeS { svc1 with frames := [req1] } .none) (job1' (.frame 3 1) [.data []] [])).UnitDone 8
      (job1' (.frame 3 1) [.data []] []) ∧ allDone [.data []] = true ∧
    (unitS (edgeS { svc1 with frames := [req1] } .none) (job1' (.frame 3 1) [.data []] [])).service 3
      = { svc1 with frames := [req1] } ∧
    (unitS (edgeS { svc1 with frames := [req1], produced := 2 } .none) (job1' (.frame 3 0) [.data [1, 0, 0, 0]] [])).UnitDone 8
      (job1' (.frame 3 0) [.data [1, 0, 0, 0]] []) ∧ req1.payload.length ≤ words1.slotSize - 64 ∧
    (edgeS svc1 .none).svcRange words1 = false ∧ (edgeS svc1 .none).svcRange { words1 with w2 := 0 } = true ∧
    words1.w1.toNat + words1.ringBytes ≤ 2 ^ 56 ∧
    (edgeS { svc1 with task := some 8 } .none).service 3 = { svc1 with task := some 8 } ∧
    (unitS (edgeS { svc1 with task := some 8 } .none) (job1' (.register 3) [] [.md 0 0 0])).UnitDone 8
      (job1' (.register 3) [] [.md 0 0 0]) ∧ words1.same words1 = true :=
  ⟨rfl, rfl, lead_zero rfl, by decide, by decide, by decide, by decide, by decide, by decide, unit_done _ _ rfl rfl rfl, rfl, rfl,
    unit_done _ _ rfl rfl rfl, by decide, by decide, by decide, by decide, rfl, unit_done _ _ rfl rfl rfl, by decide⟩

/-- `EdgeEventsExecute`: a queue that waits, and a die's record; a send to read and one that is read; a launch queue with
room; a host access of a function that is bound and of one that is not, and one that is over; bindings. -/
theorem witness_edges :
    (launchS.part 0).mode = .running ∧ launchS.placing 0 1 0 = false ∧ (launchS.part 0).queue 1 = [rec1] ∧
    (∀ h, h < 4 → 1 < h → (launchS.part 0).queue h = []) ∧
    (∀ h, h < 4 → ∀ m ∈ (launchS.part 0).queue h, Config.dieOf m.t0 = Config.dieOf rec1.t0) ∧ launchS.rangeOk 0 5 2 = true ∧
    launchS.strandsOk ∧ (∀ t, (launchS.tile t).filters = [] ∧ (launchS.tile t).hold.length < 64) ∧
    SMap.getD ({ State.reset with psendq := [(0, [send1])] } : State).psendq (sendNo 0 0) [] = [send1] ∧
    (unitS { State.reset with psendq := [(0, [send1])] } (job1' (.psend 0 0 0) [.data []] [])).UnitDone 8
      (job1' (.psend 0 0 0) [.data []] []) ∧ send1.block ≠ none ∧
    SMap.find? ({ State.reset with fns := [(3, fn1)] } : State).fns 3 = some fn1 ∧ State.reset.leadTile 0 = some 0 ∧
    SMap.find? State.reset.fns 3 = none ∧ State.reset.leadTile 7 = none ∧ State.reset.queueFull 0 1 = false ∧
    ({ State.reset with fns := [(3, fn1)] } : State).currentFn 0 = some 3 ∧
    (unitS State.reset (job1' (.host 0x40 4 false) [.data [1, 2, 3, 4]] [])).UnitDone 8 (job1' (.host 0x40 4 false) [.data [1, 2, 3, 4]] []) ∧
    (pieces64 0x40 4).length = 1 ∧ bindable ⟨3, some 0, [], [], 0⟩ = true ∧ bindable ⟨3, none, [], [], 0⟩ = true ∧
    bindable ⟨1024, none, [], [], 0⟩ = false ∧ bindable ⟨3, some 48, [], [], 0⟩ = false ∧
    bindable ⟨2, some 0, [2, 1], [9], 0⟩ = true ∧
    (State.bindFn { State.reset with fns := [(1, fn1)] } ⟨2, some 0, [2, 1], [9], 0⟩).timeSliced 0 = true :=
  ⟨rfl, by decide, rfl, by decide, by decide, by decide, by decide, fun _ => ⟨rfl, by show (0 : Nat) < 64; decide⟩, rfl,
    unit_done _ _ rfl rfl rfl, by decide, rfl, lead_zero rfl, rfl,
    List.find?_eq_none.2 (fun _ _ h => by cases h), by decide, by decide, unit_done _ _ rfl rfl rfl, by decide,
    by decide, by decide, by decide, by decide, by decide, by decide⟩

/-- An image of one word of text and one launch, and a machine in which a launch is due. -/
def image1 : Image := ⟨0, [], [], [(0, true, [1, 0, 0xE0, 0])], [], [rec1]⟩
def launchesS : State := { State.reset with agenda := [⟨0, 1, 0, 0, .launchLine rec1⟩] }

/-- `ModuleEventsExecute`: no firmware, and one that the root key does not sign; the message ring off; the counts read and
the entry written; partitions that run, that are out, and none. (Whether a signature is good is a free value.) -/
theorem witness_moduleEvents :
    State.reset.flash = none ∧ State.reset.strandsOk ∧ (∀ t, (State.reset.tile t).filters = []) ∧
    (∀ d, (State.reset.matrix d).waiters = [] ∧ (State.reset.vunit d 0).waiters = []) ∧
    (State.reset.regs 0).msgring.getLsbD 0 = false ∧ (State.reset.die 0).ringing = false ∧ (State.reset.die 0).mq = [] ∧
    (unitS { State.reset with dies := [(0, { Die.reset with mq := [⟨1, 2, 3, 4⟩], ringing := true })] }
      (job1' (.ring 0 0) [.data (List.replicate 16 0)] [])).UnitDone 8 (job1' (.ring 0 0) [.data (List.replicate 16 0)] []) ∧
    (unitS { State.reset with dies := [(0, { Die.reset with mq := [⟨1, 2, 3, 4⟩], ringing := true })] }
      (job1' (.ring 0 1) [.data [], .data []] [])).UnitDone 8 (job1' (.ring 0 1) [.data [], .data []] []) ∧
    (State.reset.part 0).mode = .running ∧ ((modeS supX .saved .none).part 0).mode = .saved ∧
    SMap.getD ({ State.reset with partOf := [(5, 48)] } : State).partOf 5 0 = 48 ∧ State.reset.retired = [] ∧
    SMap.inRange State.reset.saved (savedNo 5 0) (savedNo 6 0) = [] ∧ State.reset.hostImage = none ∧ (35 : Nat) < Config.dies ∧
    Config.dies ≤ 36 ∧ imgRejected State.reset image1 = false ∧ imgRejected State.reset { image1 with part := 48 } = true ∧
    (∃ e rest, launchesS.dueEvent 1 = some (e, rest) ∧ e.ev = .launchLine rec1) ∧ launchesS.powered = true ∧ launchesS.strandsOk ∧
    (launchesS.tile rec1.t0).filters = [] :=
  ⟨rfl, by decide, fun _ => rfl, fun _ => ⟨rfl, rfl⟩, by decide, rfl, rfl, unit_done _ _ rfl rfl rfl, unit_done _ _ rfl rfl rfl, rfl, rfl,
    rfl, rfl, rfl, rfl, by decide, by decide, by decide, by decide, ⟨_, _, rfl, rfl⟩, rfl, by decide, rfl⟩

/-! ## Encodings, a step and the invariants -/

/-- `DecodeEncode`, `DecodeSound`: the extremes of an operand. -/
theorem witness_encode :
    encode ⟨3, true⟩ (.addi 5 5 (-1)) = some 0x08E52FFF ∧ (Instr.addi 5 5 (-1)).illegal = none ∧ unguarded 0x08E52FFF = false ∧
    decode 0x305FFFFD = .ok (.br (-3)) ∧ encode (guardOf 0x305FFFFD) (.br (-3)) = some 0x305FFFFD := by decide

/-- A machine that fetches `movz g9, 0xFF, 0` next, and one in which a telemetry sample is due. -/
def fetchS : State := State.reset.withFetchWord 32 0x292000FF
def sampleS : State := { State.reset with agenda := [⟨0, 0, 0, 0, .telemetrySample 0⟩] }
/-- `StepRunsDecoded`, `StepKeepsMemoryCanonical`, `StepKeepsStrandsListed`. -/
theorem witness_step :
    fetchS.powered = true ∧ fetchS.dueEvent 1 = none ∧ fetchS.memoryOk ∧ fetchS.strandsOk ∧
    (∃ e rest, sampleS.dueEvent 1 = some (e, rest) ∧ e.ev = .telemetrySample 0) ∧ isRow (.telemetrySample 0) = true ∧
    fetchS.issuers = [0] ∧ fetchS.samplesNext 0 = false ∧ (fetchS.regs 0).ptbase.getLsbD 0 = true ∧
    decode 0x292000FF = .ok (.movz 9 0 0xFF) ∧ State.reset.memoryOk ∧ State.reset.strandsOk :=
  ⟨rfl, by decide, by decide, by decide, ⟨_, _, rfl, rfl⟩, rfl, by decide, by decide, by decide, by decide, by decide, by decide⟩
theorem witness_steps : (∃ s', step fetchS = .next s') ∧ (∃ s', step State.reset = .next s') ∧ (∃ s', step sampleS = .next s') :=
  ⟨⟨_, rfl⟩, ⟨_, rfl⟩, ⟨_, rfl⟩⟩

/-! ## Encodings: limits, illegal words, the table's numbering -/

/-- An ill-formed instruction for each limit is refused, by the limit that it breaks (R37, R41). -/
theorem test_ill_formed :
    (Instr.add 25 1 2).illegal = some .register ∧ (Instr.add 1 28 2).illegal = some .register ∧
    (Instr.std 28 1 0).illegal = some .register ∧ (Instr.fetch 17 0 0).illegal = some .firstRegister ∧
    (Instr.vfadd 0 0 0 11).illegal = some .lanePattern ∧ (Instr.vld 0 0 0 7).illegal = some .elementType ∧
    (Instr.fenceRel 0 true true true).illegal = some .fenceScope ∧ (Instr.fenceAcq 1 false false false).illegal = some .fenceScope ∧
    (Instr.fid 0 8).illegal = some .channel ∧ (Instr.xopen 0 0 4).illegal = some .channel ∧ (Instr.psend 0 0 5).illegal = some .channel ∧
    (Instr.cbwait 0 16).illegal = some .channel ∧ (Instr.csrr 0 1).illegal = some .csr ∧ (Instr.csrw 0 0).illegal = some .csr ∧
    Instr.matrixMstep.illegal = some .noEncoding := by decide
/-- The last value that each of these limits admits. -/
theorem test_well_formed :
    (Instr.add 24 27 27).WellFormed ∧ (Instr.std 27 27 0).WellFormed ∧ (Instr.fetch 16 0 7).WellFormed ∧
    (Instr.vfadd 0 0 0 10).WellFormed ∧ (Instr.vld 0 27 27 6).WellFormed ∧ (Instr.fenceRel 3 false false true).WellFormed ∧
    (Instr.xopen 0 0 3).WellFormed ∧ (Instr.psend 0 0 4).WellFormed ∧ (Instr.csrr 0 0x810).WellFormed := by decide

/-- A word for each line of R41: each is illegal, and none falls to a neighbour. -/
theorem test_illegal_words :
    decode 0x94000000 = .error .major ∧ decode 0 = .error .function ∧ decode 0x04190000 = .error .register ∧
    decode 0x00000081 = .error .reserved ∧
    decode 0xA0110000 = .error .firstRegister ∧ decode 0xE0000001 = .error .csr := by decide

/-- The decoder on a table word, and the word fetched and run as the first instruction: `movz g9, 0xFF, 0` (R39, R95). -/
theorem test_table_word : decodeTableWord 32 0x292000FF = some (.movz 9 0 0xFF) ∧ decodeTableWord 32 0x94000000 = none := by decide
theorem test_first_step :
    (match step fetchS with | .next s => (s.strand 0).map (fun x => (x.reg 9, x.ctx.pc)) | _ => none) = some (0xFF, 4) := by decide
/-- An illegal word traps with cause 0x01 and the word; with no vector, the supervisor strand's core stops (R258). -/
theorem test_first_illegal :
    (match step (State.reset.withFetchWord 32 0x94000000) with
      | .next s => (s.strand 0).map (fun x => (x.ctx.tcause, x.ctx.tval, (s.core 0 0).stopped)) | _ => none)
      = some (1, 0x94000000, true) := by decide

/-! ## Values that the spec works out -/

/-- The worked narrowings of R25. -/
theorem test_narrowings :
    Num.narrow .bf16 .ieee 0x3F808000 = 0x3F80 ∧ Num.narrow .bf16 .ieee 0x3F818000 = 0x3F82 ∧
    Num.narrow .e4m3 .sat 0x3F880000 = 0x38 ∧ Num.narrow .e4m3 .sat 0x43E00000 = 0x7E ∧ Num.narrow .e4m3 .sat 0x43E80000 = 0x7E ∧
    Num.narrow .e4m3 .sat 0x43EB0000 = 0x7E ∧ Num.narrow .e4m3 .sat 0xFF800000 = 0xFE ∧ Num.narrow .e4m3 .sat 0x3AC00000 = 1 ∧
    Num.narrow .e4m3 .sat 0x3A800000 = 0 ∧ Num.narrow .e4m3 .sat 0xBA000000 = 0x80 ∧ Num.narrow .e4m3 .sat 0xFFC00000 = 0xFF ∧
    Num.narrow .e5m2 .sat 0x476A6000 = 0x7B ∧ Num.narrow .e5m2 .ieee 0x476A6000 = 0x7B ∧ Num.narrow .e5m2 .sat 0x47700000 = 0x7B ∧
    Num.narrow .e5m2 .ieee 0x47700000 = 0x7C ∧ Num.narrow .e5m2 .sat 0x7F800000 = 0x7B ∧ Num.narrow .e5m2 .ieee 0x7F800000 = 0x7C := by
  decide

/-- The worked group of one `bfdot4` (R28, R29): one rounding keeps the low terms. -/
theorem test_bfdot4 :
    Num.windowSum (Num.ofF32 0 :: products .bf16 4 0x0000398039803F80 0x3F80398039803F80) = 0x3F800001 := by decide

set_option maxRecDepth 4000 in
/-- The worked step of the matrix engine: the groups of 32 round apart (R29). -/
theorem test_matrix_groups :
    Num.windowSum (Num.ofF32 0 :: Num.mulV (Num.decode .bf16 0x4B80) (Num.decode .e4m3 0x38) ::
      List.replicate 29 (Num.decode .e4m3 0x38)) = 0x4B80000E := by decide
set_option maxRecDepth 4000 in
theorem test_matrix_groups_second :
    Num.windowSum (Num.ofF32 0x4B80000E :: List.replicate 29 (Num.decode .e4m3 0x38)) = 0x4B80001C := by decide

/-- The worked mapping of R57: a domain of ten units over tiles 64, 65 and 1600. -/
theorem test_mapping :
    locateIn ⟨[64, 65, 1600], 10, 0x100000⟩ 0x10 = some (64, cellNo 64 false 0x100010) ∧
    locateIn ⟨[64, 65, 1600], 10, 0x100000⟩ 0x2008 = some (1600, cellNo 1600 false 0x100008) ∧
    locateIn ⟨[64, 65, 1600], 10, 0x100000⟩ 0x5A30 = some (1600, cellNo 1600 false 0x101A30) ∧
    locateIn ⟨[64, 65, 1600], 10, 0x100000⟩ 0x8FF8 = some (1600, cellNo 1600 false 0x102FF8) ∧
    locateIn ⟨[64, 65, 1600], 10, 0x100000⟩ 0x9000 = none := by decide

/-- The worked row of `vrsum`: (1.0625 + 3·2^-11) + (-470 + 2^-10) is -468.93505859375 (R30). -/
theorem test_row_sum :
    Num.fadd (Num.fadd 0x3F880000 0x3AC00000) (Num.fadd 0xC3EB0000 0x3A800000) = 0xC3EA77B0 := by decide
/-- Division by zero and the corner of signed division give their stated values (R97). -/
theorem test_division :
    udivW 7 0 = 0xFFFFFFFFFFFFFFFF ∧ uremW 7 0 = 7 ∧ sdivW 0x8000000000000000 0xFFFFFFFFFFFFFFFF = 0x8000000000000000 ∧
    sremW 0x8000000000000000 0xFFFFFFFFFFFFFFFF = 0 := by decide

/-- What `exec` leaves in g1 of a user strand with g1 = 0, g2 = a and g3 = b. -/
def valueOf (i : Instr) (a b : Word) : Option Word :=
  let x : Strand := { userX with ctx := { userX.ctx with g := regsOf [0, 0, a, b] } }
  match exec i (withX x) with
  | .next s => (s.strand 7).map (fun y => y.reg 1)
  | _ => none
/-- Each instruction gives the value beside it. -/
def gives (l : List (Instr × Word × Word × Word)) : Bool := l.all (fun e => valueOf e.1 e.2.1 e.2.2.1 == some e.2.2.2)

/-- The examples of R97's table. -/
theorem test_integer_examples : gives [
    (.add 1 2 3, 0x5, 0xfffffffffffffff9, 0xfffffffffffffffe),
    (.sub 1 2 3, 0x5, 0x7, 0xfffffffffffffffe),
    (.mul 1 2 3, 0xfffffffffffffffd, 0x4, 0xfffffffffffffff4),
    (.mulh 1 2 3, 0x8000000000000000, 0x4, 0x2),
    (.mulhs 1 2 3, 0xffffffffffffffff, 0x1, 0xffffffffffffffff),
    (.div 1 2 3, 0x7, 0x0, 0xffffffffffffffff),
    (.divs 1 2 3, 0xfffffffffffffff9, 0x2, 0xfffffffffffffffd),
    (.rem 1 2 3, 0x7, 0x0, 0x7),
    (.rems 1 2 3, 0xfffffffffffffff9, 0x2, 0xffffffffffffffff),
    (.and 1 2 3, 0xf0, 0x3c, 0x30),
    (.or 1 2 3, 0xf0, 0xf, 0xff),
    (.xor 1 2 3, 0xff, 0xf, 0xf0),
    (.andn 1 2 3, 0xff, 0xf, 0xf0),
    (.shl 1 2 3, 0x1, 0x41, 0x2),
    (.shr 1 2 3, 0xffffffffffffffff, 0x3c, 0xf),
    (.sra 1 2 3, 0xfffffffffffffff0, 0x2, 0xfffffffffffffffc),
    (.rol 1 2 3, 0x8000000000000000, 0x1, 0x1),
    (.min 1 2 3, 0xffffffffffffffff, 0x3, 0x3),
    (.mins 1 2 3, 0xffffffffffffffff, 0x3, 0xffffffffffffffff),
    (.max 1 2 3, 0xffffffffffffffff, 0x3, 0xffffffffffffffff),
    (.maxs 1 2 3, 0xffffffffffffffff, 0x3, 0x3),
    (.clz 1 2, 0x1, 0, 0x3f),
    (.ctz 1 2, 0x0, 0, 0x40),
    (.popc 1 2, 0xff, 0, 0x8),
    (.sxb 1 2, 0x80, 0, 0xffffffffffffff80),
    (.sxh 1 2, 0x7fff, 0, 0x7fff),
    (.sxw 1 2, 0xffffffff, 0, 0xffffffffffffffff),
    (.zxw 1 2, 0xffffffffffffffff, 0, 0xffffffff),
    (.addw 1 2 3, 0x7fffffff, 0x1, 0xffffffff80000000),
    (.subw 1 2 3, 0x0, 0x1, 0xffffffffffffffff),
    (.mulw 1 2 3, 0x10000, 0x10000, 0x0),
    (.adds 1 2 3, 0x7fffffffffffffff, 0x1, 0x7fffffffffffffff),
    (.subs 1 2 3, 0x8000000000000000, 0x1, 0x8000000000000000),
    (.bswp 1 2, 0x102, 0, 0x201000000000000)] = true := by decide

/-- The examples of R105 to R107. -/
theorem test_float_examples : gives [
    (.fadd 1 2 3, 0x3f800000, 0x33800000, 0x3f800000),
    (.fsub 1 2 3, 0x40000000, 0x40000000, 0x0),
    (.fmul 1 2 3, 0x0, 0x7f800000, 0x7fc00000),
    (.fmax 1 2 3, 0x80000000, 0x0, 0x0),
    (.fmin 1 2 3, 0x3f800000, 0x7fc00000, 0x7fc00000),
    (.fabs 1 2, 0x80000000, 0, 0x0),
    (.fdiv 1 2 3, 0x3f800000, 0x80000000, 0xff800000),
    (.fsqrt 1 2, 0x80000000, 0, 0x80000000),
    (.frsqrt 1 2, 0x40800000, 0, 0x3f000000),
    (.frcp 1 2, 0xff800000, 0, 0x80000000),
    (.fexp2 1 2, 0x43000000, 0, 0x7f800000),
    (.flog2 1 2, 0x3e800000, 0, 0xc0000000),
    (.itof 1 2, 0x20000000000001, 0, 0x5a000000),
    (.ftoiRne 1 2, 0x40200000, 0, 0x2),
    (.ftoiRz 1 2, 0xc0200000, 0, 0xfffffffffffffffe),
    (.ftoiDn 1 2, 0xc0200000, 0, 0xfffffffffffffffd),
    (.bfpack 1 2 3, 0x3f808000, 0x40400000, 0x40403f80),
    (.bfunpk 1 2, 0xc0a0, 0, 0xc0a00000),
    (.e4dot8 1 2 3, 0x101010101010101, 0x101010101010101, 0x38000000)] = true := by decide
/-- The conditions and a guard read before the predicate is written (R35, R100, R101). -/
theorem test_compares :
    [(Instr.cmpLtu 4 1 2, true), (.cmpLt 4 1 2, false), (.cmpLtuImm 4 2 (-1), true), (.cmpTst 4 1 6, true), (.cmpFunord 4 1 1, false)].all
      (fun e => match exec e.1 (withX { userX with ctx := { userX.ctx with g := regsOf [0, 5, 0x8000000000000000, 0, 0, 0, 4] } }) with
        | .next s => (s.strand 7).map (fun y => y.ctx.getPred 4) == some e.2
        | _ => false) = true := by decide
/-- A byte stored and read again, and the byte beside it; a sign-extended load (R39, R115, R117). -/
theorem test_store_load :
    (match exec (.stb 6 1 1) (withX { userX with ctx := { userX.ctx with g := userX.ctx.g.set 6 0x1FF } }) with
      | .next s => [s.byte (cellNo 0 true 0x41), s.byte (cellNo 0 true 0x42), s.byte (cellNo 0 true 0x40)]
      | _ => []) = [0xFF, 0, 0] := by decide

end Sys2Proof.Tests
end

section
/-! SUPPORT. Element-wise vector instructions and row reductions (R149, R152, R154, R158 to R162, R169): both read some
elements, trap on the first that is poisoned, and otherwise write one register inside the shape. -/

namespace Sys2Proof.Machine
open Sys2Proof

/-! ## The agenda -/

theorem mem_insertEntry {a e : Entry} {l : List Entry} : a ∈ insertEntry e l ↔ a = e ∨ a ∈ l := by
  induction l with
  | nil => simp [insertEntry]
  | cons b l ih =>
    unfold insertEntry
    split
    · simp
    · simp only [List.mem_cons, ih]
      exact or_left_comm

/-- Scheduling loses no event. -/
theorem State.mem_agenda_schedule {s : State} {d p : Nat} {ev : Event} {e : Entry} (h : e ∈ s.agenda) :
    e ∈ (s.schedule d p ev).agenda := mem_insertEntry.mpr (.inr h)

/-- A scheduled event stands in the agenda. -/
theorem State.scheduled_mem_agenda (s : State) (d p : Nat) (ev : Event) :
    ⟨d, p, d, s.seq, ev⟩ ∈ (s.schedule d p ev).agenda := mem_insertEntry.mpr (.inl rfl)

/-! ## Vector units of the state -/

@[simp] theorem State.vunit_onVunit_self (s : State) (t c : Nat) (f : VUnit → VUnit) :
    (s.onVunit t c f).vunit t c = f (s.vunit t c) := SMap.getD_put_self _ _ _ _

theorem State.vunit_onVunit_ne (s : State) {t c a b : Nat} (f : VUnit → VUnit) (h : coreNo a b ≠ coreNo t c) :
    (s.onVunit t c f).vunit a b = s.vunit a b := SMap.getD_put_ne _ _ _ h

/-! ## Retiring and trapping -/

theorem State.onStrand_id (s : State) (u : Nat) : s.onStrand u id = s := by
  have : ∀ m : SMap Strand, SMap.adjust m u id = m := by
    intro m
    induction m with
    | nil => rfl
    | cons e m ih => simp [SMap.adjust, ih]
  simp [State.onStrand, this]

/-- An instruction that changes nothing of its strand and retires at the next instruction. -/
theorem retiredAs_retire {s : State} {u t c n : Nat} {x : Strand} (hi : s.Issuing u x t c n) :
    s.RetiredAs (finish u t c n false (.ok (s.retire u))) u t c n x (x.ctx.pc + 4) := by
  have h : s.retire u = (s.onStrand u id).retireTo u (x.ctx.pc + 4) := by
    rw [State.onStrand_id]
    simp only [State.retire, hi.strand]
  rw [h]
  exact retiredAs_of_strand hi id _

/-- Retiring loses no event. -/
theorem State.RetiredAs.events {s s' : State} {u t c n : Nat} {y : Strand} {pc : BitVec 48}
    (h : s.RetiredAs s' u t c n y pc) : ∀ e ∈ s.agenda, e ∈ s'.agenda := by
  intro e he
  rw [h.agenda]
  split
  · exact mem_insertEntry.mpr (.inr he)
  · exact he

/-- Two changes of a strand are one. -/
theorem State.onStrand_onStrand (s : State) (u : Nat) (f g : Strand → Strand) :
    (s.onStrand u f).onStrand u g = s.onStrand u (g ∘ f) := by
  have : ∀ m : SMap Strand, SMap.adjust (SMap.adjust m u f) u g = SMap.adjust m u (g ∘ f) := by
    intro m
    induction m with
    | nil => rfl
    | cons e m ih =>
      simp only [SMap.adjust]
      split_ifs <;> simp [SMap.adjust, *]
  simp [State.onStrand, this]

/-- A trap that goes to the strand's own vector changes the strand and frees the group that it was changing (R257). -/
theorem State.takeTrap_vector {s : State} {u cause : Nat} {x : Strand} {val : Word} (hx : s.strand u = some x)
    (hv : x.ctx.tvec ≠ 0) (hs : x.ctx.sup = true ∨ toSupervisor cause val false = false) (hc : cause ≠ 0x10) :
    s.takeTrap u cause val false =
      State.onStrand { s with locks := s.locks.filter (fun l => l.2 != u) } u (fun _ => x.trapped cause val s.now) := by
  have hvec : (x.ctx.setTrap cause val x.ctx.pc).tvec = x.ctx.tvec := rfl
  have hmode : (x.ctx.setTrap cause val x.ctx.pc).sup = x.ctx.sup := rfl
  unfold State.takeTrap
  simp only [hx, hvec, hmode, hv, hc, beq_iff_eq, Bool.or_eq_true, or_false, if_false, State.onStrand_onStrand]
  cases hsup : x.ctx.sup with
  | true => rfl
  | false =>
    simp only [hs.resolve_left (by simp [hsup])]
    rfl

/-- An instruction that traps to its strand's own vector and changes nothing else. -/
theorem trappedAs_of_trapAct {s : State} {u t c n cause : Nat} {x : Strand} {val : Word} (hi : s.Issuing u x t c n)
    (hv : x.ctx.tvec ≠ 0) (hs : x.ctx.sup = true ∨ toSupervisor cause val false = false) (hc : cause ≠ 0x10) :
    s.TrappedAs (finish u t c n false (trapAct s cause val)) u t c n x cause val := by
  have hx : State.strand { s with locks := s.locks.filter (fun l => l.2 != u) } u = some x := hi.strand
  have htrap := State.takeTrap_vector hi.strand hv hs hc
  unfold finish trapAct State.took
  simp only [Bool.false_eq_true, if_false, htrap]
  refine ⟨?_, ?_, ?_, ?_, ?_, ?_⟩
  · simp only [State.strand_onStrand_self, State.strand_onCore, hx]
    rfl
  · intro w hw
    simp only [State.strand_onStrand_ne _ _ hw, State.strand_onCore]
    rfl
  · simp only [State.core_onStrand, State.core_onCore_self]
    rfl
  · intro a b hab
    simp only [State.core_onStrand, State.core_onCore_ne _ _ hab]
    rfl
  · intro k
    simp only [State.byte, State.onStrand_mem, State.onCore_mem]
  · simp only [State.onStrand, State.onCore]

/-! ## Issuing to a vector unit -/

/-- No register that an instruction waits for is pending. -/
theorem VUnit.Arrived.waits {v : VUnit} {vs : List VReg} (h : v.Arrived vs) : waits vs v = false := by
  simp only [Machine.waits, List.any_eq_false, VUnit.isPending, bne_iff_ne, ne_eq, not_not]
  exact h

/-- A vector instruction of the unit's holder, its registers in, does what its own meaning says. -/
theorem State.HoldsUnit.vectorOp_eq {s : State} {u t c n : Nat} {x : Strand} {v : VUnit} {regs wr : List Reg}
    {vs : VUnit → Bool} {body : Nat → Strand → Nat → Nat → VUnit → State → Act} (h : s.HoldsUnit u x t c n v)
    (hc : x.Clear regs wr) (hv : vs v = false) :
    vectorOp regs wr vs body s = .next (finish u t c n false (body u x t c v s)) := by
  have hi := h.issuing
  have hfree : ¬ s.now < v.busy := Nat.not_lt.mpr h.free
  have hcore : x.place.core = c := by rw [hi.place]; rfl
  have hnone : x.Clear [] [] := ⟨by simp, by simp⟩
  unfold vectorOp
  rw [issueWith_clear hi hnone hnone]
  simp only [h.tile, hcore, h.unit, h.holder, hi.start, hc.blocked, hv, hfree, h.cool, hc.poisonIn]
  simp

/-- The unit `v` once register `d` has been written where `p` holds, its readiness put off, and its time taken. -/
def VUnit.writing (v : VUnit) (d : VReg) (p : Nat → Bool) (f : Nat → Half) (busy ready : Nat) : VUnit :=
  { (v.write d.toNat p f).setPending d.toNat ready with busy := busy }

theorem VUnit.reg_write_self (v : VUnit) (d : VReg) (p : Nat → Bool) (f : Nat → Half) :
    (v.write d.toNat p f).reg d.toNat = Vector.ofFn (fun i : Fin 1024 => if p i.val then f i.val else v.elem d.toNat i.val) := by
  have hd : d.toNat < 8 := d.isLt
  unfold VUnit.reg VUnit.write
  rw [Vector.getElem?_setIfInBounds_self_of_lt hd]
  rfl

theorem VUnit.reg_write_ne (v : VUnit) {r k : Nat} (p : Nat → Bool) (f : Nat → Half) (h : r ≠ k) :
    (v.write k p f).reg r = v.reg r := by
  simp [VUnit.reg, VUnit.write, Ne.symm h]

/-- Only what is written inside `p` matters. -/
theorem VUnit.write_congr (v : VUnit) (r : Nat) {p : Nat → Bool} {f g : Nat → Half} (h : ∀ i, p i = true → f i = g i) :
    v.write r p f = v.write r p g := by
  have hval : (fun i : Fin 1024 => if p i.val then f i.val else v.elem r i.val) =
      fun i : Fin 1024 => if p i.val then g i.val else v.elem r i.val := by
    funext i
    split
    · exact h i ‹_›
    · rfl
  simp only [VUnit.write, hval]

/-- Writing a register changes its elements where `p` holds, takes their poison away, and leaves the rest (R149, R158). -/
theorem VUnit.wroteAs_writing (v : VUnit) (d : VReg) (p : Nat → Bool) (f : Nat → Half) (busy : Nat) {ready : Nat}
    (h : ready ≠ 0) : v.WroteAs (v.writing d p f busy ready) d p f busy := by
  have hd : d.toNat < 8 := d.isLt
  refine ⟨?_, ?_, ?_, ?_, rfl⟩
  · intro i hi
    have : (v.writing d p f busy ready).reg d.toNat = (v.write d.toNat p f).reg d.toNat := rfl
    simp [VUnit.elem, this, VUnit.reg_write_self, hi]
  · intro r hr
    refine ⟨VUnit.reg_write_ne v p f hr, ?_⟩
    simp [VUnit.isPending, VUnit.writing, VUnit.setPending, VUnit.write, Ne.symm hr]
  · simp [VUnit.isPending, VUnit.writing, VUnit.setPending, hd, h]
  · intro e
    simp [VUnit.writing, VUnit.setPending, VUnit.write, imp_iff_not_or]

/-- An instruction that occupies its strand's unit and retires: the strand goes on, the unit is as written, and the
register is due (R154). -/
theorem State.HoldsUnit.occupy_retire {s : State} {u t c n : Nat} {x : Strand} {v : VUnit} (h : s.HoldsUnit u x t c n v)
    (d : VReg) (p : Nat → Bool) (f : Nat → Half) (busy lat : Nat) {s' : State}
    (hs' : s' = finish u t c n false (.ok ((s.occupy t c (v.write d.toNat p f) d busy lat).retire u))) :
    s.VectorAs s' u t c n (x.finished (x.ctx.pc + 4) s.now) (v.writing d p f (s.now + busy) (s.now + lat + 1)) ∧
      s.Due s' lat (.vectorLastRowWritten t c d) := by
  let w := v.writing d p f (s.now + busy) (s.now + lat + 1)
  let s1 := s.occupy t c (v.write d.toNat p f) d busy lat
  have hi : s1.Issuing u x t c n := ⟨h.issuing.focus, h.issuing.strand, h.issuing.place, h.issuing.start⟩
  have hr : s1.RetiredAs s' u t c n x (x.ctx.pc + 4) := hs' ▸ retiredAs_retire hi
  have hunits : s'.vunits = (s.onVunit t c (fun _ => w)).vunits := by rw [hr.rest]; rfl
  have hunit (a b : Nat) : s'.vunit a b = (s.onVunit t c (fun _ => w)).vunit a b := by
    simp only [State.vunit, hunits]
  refine ⟨⟨hr.strand, hr.others, hr.core, hr.cores, ?_, ?_, hr.memory, ?_, ?_⟩, ?_⟩
  · rw [hunit, State.vunit_onVunit_self]
  · intro a b hab
    rw [hunit, State.vunit_onVunit_ne _ _ hab]
  · exact fun e he => hr.events e (State.mem_agenda_schedule (s := s.onVunit t c (fun _ => w)) he)
  · rw [hunits]
    exact hr.rest
  · exact ⟨_, hr.events _ (State.scheduled_mem_agenda (s.onVunit t c (fun _ => w)) _ _ _), rfl, rfl⟩

/-! ## What all these instructions have in common -/

/-- Look for poison among the elements that `used` names; else write `f` inside the shape and retire. -/
def writeRows (d : VReg) (lat : Nat) (used : Nat → Bool) (f : Nat → Half) (u t c : Nat) (v : VUnit) (s : State) : Act :=
  match v.poisonIn used with
  | some (k, w) => trapAct s k w
  | none => .ok ((s.occupy t c (v.write d.toNat v.inside f) d v.rows (lat + v.rows)).retire u)

theorem writeRows_clean {v : VUnit} {used : Nat → Bool} (h : v.poisonIn used = none) (d : VReg) (lat : Nat)
    (f : Nat → Half) (u t c : Nat) (s : State) :
    writeRows d lat used f u t c v s =
      .ok ((s.occupy t c (v.write d.toNat v.inside f) d v.rows (lat + v.rows)).retire u) := by
  simp only [writeRows, h]

theorem writeRows_poisoned {v : VUnit} {used : Nat → Bool} {cause : Nat} {val : Word}
    (h : v.poisonIn used = some (cause, val)) (d : VReg) (lat : Nat) (f : Nat → Half) (u t c : Nat) (s : State) :
    writeRows d lat used f u t c v s = trapAct s cause val := by
  simp only [writeRows, h]

/-- Only the values inside the shape matter. -/
theorem writeRows_congr {v : VUnit} {f g : Nat → Half} (h : ∀ i, v.inside i = true → f i = g i) (d : VReg) (lat : Nat)
    (used : Nat → Bool) (u t c : Nat) (s : State) : writeRows d lat used f u t c v s = writeRows d lat used g u t c v s := by
  simp only [writeRows, v.write_congr d.toNat h]

/-- The instruction that a description names. -/
def VMember.run (e : VMember) (s : State) : Host.Outcome State Fault Refusal :=
  vectorOp e.regs [] (waits e.vs) (fun u x t c v s => writeRows e.d e.lat (e.used v) (e.val x v) u t c v s) s

section
variable {s : State} {u t c n : Nat} {x : Strand} {v : VUnit} {e : VMember} (h : s.HoldsUnit u x t c n v)
  (hc : x.Clear e.regs []) (ha : v.Arrived e.vs)
include h hc ha

/-- With no poison the described values are written. -/
theorem VMember.run_clean (hp : v.poisonIn (e.used v) = none) :
    ∃ s' w, e.run s = .next s' ∧ s.VectorAs s' u t c n (x.finished (x.ctx.pc + 4) s.now) w ∧
      v.WroteAs w e.d v.inside (e.val x v) (s.now + v.rows) ∧
      s.Due s' (e.lat + v.rows) (.vectorLastRowWritten t c e.d) := by
  obtain ⟨has, hdue⟩ := h.occupy_retire e.d v.inside (e.val x v) v.rows (e.lat + v.rows) rfl
  refine ⟨_, _, ?_, has, v.wroteAs_writing e.d v.inside (e.val x v) _ (Nat.succ_ne_zero _), hdue⟩
  unfold VMember.run
  rw [h.vectorOp_eq hc ha.waits, writeRows_clean hp]

/-- The first poisoned source element traps. -/
theorem VMember.run_poisoned {cause : Nat} {val : Word} (hp : v.poisonIn (e.used v) = some (cause, val))
    (hv : x.ctx.tvec ≠ 0) (hs : x.ctx.sup = true ∨ toSupervisor cause val false = false) (hk : cause ≠ 0x10) :
    ∃ s', e.run s = .next s' ∧ s.TrappedAs s' u t c n x cause val := by
  refine ⟨_, ?_, trappedAs_of_trapAct h.issuing hv hs hk⟩
  unfold VMember.run
  rw [h.vectorOp_eq hc ha.waits, writeRows_poisoned hp]
end

/-! ## Element-wise instructions -/

theorem elementwise_eq (f : Half → Half → Half → Half) (ua ud : Bool) (lat : Nat) (d a b : VReg) (l : BitVec 4) (s : State) :
    elementwise f ua ud lat d a b l s =
      vectorOp [] [] (waits (if ua then [a, b, d] else [b, d])) (fun u _ t c v s =>
        writeRows d lat (fun n => v.usesB b.toNat l n || (ua && v.usesOwn a.toNat n) || (ud && v.usesOwn d.toNat n))
          (fun i => f (v.elem a.toNat i) (v.elem b.toNat (lanePattern l i)) (v.elem d.toNat i)) u t c v s) s := rfl

section
variable {g : Half → Half → Half → Half} {lat : Nat} {d a b : VReg} {l : BitVec 4} {e : VMember}

theorem elementwise_of_vBinary {f : Half → Half → Half} (h : vBinary f lat d a b l = some e)
    (hg : ∀ p q r, g p q r = f p q) (s : State) : elementwise g true false lat d a b l s = e.run s := by
  cases h
  simp only [elementwise_eq, VMember.run, hg, Bool.true_and, Bool.false_and, Bool.or_false, if_true]

theorem elementwise_of_vUnary {f : Half → Half} (h : vUnary f lat d b l = some e)
    (hg : ∀ p q r, g p q r = f q) (s : State) : elementwise g false false lat d a b l s = e.run s := by
  cases h
  simp only [elementwise_eq, VMember.run, hg, Bool.false_and, Bool.or_false, Bool.false_eq_true, if_false]

theorem elementwise_of_vTernary {f : Half → Half → Half → Half} (h : vTernary f lat d a b l = some e)
    (hg : ∀ p q r, g p q r = f p q r) (s : State) : elementwise g true true lat d a b l s = e.run s := by
  cases h
  simp only [elementwise_eq, VMember.run, hg, Bool.true_and, if_true]
end

theorem fill_eq_run (v : VReg) (rd : List Reg) (f : Strand → Half) (s : State) :
    fill v rd f s = VMember.run { d := v, vs := [v], regs := rd, lat := 4, used := fun _ _ => false, val := fun x _ _ => f x } s := by
  have hp (w : VUnit) : w.poisonIn (fun _ => false) = none := by simp [VUnit.poisonIn]
  simp only [fill, VMember.run, writeRows_clean (hp _)]

theorem mask32_eq (b : Bool) : mask32 b = if b then 0xFFFFFFFF else 0 := rfl

/-- Each element-wise instruction of the table is the one that its description names (R159, R160, R162, R169). -/
theorem exec_of_elementMember {i : Instr} {e : VMember} (h : elementMember i = some e) (s : State) : exec i s = e.run s := by
  cases i with
  | vfadd | vfsub | vfmul | vfmax | vfmin | vfdiv | vfcmpEq | vfcmpLt | vfcmpLe | viadd | visub | vimul | vand | vor | vxor
  | vshl | vshr | vsra =>
    simp only [elementMember] at h
    exact elementwise_of_vBinary h (fun _ _ _ => rfl) s
  | vimax =>
    simp only [elementMember] at h
    change execVimax _ _ _ _ s = _
    exact elementwise_of_vBinary h (fun _ _ _ => by simp only [BitVec.slt, decide_eq_true_eq]) s
  | vimin =>
    simp only [elementMember] at h
    change execVimin _ _ _ _ s = _
    exact elementwise_of_vBinary h (fun _ _ _ => by simp only [BitVec.slt, decide_eq_true_eq]) s
  | vicmpEq =>
    simp only [elementMember] at h
    change execVicmpEq _ _ _ _ s = _
    exact elementwise_of_vBinary h (fun _ _ _ => by simp only [mask32_eq, beq_iff_eq]) s
  | vicmpLt =>
    simp only [elementMember] at h
    change execVicmpLt _ _ _ _ s = _
    exact elementwise_of_vBinary h (fun _ _ _ => by simp only [mask32_eq, BitVec.slt, decide_eq_true_eq]) s
  | vfabs | vfneg | vmov | vcvtF32I32 | vcvtI32F32Rne | vcvtI32F32Rz | vqzE4m3 | vqzE5m2 | vqzBf16 | vqzE5m2Ieee
  | vrsqrt | vrcp | vsqrt | vexp2 | vlog2 =>
    simp only [elementMember] at h
    exact elementwise_of_vUnary h (fun _ _ _ => rfl) s
  | vfma =>
    simp only [elementMember] at h
    exact elementwise_of_vTernary h (fun _ _ _ => rfl) s
  | vsel =>
    simp only [elementMember] at h
    change execVsel _ _ _ _ s = _
    exact elementwise_of_vTernary h (fun _ _ r => by by_cases hr : r = 0 <;> simp [hr]) s
  | vbcast | vzero => cases h; exact fill_eq_run _ _ _ s
  | _ => cases h

/-! ## Row reductions (R30, R161) -/

/-- One level of the model's tree over the list of a row's values. -/
theorem foldHalf_range (f : Half → Half → Half) (w : Nat) (g : Nat → Option Half) :
    foldHalf f w ((List.range (2 * w)).map g) = (List.range w).map (fun k => combine f (g k) (g (k + w))) := by
  apply List.ext_getElem
  · simp [foldHalf]
    omega
  · intro k hk _
    simp [foldHalf, Nat.add_comm w k]

theorem laneTree_succ (f : Half → Half → Half) (leaf : Nat → Option Half) (j k : Nat) :
    laneTree f leaf (j + 1) k = combine f (laneTree f leaf j k) (laneTree f leaf j (k + 32 / 2 ^ j)) := by
  simp only [laneTree]
  cases laneTree f leaf j k <;> cases laneTree f leaf j (k + 32 / 2 ^ j) <;> rfl

/-- A level of the model's tree makes level `j + 1` of R30's tree out of level `j`. -/
theorem foldHalf_laneTree (f : Half → Half → Half) (leaf : Nat → Option Half) (j : Nat) {w m : Nat} (hw : 32 / 2 ^ j = w)
    (hm : m = 2 * w) :
    foldHalf f w ((List.range m).map (laneTree f leaf j)) = (List.range w).map (laneTree f leaf (j + 1)) := by
  subst hm
  rw [foldHalf_range]
  refine List.map_congr_left fun k _ => ?_
  rw [laneTree_succ, hw]

/-- The model's tree over 64 lanes is the tree of R30. -/
theorem reduceRow_eq_laneTree (f : Half → Half → Half) (leaf : Nat → Option Half) :
    reduceRow f ((List.range 64).map leaf) = (laneTree f leaf 6 0).getD 0 := by
  have hleaf : leaf = laneTree f leaf 0 := by funext k; rfl
  unfold reduceRow
  simp only [List.foldl]
  conv_lhs => rw [hleaf]
  rw [foldHalf_laneTree f leaf 0 (w := 32) rfl rfl, foldHalf_laneTree f leaf 1 (w := 16) rfl rfl,
    foldHalf_laneTree f leaf 2 (w := 8) rfl rfl, foldHalf_laneTree f leaf 3 (w := 4) rfl rfl,
    foldHalf_laneTree f leaf 4 (w := 2) rfl rfl, foldHalf_laneTree f leaf 5 (w := 1) rfl rfl]
  rfl

/-- A lane of a row as its reduction takes it; one at or above the lane count is absent (R161). -/
def reducedLane (b : VReg) (l : BitVec 4) (leaf : Half → Half) (v : VUnit) (r k : Nat) : Option Half :=
  if k < v.lanes then some (leaf (v.elem b.toNat (lanePattern l (64 * r + k)))) else none

/-- A row reduction in the terms of an element-wise instruction: every lane of a row gets the value of its tree. -/
def rowReduction (d b : VReg) (l : BitVec 4) (f : Half → Half → Half) (leaf : Half → Half) : VMember :=
  { d := d, vs := [b, d], regs := [], lat := 10, used := fun v n => v.usesB b.toNat l n,
    val := fun _ v i => (laneTree f (reducedLane b l leaf v (i / 64)) 6 0).getD 0 }

theorem reduction_eq_run (f : Half → Half → Half) (leaf : Half → Half) (d b : VReg) (l : BitVec 4) (s : State) :
    reduction f leaf d b l s = (rowReduction d b l f leaf).run s := by
  have hrow (v : VUnit) (i : Nat) (hi : v.inside i = true) :
      ((List.range v.rows).map (fun r => reduceRow f ((List.range 64).map (reducedLane b l leaf v r)))).getD (i / 64) 0 =
        (laneTree f (reducedLane b l leaf v (i / 64)) 6 0).getD 0 := by
    have hr : i / 64 < v.rows := by
      simp only [VUnit.inside, Bool.and_eq_true, decide_eq_true_eq] at hi
      exact hi.1
    simp [List.getD_eq_getElem?_getD, hr, reduceRow_eq_laneTree]
  have hbody (v : VUnit) (u t c : Nat) (s : State) := writeRows_congr (hrow v) d 10 (v.usesB b.toNat l) u t c s
  unfold VMember.run rowReduction
  simp only [← hbody]
  rfl

theorem quiet_eq_canonical : Num.quiet = canonical := by
  funext a
  simp only [Num.quiet, canonical, Num.unordered, Bool.or_self]
  rfl

/-- Each row reduction of the table is the one that its description names. -/
theorem exec_of_reduceMember {i : Instr} {d b : VReg} {l : BitVec 4} {f : Half → Half → Half} {leaf : Half → Half}
    (h : reduceMember i = some (d, b, l, f, leaf)) (s : State) : exec i s = (rowReduction d b l f leaf).run s := by
  cases i with
  | vrsum | vrmax | vrmin =>
    cases h
    rw [← quiet_eq_canonical]
    exact reduction_eq_run _ _ _ _ _ s
  | vramax =>
    cases h
    exact reduction_eq_run _ _ _ _ _ s
  | _ => nomatch h

/-- Settles O25: every member is a described instruction (`exec_of_elementMember`, `exec_of_reduceMember`), and a
described instruction writes what its description says or traps. -/
theorem vectorElementsExecute : Obligations.VectorElementsExecute := by
  unfold Obligations.VectorElementsExecute
  refine ⟨fun i e he s u x t c n v h hc ha => ?_, fun i d b l f leaf hr s u x t c n v h ha _ hp => ?_⟩
  · rw [exec_of_elementMember he]
    exact ⟨VMember.run_clean h hc ha, fun cause val => VMember.run_poisoned h hc ha⟩
  · rw [exec_of_reduceMember hr]
    exact VMember.run_clean (e := rowReduction d b l f leaf) h ⟨by simp [rowReduction], by simp [rowReduction]⟩ ha hp

end Sys2Proof.Machine
end

section
/-! SUPPORT. Instructions that write one register from the strand alone (R95, R97 to R99, R101, R102, R105 to R107,
R126): each is a `compute`, and a `compute` whose registers are in retires with the value in its destination. -/

namespace Sys2Proof.Machine
open Sys2Proof

/-! ## Writing a register and retiring -/

/-- Writing a register leaves the pc. -/
@[simp] theorem Strand.setReg_pc (x : Strand) (d : Reg) (v : Word) : (x.setReg d v).ctx.pc = x.ctx.pc := by
  unfold Strand.setReg
  split <;> rfl

/-- An instruction that changes only its strand, and not the pc, retires at the next instruction. -/
theorem retiredAs_of_strand_next {s : State} {u t c n : Nat} {x : Strand} {f : Strand → Strand}
    (hi : s.Issuing u x t c n) (hpc : (f x).ctx.pc = x.ctx.pc) :
    s.RetiredAs (finish u t c n false (.ok ((s.onStrand u f).retire u))) u t c n (f x) (x.ctx.pc + 4) := by
  have hx : (s.onStrand u f).strand u = some (f x) := by simp [hi.strand]
  have hretire : (s.onStrand u f).retire u = (s.onStrand u f).retireTo u (x.ctx.pc + 4) := by
    simp only [State.retire, hx, hpc]
  rw [hretire]
  exact retiredAs_of_strand hi f _

/-- With its registers in, a `compute` writes its value to its destination and retires. -/
theorem compute_retiredAs {s : State} {u t c n : Nat} {x : Strand} {rd : List Reg} {d : Reg} (f : Strand → Word)
    (hi : s.Issuing u x t c n) (hc : x.Clear rd [d]) :
    ∃ s', compute rd d f s = .next s' ∧ s.RetiredAs s' u t c n (x.setReg d (f x)) (x.ctx.pc + 4) :=
  ⟨_, issue_clear hi hc, retiredAs_of_strand_next hi (Strand.setReg_pc x d (f x))⟩

/-! ## The members -/

/-- Each integer member of the table is the `compute` that its description names (R97 to R99). -/
theorem exec_of_integerMember {i : Instr} {d : Reg} {rd : List Reg} {f : Strand → Word}
    (h : integerMember i = some (d, rd, f)) (s : State) : exec i s = compute rd d f s := by
  cases i with
  | add | sub | mul | mulh | mulhs | div | divs | rem | rems | and | or | xor | andn | shl | shr | sra | rol
  | min | mins | max | maxs | addw | subw | mulw | adds | subs =>
    cases h
    rfl
  | clz | ctz | popc | sxb | sxh | sxw | zxw | bswp =>
    cases h
    rfl
  | addi | andi | ori | xori | muli | shli | shri | srai | roli =>
    cases h
    rfl
  | _ => nomatch h

/-- Each member that reads the strand's own state or builds a constant is the `compute` that its description names
(R95, R101, R102, R126). -/
theorem exec_of_movingMember {s : State} {i : Instr} {d : Reg} {rd : List Reg} {f : Strand → Word}
    (h : movingMember s.now i = some (d, rd, f)) : exec i s = compute rd d f s := by
  cases i with
  | rdcyc | rdout | pseq | pget | movz | movk =>
    cases h
    rfl
  | _ => nomatch h

/-- Each f32 member of the table is the `compute` that its description names (R105 to R107). -/
theorem exec_of_floatMember {i : Instr} {d : Reg} {rd : List Reg} {f : Strand → Word}
    (h : floatMember i = some (d, rd, f)) (s : State) : exec i s = compute rd d f s := by
  cases i with
  | fadd | fsub | fmul | fmax | fmin | fdiv | fma | bfdot4 | e4dot8 =>
    cases h
    rfl
  | fabs | fneg | fsqrt | frsqrt | frcp | fexp2 | flog2 =>
    cases h
    rfl
  | itof | ftoiRne | ftoiRz | ftoiDn | bfpack | bfunpk =>
    cases h
    rfl
  | _ => nomatch h

/-- Settles O1: every member is a `compute` (`exec_of_integerMember`, `exec_of_movingMember`, `exec_of_floatMember`), and
a `compute` whose registers are in writes its destination and retires. -/
theorem registerMembersExecute : Obligations.RegisterMembersExecute := by
  unfold Obligations.RegisterMembersExecute
  intro s i d rd f hm u x t c n hi hc
  have hexec : exec i s = compute rd d f s := by
    rcases hm with h | h | h
    · exact exec_of_integerMember h s
    · exact exec_of_movingMember h
    · exact exec_of_floatMember h s
  rw [hexec]
  exact compute_retiredAs f hi hc

end Sys2Proof.Machine
end

section
/-! SUPPORT. Instructions that change one predicate or the strand's context alone (R92, R100, R101, R130 to R132): each is
a `predicate` or a `contextual`, and those retire with the strand as they make it. -/

namespace Sys2Proof.Machine
open Sys2Proof

/-! ## Writing a predicate or the context and retiring -/

/-- Writing a predicate leaves the pc. -/
@[simp] theorem Strand.setPred_pc (x : Strand) (p : Pred) (b : Bool) : (x.setPred p b).ctx.pc = x.ctx.pc := by
  unfold Strand.setPred Ctx.setPred
  split <;> rfl

/-- With its registers in, a `predicate` that leaves the pc makes of its strand what it says and retires. -/
theorem predicate_retiredAs {s : State} {u t c n : Nat} {x : Strand} {rd : List Reg} {f : Strand → Strand}
    (hi : s.Issuing u x t c n) (hc : x.Clear rd []) (hpc : (f x).ctx.pc = x.ctx.pc) :
    ∃ s', predicate rd f s = .next s' ∧ s.RetiredAs s' u t c n (f x) (x.ctx.pc + 4) :=
  ⟨_, issue_clear hi hc, retiredAs_of_strand_next hi hpc⟩

/-- With its registers in, a `contextual` that leaves the pc gives its strand the context that it says and retires. -/
theorem contextual_retiredAs {s : State} {u t c n : Nat} {x : Strand} {rd : List Reg} {f : Strand → Ctx}
    (hi : s.Issuing u x t c n) (hc : x.Clear rd []) (hpc : (f x).pc = x.ctx.pc) :
    ∃ s', contextual rd f s = .next s' ∧ s.RetiredAs s' u t c n { x with ctx := f x } (x.ctx.pc + 4) :=
  ⟨_, issue_clear hi hc, retiredAs_of_strand_next (f := fun y => { y with ctx := f x }) hi hpc⟩

/-- `nop` changes nothing of its strand and retires (R92). -/
theorem execNop_retiredAs {s : State} {u t c n : Nat} {x : Strand} (hi : s.Issuing u x t c n) (hc : x.Clear [] []) :
    ∃ s', execNop s = .next s' ∧ s.RetiredAs s' u t c n x (x.ctx.pc + 4) :=
  ⟨_, issue_clear hi hc, retiredAs_retire hi⟩

/-! ## The conditions (R100) -/

theorem condHolds_ne (a b : Word) : condHolds .ne a b = decide (a ≠ b) := by
  simp only [condHolds, bne, ne_eq, decide_not]
  rfl

theorem condHolds_tst (a b : Word) : condHolds .tst a b = decide (a &&& b ≠ 0) := by
  simp only [condHolds, bne, ne_eq, decide_not]
  rfl

/-- The immediate operand of a compare is its seven bits as an integer. -/
theorem toInt_cmpImm (i : BitVec 7) : (cmpImm i).toInt = i.toInt := BitVec.toInt_signExtend_of_le (by decide)

/-- A signed comparison with an immediate compares with its seven bits as an integer. -/
theorem condHolds_lt_cmpImm (a : Word) (i : BitVec 7) : condHolds .lt a (cmpImm i) = decide (a.toInt < i.toInt) := by
  rw [← toInt_cmpImm]
  rfl

theorem condHolds_ge_cmpImm (a : Word) (i : BitVec 7) : condHolds .ge a (cmpImm i) = decide (i.toInt ≤ a.toInt) := by
  rw [← toInt_cmpImm]
  rfl

theorem condHolds_gt_cmpImm (a : Word) (i : BitVec 7) : condHolds .gt a (cmpImm i) = decide (i.toInt < a.toInt) := by
  rw [← toInt_cmpImm]
  rfl

theorem condHolds_le_cmpImm (a : Word) (i : BitVec 7) : condHolds .le a (cmpImm i) = decide (a.toInt ≤ i.toInt) := by
  rw [← toInt_cmpImm]
  rfl

/-! ## The members -/

/-- A member that writes the condition `g` to a predicate is the `predicate` of any `f` that says the same. -/
theorem predicate_setPred_congr {f g : Strand → Bool} (h : ∀ x, g x = f x) (rd : List Reg) (p : Pred) (s : State) :
    predicate rd (fun x => x.setPred p (g x)) s = predicate rd (fun x => x.setPred p (f x)) s := by
  simp only [h]

/-- Each compare and each predicate member of the table writes the condition of its description (R100, R101). -/
theorem exec_of_compareMember {i : Instr} {p : Pred} {rd : List Reg} {f : Strand → Bool}
    (h : compareMember i = some (p, rd, f)) (s : State) : exec i s = predicate rd (fun x => x.setPred p (f x)) s := by
  cases i with
  | cmpEq | cmpLt | cmpGe | cmpLtu | cmpGeu | cmpGt | cmpLe | cmpGtu | cmpLeu | cmpNtst =>
    cases h
    rfl
  | cmpFeq | cmpFlt | cmpFle | cmpFunord =>
    cases h
    rfl
  | cmpEqImm | cmpLtuImm | cmpGeuImm | cmpGtuImm | cmpLeuImm | cmpNtstImm =>
    cases h
    rfl
  | cmpNe | cmpNeImm =>
    cases h
    exact predicate_setPred_congr (fun x => condHolds_ne _ _) _ _ s
  | cmpTst | cmpTstImm =>
    cases h
    exact predicate_setPred_congr (fun x => condHolds_tst _ _) _ _ s
  | cmpLtImm =>
    cases h
    exact predicate_setPred_congr (fun x => condHolds_lt_cmpImm _ _) _ _ s
  | cmpGeImm =>
    cases h
    exact predicate_setPred_congr (fun x => condHolds_ge_cmpImm _ _) _ _ s
  | cmpGtImm =>
    cases h
    exact predicate_setPred_congr (fun x => condHolds_gt_cmpImm _ _) _ _ s
  | cmpLeImm =>
    cases h
    exact predicate_setPred_congr (fun x => condHolds_le_cmpImm _ _) _ _ s
  | pand | por | pxor | pandn | pnot =>
    cases h
    rfl
  | _ => nomatch h

/-- Settles O2: a compare or predicate member is a `predicate` that writes its condition (`exec_of_compareMember`); `pput`
is a `predicate` too, `pin`, `unpin` and `prio` are `contextual`, and `nop` retires alone. -/
theorem predicateAndContextMembersExecute : Obligations.PredicateAndContextMembersExecute := by
  unfold Obligations.PredicateAndContextMembersExecute
  refine ⟨fun i p rd f hm s u x t c n hi hc => ?_, fun i rd f hm s u x t c n hi hc => ?_⟩
  · rw [exec_of_compareMember hm]
    exact predicate_retiredAs hi hc (x.setPred_pc p (f x))
  · cases i with
    | nop =>
      cases hm
      exact execNop_retiredAs hi hc
    | pput a =>
      cases hm
      exact predicate_retiredAs hi hc rfl
    | pin | unpin | prio =>
      cases hm
      exact contextual_retiredAs hi hc rfl
    | _ => nomatch hm

end Sys2Proof.Machine
end

section
/-! SUPPORT. `setlin` (R86, R132): the bits that it may not change are those from the lineage's lowest set bit upward. -/

namespace Sys2Proof.Machine
open Sys2Proof

/-! ## The mask of a lineage -/

/-- Only the lowest set bit of a number is set in `l &&& -l`. -/
theorem getLsbD_and_neg {w : Nat} (l : BitVec w) (i : Nat) :
    (l &&& -l).getLsbD i = true ↔ l.getLsbD i = true ∧ ∀ j < i, l.getLsbD j = false := by
  rw [BitVec.getLsbD_and, BitVec.getLsbD_neg]
  by_cases hi : l.getLsbD i = true
  · simp only [hi, BitVec.lt_of_getLsbD hi, decide_true, Bool.true_and, Bool.true_xor, Bool.not_eq_true', true_and,
      decide_eq_false_iff_not, not_exists, not_and, Bool.not_eq_true]
  · simp only [hi, Bool.false_and, Bool.false_eq_true, false_and]

/-- At or below a set bit stands the lowest. -/
theorem exists_lowest_bit {w j : Nat} {l : BitVec w} (h : l.getLsbD j = true) :
    ∃ k, k ≤ j ∧ (l &&& -l).getLsbD k = true := by
  have hex : ∃ k, l.getLsbD k = true := ⟨j, h⟩
  refine ⟨Nat.find hex, Nat.find_min' hex h, (getLsbD_and_neg l _).mpr ⟨Nat.find_spec hex, fun k hk => ?_⟩⟩
  exact Bool.eq_false_iff.mpr (Nat.find_min hex hk)

/-- R132's mask is the negation of the lowest set bit, for lineage 0 too. -/
theorem lineageMask_eq_neg (l : BitVec 16) : lineageMask l = -(l &&& -l) := by
  unfold lineageMask
  split
  · rename_i h
    simp [h]
  · exact BitVec.not_sub_one_eq_not_add_one.trans (BitVec.neg_eq_not_add _).symm

/-- The mask holds the bits from the lineage's lowest set bit upward (R132). -/
theorem getLsbD_lineageMask (l : BitVec 16) {i : Nat} (hi : i < 16) :
    (lineageMask l).getLsbD i = true ↔ ∃ j, j ≤ i ∧ l.getLsbD j = true := by
  rw [lineageMask_eq_neg, BitVec.getLsbD_neg]
  simp only [hi, decide_true, Bool.true_and]
  by_cases hlow : (l &&& -l).getLsbD i = true
  · obtain ⟨hl, hbelow⟩ := (getLsbD_and_neg l i).mp hlow
    have hnone : ¬ ∃ j < i, (l &&& -l).getLsbD j = true := by
      rintro ⟨j, hj, h⟩
      simpa [hbelow j hj] using ((getLsbD_and_neg l j).mp h).1
    simp only [hlow, hnone, decide_false, Bool.xor_false, true_iff]
    exact ⟨i, le_rfl, hl⟩
  · simp only [hlow, Bool.false_xor, decide_eq_true_eq]
    constructor
    · rintro ⟨j, hj, h⟩
      exact ⟨j, hj.le, ((getLsbD_and_neg l j).mp h).1⟩
    · rintro ⟨j, hj, hl⟩
      obtain ⟨k, hk, hlowest⟩ := exists_lowest_bit hl
      have hki : k ≠ i := fun h => hlow (h ▸ hlowest)
      exact ⟨k, by omega, hlowest⟩

/-- A new lineage passes the check of `setlin` when it has every bit that the old one fixes (R132). -/
theorem xor_and_lineageMask_eq_zero (n l : BitVec 16) :
    (n ^^^ l) &&& lineageMask l = 0 ↔ ∀ i, i < 16 → (∃ j, j ≤ i ∧ l.getLsbD j = true) →
      n.getLsbD i = l.getLsbD i := by
  have hbits : (n ^^^ l) &&& lineageMask l = 0 ↔ ∀ i, i < 16 → ((n ^^^ l) &&& lineageMask l).getLsbD i = false :=
    ⟨fun h i _ => h ▸ BitVec.getLsbD_zero, fun h => BitVec.eq_of_getLsbD_eq (by simpa using h)⟩
  rw [hbits]
  refine forall₂_congr fun i hi => ?_
  rw [← getLsbD_lineageMask l hi, BitVec.getLsbD_and, BitVec.getLsbD_xor]
  cases (lineageMask l).getLsbD i <;> simp

/-! ## The instruction -/

/-- The new lineage keeps what the old one fixes: it is the strand's from then on (R132). -/
theorem execSetlin_retiredAs {s : State} {u t c n : Nat} {x : Strand} {a : Reg} (hi : s.Issuing u x t c n)
    (hc : x.Clear [a] []) (h : ((x.reg a).setWidth 16 ^^^ x.ctx.lin) &&& lineageMask x.ctx.lin = 0) :
    ∃ s', execSetlin a s = .next s' ∧
      s.RetiredAs s' u t c n { x with ctx := { x.ctx with lin := (x.reg a).setWidth 16 } } (x.ctx.pc + 4) := by
  refine ⟨_, issue_clear hi hc, ?_⟩
  simp only [h, ne_eq, not_true_eq_false, if_false]
  exact retiredAs_of_strand_next (f := fun y => { y with ctx := { y.ctx with lin := (x.reg a).setWidth 16 } }) hi rfl

/-- The new lineage changes what the old one fixes: cause 0x0D with it (R132). -/
theorem execSetlin_trappedAs {s : State} {u t c n : Nat} {x : Strand} {a : Reg} (hi : s.Issuing u x t c n)
    (hc : x.Clear [a] []) (hv : x.ctx.tvec ≠ 0)
    (h : ((x.reg a).setWidth 16 ^^^ x.ctx.lin) &&& lineageMask x.ctx.lin ≠ 0) :
    ∃ s', execSetlin a s = .next s' ∧
      s.TrappedAs s' u t c n x 0x0D (((x.reg a).setWidth 16 : BitVec 16).setWidth 64) := by
  refine ⟨_, issue_clear hi hc, ?_⟩
  simp only [h, ne_eq, not_false_eq_true, if_true]
  exact trappedAs_of_trapAct hi hv (.inr rfl) (by decide)

end Sys2Proof.Machine
end

section
/-! SUPPORT. `join` (R69, R137): posting the decrement changes the count word and the strand, and may give birth to a
continuation under the next number; the end of the strand frees its slot. -/

namespace Sys2Proof.Machine
open Sys2Proof

/-! ## What leaves memory, strands and numbers alone -/

/-- `s'` has the bytes, the strands and the next number of `s`. -/
structure State.SameStore (s s' : State) : Prop where
  memory : s'.mem = s.mem
  strands : s'.strands = s.strands
  uids : s'.uids = s.uids

theorem State.SameStore.refl (s : State) : s.SameStore s := ⟨rfl, rfl, rfl⟩

theorem State.SameStore.trans {s s' s'' : State} (h : s.SameStore s') (h' : s'.SameStore s'') : s.SameStore s'' :=
  ⟨h'.memory.trans h.memory, h'.strands.trans h.strands, h'.uids.trans h.uids⟩

theorem State.keepBehind_sameStore (s : State) (k : Nat) : s.SameStore (s.keepBehind k) := by
  unfold State.keepBehind
  dsimp only
  split <;> exact ⟨rfl, rfl, rfl⟩

/-- Passing through the tile cache changes the cache alone (R60). -/
theorem State.touch_sameStore (s : State) (k : Nat) (w : Bool) : s.SameStore (s.touch k w).2 := by
  have h : s.SameStore (if w then s.keepBehind k else s) := by
    split
    · exact s.keepBehind_sameStore k
    · exact .refl s
  unfold State.touch
  dsimp only
  split
  · exact .refl s
  · generalize (if w then s.keepBehind k else s) = s0 at h
    split
    · split <;> exact h.trans ⟨rfl, rfl, rfl⟩
    · split <;> exact h.trans ⟨rfl, rfl, rfl⟩

theorem State.performRead_sameStore (s : State) (k n : Nat) : s.SameStore (s.performRead k n).2.2 :=
  s.touch_sameStore k false

theorem State.wakeWhere_sameStore (s : State) (t : Nat) (p : Watcher → Bool) : s.SameStore (s.wakeWhere t p) :=
  List.foldlRecOn (motive := s.SameStore) _ _ (.refl s) fun _ h _ _ => h.trans ⟨rfl, rfl, rfl⟩

theorem State.wakeChanged_sameStore (a s : State) (t : Nat) : s.SameStore (State.wakeChanged a s t) := by
  unfold State.wakeChanged
  split
  · exact .refl s
  · exact s.wakeWhere_sameStore t _

theorem State.deliverAt_sameStore (s : State) (due : Nat) (p : Packet) : s.SameStore (s.deliverAt due p) := by
  unfold State.deliverAt
  dsimp only
  split
  · exact ⟨rfl, rfl, rfl⟩
  · split <;> exact ⟨rfl, rfl, rfl⟩

theorem State.onPair_sameStore (s : State) (src dst : Nat) (f : Pair → Pair) : s.SameStore (s.onPair src dst f) :=
  ⟨rfl, rfl, rfl⟩

/-- A packet on its way is an event or waits in its pair's queue (R244, R245). -/
theorem State.inject_sameStore (s : State) (src dst : Nat) (p : Packet) : s.SameStore (s.inject src dst p) := by
  unfold State.inject
  dsimp only
  split
  · exact .refl s
  · split
    · split
      · exact ⟨rfl, rfl, rfl⟩
      · exact (s.onPair_sameStore src dst _).trans (State.deliverAt_sameStore _ _ p)
    · split
      · exact ⟨rfl, rfl, rfl⟩
      · exact List.foldlRecOn (motive := s.SameStore) _ _ ⟨rfl, rfl, rfl⟩ fun _ h _ _ => h.trans ⟨rfl, rfl, rfl⟩

theorem State.send_sameStore (s : State) (src dst : Nat) (p : Packet) : s.SameStore (s.send src dst p) := by
  unfold State.send
  split
  · exact ⟨rfl, rfl, rfl⟩
  · exact s.inject_sameStore src dst p

/-! ## What leaves every strand but one alone -/

theorem SMap.rising_adjust {α : Type} {m : SMap α} (i : Nat) (f : α → α) (h : SMap.rising m = true) :
    SMap.rising (SMap.adjust m i f) = true := by
  have hkeys : (SMap.adjust m i f).map (·.1) = m.map (·.1) := by
    clear h
    induction m with
    | nil => rfl
    | cons e m ih =>
      unfold SMap.adjust
      split_ifs <;> simp [*]
  rw [SMap.rising_iff, ← List.pairwise_map (f := fun e : Nat × α => e.1) (R := (· < ·))] at h ⊢
  rwa [hkeys]

/-- `s'` has the bytes of `s`, and its strands but for number `w`; they are listed under rising numbers. -/
structure State.SameBut (w : Nat) (s s' : State) : Prop where
  memory : s'.mem = s.mem
  rising : SMap.rising s'.strands = true
  strands : ∀ v, v ≠ w → s'.strand v = s.strand v

theorem State.SameBut.trans {w : Nat} {s s' s'' : State} (h : s.SameBut w s') (h' : s'.SameBut w s'') :
    s.SameBut w s'' :=
  ⟨h'.memory.trans h.memory, h'.rising, fun v hv => (h'.strands v hv).trans (h.strands v hv)⟩

theorem State.SameStore.sameBut {s s' : State} (h : s.SameStore s') (hr : SMap.rising s.strands = true) (w : Nat) :
    s.SameBut w s' :=
  ⟨h.memory, h.strands ▸ hr, fun v _ => by simp only [State.strand, h.strands]⟩

theorem State.onStrand_sameBut {s : State} (hr : SMap.rising s.strands = true) (w : Nat) (f : Strand → Strand) :
    s.SameBut w (s.onStrand w f) :=
  ⟨rfl, SMap.rising_adjust w f hr, fun _ hv => s.strand_onStrand_ne f hv⟩

/-- A word of a join record is in: only the continuation that waits for it changes (R137). -/
theorem State.joinWord_sameBut {s : State} (hr : SMap.rising s.strands = true) (w idx : Nat) (ans : Answer) :
    s.SameBut w (s.joinWord w idx ans) := by
  unfold State.joinWord
  split
  · exact (SameStore.refl s).sameBut hr w
  · rename_i x _
    split
    · exact ⟨(s.send_sameStore _ _ _).memory, SMap.rising_erase w hr, fun v hv => SMap.find?_erase_ne hr hv⟩
    · rename_i bs
      have hword := State.onStrand_sameBut hr w
        (fun y => { y with prog := { y.prog with words := SMap.put x.prog.words idx (wordOf bs) } })
      dsimp only
      split
      · exact hword.trans ⟨rfl, hword.rising, fun _ _ => rfl⟩
      · exact hword

/-- The read of one word of a join record for the continuation `w`: here, or by a request to its owner (R137). -/
def State.joinRead (s : State) (t w : Nat) (p : Post) (idx : Nat) (tgt : Target) : State :=
  match s.locate t tgt with
  | none => s.joinWord w idx (.fail 3)
  | some (owner, k) =>
    if s.real owner = t then (s.performRead k 8).2.2.joinWord w idx (s.performRead k 8).1
    else s.send t owner (.req ⟨t, owner, tgt, 0, .load 8, .join w idx, p.lin, p.sup, false⟩)

theorem State.joinRead_sameBut {s : State} (hr : SMap.rising s.strands = true) (t w : Nat) (p : Post) (idx : Nat)
    (tgt : Target) : s.SameBut w (s.joinRead t w p idx tgt) := by
  unfold State.joinRead
  split
  · exact State.joinWord_sameBut hr w idx _
  · rename_i owner k _
    split
    · have hread := (s.performRead_sameStore k 8).sameBut hr w
      exact hread.trans (State.joinWord_sameBut hread.rising w idx _)
    · exact (s.send_sameStore t _ _).sameBut hr w

/-- The continuation at tile `t` before its words are in (R68, R137). -/
def heirStrand (p : Post) (t : Nat) (h : Heir) : Strand :=
  Strand.fresh ((heirCtx p h).birth t 0 0 (Vector.replicate 24 0) 1) t .continuation

/-- A continuation is a strand under the next number, for which both words are read. -/
theorem State.continuation_eq (s : State) (t : Nat) (p : Post) (c a : Target) (h : Heir) :
    s.continuation t p c a h =
      ((s.addStrand (heirStrand p t h)).2.joinRead t s.uids p 0 c).joinRead t s.uids p 1 a := rfl

theorem State.continuation_sameBut {s : State} (hr : SMap.rising s.strands = true) (t : Nat) (p : Post) (c a : Target)
    (h : Heir) : s.SameBut s.uids (s.continuation t p c a h) := by
  rw [State.continuation_eq]
  have hadd : s.SameBut s.uids (s.addStrand (heirStrand p t h)).2 :=
    ⟨rfl, SMap.rising_put _ _ hr, fun v hv => SMap.find?_put_ne _ _ hv⟩
  have hcpc := hadd.trans (State.joinRead_sameBut hadd.rising t s.uids p 0 c)
  exact hcpc.trans (State.joinRead_sameBut hcpc.rising t s.uids p 1 a)

/-! ## The decrement at the owner -/

theorem length_leBytes (n v : Nat) : (leBytes n v).length = n := by
  induction n generalizing v with
  | zero => rfl
  | succ n ih => simp [leBytes, ih]

theorem getElem?_leBytes {n i : Nat} (v : Nat) (h : i < n) : (leBytes n v)[i]? = some (BitVec.ofNat 8 (v / 256 ^ i)) := by
  induction n generalizing v i with
  | zero => omega
  | succ n ih =>
    cases i with
    | zero => simp [leBytes]
    | succ i => rw [leBytes, List.getElem?_cons_succ, ih _ (by omega), Nat.div_div_eq_div_mul, Nat.pow_succ']

/-- The bytes of a word, the lowest first, at their offsets (R1). -/
theorem mem_placed_bytesOf {n i : Nat} (v : Word) (h : i < n) : (i, v.extractLsb' (8 * i) 8) ∈ placed (bytesOf n v) := by
  have hbyte : (bytesOf n v)[i]? = some (v.extractLsb' (8 * i) 8) := by
    rw [bytesOf, getElem?_leBytes _ h, BitVec.extractLsb', Nat.shiftRight_eq_div_pow, Nat.pow_mul]
  refine List.mem_of_getElem? (i := i) ?_
  rw [placed, List.getElem?_zip_eq_some]
  refine ⟨?_, hbyte⟩
  rw [List.getElem?_range]
  simpa [bytesOf, length_leBytes] using h

theorem map_fst_placed (bs : List Byte) : (placed bs).map (·.1) = List.range bs.length :=
  List.map_fst_zip (by simp)

/-- After a word of `n` bytes is written it is read back. -/
theorem State.writeAt_holds {s : State} (hm : s.memoryOk) (k n : Nat) (v : Word) :
    (s.writeAt k (placed (bytesOf n v))).Holds k n v := by
  intro i hi
  refine State.byte_writeAt_mem k _ i _ hm ?_ (mem_placed_bytesOf v hi)
  rw [map_fst_placed]
  exact List.nodup_range

/-- Writing a word of `n` bytes leaves every byte outside alone. -/
theorem State.byte_writeAt_outside {s : State} (hm : s.memoryOk) {k n j : Nat} (v : Word) (hj : ¬ within k n j) :
    (s.writeAt k (placed (bytesOf n v))).byte j = s.byte j := by
  refine State.byte_writeAt_ne k _ j hm fun b hb he => hj ?_
  have hlt : b.1 ∈ List.range (bytesOf n v).length := map_fst_placed _ ▸ List.mem_map_of_mem hb
  rw [List.mem_range, bytesOf, length_leBytes] at hlt
  unfold within
  omega

/-- Writing bytes leaves the strands and the next number alone. -/
theorem State.writeAt_rest (s : State) (k : Nat) (bs : List (Nat × Byte)) :
    (s.writeAt k bs).strands = s.strands ∧ (s.writeAt k bs).uids = s.uids := by
  induction bs generalizing s with
  | nil => exact ⟨rfl, rfl⟩
  | cons b bs ih => exact ih (s.setByte (k + b.1) b.2)

/-- The count of a join record falls by one, 0 to 2^64 − 1 (R137). -/
theorem rmwValue_dec (old b e : Word) : rmwValue .dec 8 old b e = some (old - 1) := by
  have hcut (x : Word) : BitVec.ofNat 64 (x.toNat % 2 ^ (8 * 8)) = x := by
    rw [Nat.mod_eq_of_lt x.isLt, BitVec.ofNat_toNat, BitVec.setWidth_eq]
  simp only [rmwValue, hcut]

/-- `s'` is `s` after the word at `k` has fallen by one: the other bytes are unchanged. -/
structure State.Decremented (s s' : State) (k : Nat) : Prop where
  count : s'.Holds k 8 (s.wordAt k - 1)
  others : ∀ j, ¬ within k 8 j → s'.byte j = s.byte j

/-- What reads as the result of a decrement is one. -/
theorem State.Decremented.of_mem {s s' s'' : State} {k : Nat} (h : s.Decremented s' k) (hm : s''.mem = s'.mem) :
    s.Decremented s'' k := by
  have hb (j : Nat) : s''.byte j = s'.byte j := by simp only [State.byte, hm]
  exact ⟨fun i hi => (hb _).trans (h.count i hi), fun j hj => (hb j).trans (h.others j hj)⟩

/-- A decrement of a word without poison, at its owner (R118, R137). -/
theorem State.performRmw_dec {s : State} (hm : s.memoryOk) {k : Nat} (hp : s.anyPoison k 8 = false) :
    ∃ a s', s.performRmw k 8 .dec 0 0 = (.data (s.readBytes k 8), a, s') ∧ s'.strands = s.strands ∧ s'.uids = s.uids ∧
      s.Decremented s' k := by
  let s1 := (s.touch k true).2
  let s2 := s1.writeAt k (placed (bytesOf 8 (s.wordAt k - 1)))
  have htouch : s.SameStore s1 := s.touch_sameStore k true
  have hm1 : s1.memoryOk := by rw [State.memoryOk, htouch.memory]; exact hm
  have hwake := State.wakeChanged_sameStore s s2 (s.real (cellTile k))
  obtain ⟨hstrands, huids⟩ := s1.writeAt_rest k (placed (bytesOf 8 (s.wordAt k - 1)))
  have hdec : s.Decremented s2 k := ⟨State.writeAt_holds hm1 k 8 _, fun j hj => by
    rw [State.byte_writeAt_outside hm1 _ hj]
    simp only [State.byte, htouch.memory]⟩
  refine ⟨(s.touch k true).1, State.wakeChanged s s2 (s.real (cellTile k)), ?_, ?_, ?_, hdec.of_mem hwake.memory⟩
  · simp only [State.performRmw, hp, rmwValue_dec]
    rfl
  · rw [hwake.strands, hstrands, htouch.strands]
  · rw [hwake.uids, huids, htouch.uids]

/-- The posted decrement of a `join` at its owner: it is performed, and of the strands only the continuation may be new
(R137). -/
theorem State.performPost_join {s : State} (hm : s.memoryOk) (hr : SMap.rising s.strands = true) {k : Nat}
    (hp : s.anyPoison k 8 = false) (t : Nat) {p : Post} {c a : Target} {h : Heir} (hop : p.op = .join c a h) :
    ∃ d s', s.performPost t k p = (true, d, s') ∧ s.Decremented s' k ∧ ∀ v, v ≠ s.uids → s'.strand v = s.strand v := by
  obtain ⟨d, s1, heq, hstrands, huids, hdec⟩ := State.performRmw_dec hm hp
  have hr1 : SMap.rising s1.strands = true := hstrands ▸ hr
  have hkept (v : Nat) : s1.strand v = s.strand v := by simp only [State.strand, hstrands]
  simp only [State.performPost, hop, heq]
  split
  · have hborn := State.continuation_sameBut hr1 t p c a h
    exact ⟨d, _, rfl, hdec.of_mem hborn.memory, fun v hv => (hborn.strands v (huids ▸ hv)).trans (hkept v)⟩
  · exact ⟨d, s1, rfl, hdec, fun v _ => hkept v⟩

/-! ## Posting the decrement -/

/-- `s'` is `s` after strand `u` has posted the decrement of the count at `k`, with number `num`, from the count's own tile,
and is now `y` (R119, R137): of the other strands only the continuation may be new. -/
structure State.JoinPosted (s s' : State) (u : Nat) (y : Strand) (k num : Nat) : Prop where
  strand : s'.strand u = some y
  others : ∀ v, v ≠ u → v ≠ s.uids → s'.strand v = s.strand v
  count : s.Decremented s' k
  due : s.Due s' 4 (.acknowledgementArrival u num)

/-- What the strand itself becomes afterwards changes nothing else. -/
theorem State.JoinPosted.onStrand {s s' : State} {u k num : Nat} {y : Strand} (h : s.JoinPosted s' u y k num)
    (f : Strand → Strand) : s.JoinPosted (s'.onStrand u f) u (f y) k num :=
  ⟨by simp [h.strand], fun v hu hv => (s'.strand_onStrand_ne f hu).trans (h.others v hu hv), h.count.of_mem rfl,
    h.due⟩

/-- Taking the core's issue changes no strand but the one that issues. -/
theorem State.JoinPosted.took {s s' : State} {u k num : Nat} {y : Strand} (h : s.JoinPosted s' u y k num) (t c n : Nat) :
    s.JoinPosted (s'.took u t c n) u { y with nextAt := s'.now + 4 } k num := by
  have hcore : s.JoinPosted (s'.onCore t c (fun k => { k with rot := n, issued := s'.now + 1 })) u y k num :=
    ⟨h.strand, h.others, h.count.of_mem rfl, h.due⟩
  exact hcore.onStrand _

/-- Strand `u`, which is `x`, has one more operation out, toward a target of `owner` (R119). -/
def State.posting (s : State) (u : Nat) (x : Strand) (g : Target) (owner : Nat) : State :=
  s.onStrand u (fun y =>
    { y with ctx := { y.ctx with pseq := y.ctx.pseq + 1 },
             posted := y.posted ++ [⟨x.ctx.pseq.toNat, targetClass g, owner⟩] })

/-- Which tile answers to a number depends on the retired tiles alone (R82). -/
theorem State.real_congr {s s' : State} (h : s'.retired = s.retired) (t : Nat) : s'.real t = s.real t := by
  have hfrom (n : Nat) : ∀ t, s'.realFrom n t = s.realFrom n t := by
    induction n with
    | zero => exact fun _ => rfl
    | succ n ih =>
      intro t
      simp only [State.realFrom, h, ih]
  rw [State.real, State.real, h, hfrom]

/-- An operation on the strand's own tile is performed at once and answered 4 cycles later (R119, R120). -/
theorem State.post_own {s : State} {x : Strand} {o : Nat} (ho : s.real o = x.tile) (u k : Nat) (g : Target) (va : Word)
    (op : PostOp) :
    let r := (s.posting u x g (s.real o)).performPost x.tile k
      ⟨x.tile, o, g, va, op, u, x.ctx.pseq.toNat, x.ctx.lin, x.ctx.sup, x.ctx.cls, false⟩
    s.post u x (.here g o k) va op = r.2.2.schedule (s.now + 4) 0
      (if r.1 then .acknowledgementArrival u x.ctx.pseq.toNat else .postedRefusalArrival u x.ctx.pseq.toNat va) := by
  unfold State.post
  dsimp only
  refine if_pos ((State.real_congr ?_ o).trans ho)
  rfl

/-- The decrement of a count on the strand's own tile is performed at once and acknowledged 4 cycles later (R119, R137). -/
theorem State.post_join_joinPosted {s : State} {u : Nat} {x : Strand} {o k : Nat} (hm : s.memoryOk)
    (hr : SMap.rising s.strands = true) (hx : s.strand u = some x) (hu : u ≠ s.uids) (ho : s.real o = x.tile)
    (hp : s.anyPoison k 8 = false) (g c a : Target) (j : Word) (h : Heir) :
    s.JoinPosted (s.post u x (.here g o k) j (.join c a h)) u (x.posting (targetClass g) x.tile) k x.ctx.pseq.toNat := by
  let s1 := s.posting u x g (s.real o)
  have hx1 : s1.strand u = some (x.posting (targetClass g) x.tile) := by
    simp only [s1, State.posting, State.strand_onStrand_self, hx, ho]
    rfl
  let p : Post := ⟨x.tile, o, g, j, .join c a h, u, x.ctx.pseq.toNat, x.ctx.lin, x.ctx.sup, x.ctx.cls, false⟩
  obtain ⟨d, s2, hpost, hdec, hkept⟩ :=
    State.performPost_join (s := s1) (p := p) hm (SMap.rising_adjust u _ hr) hp x.tile rfl
  rw [State.post_own ho, hpost]
  exact ⟨(hkept u hu).trans hx1, fun v hvu hv => (hkept v hv).trans (s.strand_onStrand_ne _ hvu),
    ⟨hdec.count, hdec.others⟩, ⟨_, s2.scheduled_mem_agenda _ _ _, rfl, rfl⟩⟩

/-! ## The first phase of `join` -/

/-- Only TLBs change when a module-memory address is translated (R54, R55). -/
theorem State.tlb_tiles {s s' : State} {t va : Nat} {p : Perm} {g : Target} (h : s.tlb t va p = .ok g s') :
    ∃ m, s' = { s with tiles := m } := by
  unfold State.tlb at h
  dsimp only at h
  split at h
  · cases h
  · split at h
    · cases h
    · split at h
      · cases h
      · split at h
        · cases h
        · cases h
          exact ⟨_, rfl⟩

/-- An address is translated with no change but of TLBs (R54, R55). -/
theorem State.translate_tiles {s s' : State} {u : Nat} {x : Strand} {a : Word} {p : Perm} {n : Named}
    (h : s.translate u x a p = .ok (n, s')) : ∃ m, s' = { s with tiles := m } := by
  unfold State.translate at h
  split at h
  · cases h
  · cases h
    exact ⟨_, rfl⟩
  · cases h
    exact ⟨_, rfl⟩
  · split at h
    · cases h
    · rename_i htlb
      split at h
      · cases h
      · cases h
        exact State.tlb_tiles htlb
    · split at h
      · split at h <;> cases h
      · split at h <;> cases h

/-- The strand waits in its slot for the acknowledgement of its decrement (R137). -/
def Strand.joining (y : Strand) : Strand := { y with prog := { Prog.none with phase := 1 }, run := .stalled }

/-- Once its three words are translated and everything of the strand has come back, a `join` posts its decrement. -/
theorem joinAt_eq_post {s s1 s2 s3 : State} {u : Nat} {x : Strand} {j : Word} {g0 g1 g2 : Target} {o0 o1 o2 k0 k1 k2 : Nat}
    (hph : x.prog.phase = 0) (hj : j.toNat % 8 = 0) (h0 : s.translate u x j permRW = .ok (.here g0 o0 k0, s1))
    (h1 : s1.translate u x (j + 8) permR = .ok (.here g1 o1 k1, s2))
    (h2 : s2.translate u x (j + 16) permR = .ok (.here g2 o2 k2, s3))
    (hsup : x.ctx.sup = false ∨ Config.hasSupervisor o0 = true) (hrel : s3.released u x = true) :
    joinAt j u x s = .ok ((s3.post u x (.here g0 o0 k0) j
      (.join g1 g2 ⟨x.ctx.tvec, x.ctx.plim, x.ctx.pmin, x.ctx.phold⟩)).onStrand u Strand.joining) := by
  have hhere : (x.ctx.sup && !(Config.hasSupervisor o0)) = false := by
    rcases hsup with h | h <;> simp [h]
  simp only [joinAt, hph, hj, h0, bind, Except.bind, Named.target, h1, h2, hhere, hrel]
  rfl

/-- As `issueWith_clear`, for an instruction with a check of its own that passes, at its start or in progress. -/
theorem issueAfter_clear {s : State} {u t c n : Nat} {x : Strand} {rd wr ps : List Reg}
    {check : Nat → Strand → State → Option (Nat × Word)} {body : Nat → Strand → State → Act} (hf : s.focus = u)
    (hx : s.strand u = some x) (hpl : x.place = .slot t c n) (hk : check u x s = none) (hc : x.Clear rd wr)
    (hp : x.Clear ps []) :
    issueAfter check rd wr ps body s = .next (finish u t c n (x.prog.phase != 0) (body u x s)) := by
  unfold issueAfter issueWith
  simp only [hf, hx, hpl, hk, hc.blocked, hp.poisonIn]
  rfl

/-! ## The end of the strand (R69, R70, R124) -/

/-- The end of a handler strand touches its fetch engine alone (R182). -/
theorem State.handlerEnds_rest (s : State) (x : Strand) : (s.handlerEnds x).mem = s.mem ∧
    (s.handlerEnds x).strands = s.strands ∧ (s.handlerEnds x).cores = s.cores := by
  unfold State.handlerEnds
  dsimp only
  split <;> split <;> exact ⟨rfl, rfl, rfl⟩

theorem State.slots_slotFrees (s : State) (t c n : Nat) :
    ((s.slotFrees t c n).core t c).slots = SMap.erase (s.core t c).slots n := by
  unfold State.slotFrees State.slotFreesAt State.offer
  rw [State.core_schedule, State.core_onCore_self]

/-- A strand in a barrel slot ends: it is gone, its slot is free, and no byte and no other strand changes (R70, R124). -/
theorem State.endStrand_of_slot {s : State} {u t c n : Nat} {x : Strand} (hr : SMap.rising s.strands = true)
    (hx : s.strand u = some x) (hpl : x.place = .slot t c n) :
    (s.endStrand u).strand u = none ∧ (∀ v, v ≠ u → (s.endStrand u).strand v = s.strand v) ∧
      ((s.endStrand u).core t c).slots = SMap.erase (s.core t c).slots n ∧ ∀ j, (s.endStrand u).byte j = s.byte j := by
  have heq : s.endStrand u = (s.remove u).handlerEnds x := by simp only [State.endStrand, hx]
  obtain ⟨hmem, hstrands, hcores⟩ := (s.remove u).handlerEnds_rest x
  rw [← heq] at hmem hstrands hcores
  have hleave : s.leave u = (s.onCore t c (fun k => { k with inSlot := k.inSlot.filter (· != u) })).slotFrees t c n := by
    simp only [State.leave, hx, hpl]
  have hgone : (s.endStrand u).strands = SMap.erase s.strands u := by
    rw [hstrands, State.remove, hleave]
    rfl
  refine ⟨?_, fun v hv => ?_, ?_, fun j => ?_⟩
  · rw [State.strand, hgone, SMap.find?_erase_self u hr]
  · rw [State.strand, hgone, SMap.find?_erase_ne hr hv]
    rfl
  · have hcore : (s.endStrand u).core t c = (s.leave u).core t c := by
      rw [State.core, hcores]
      rfl
    rw [hcore, hleave, State.slots_slotFrees, State.core_onCore_self]
  · rw [State.byte, hmem, State.remove, hleave]
    rfl

/-! ## The instruction -/

theorem SMap.mem_of_find? {α : Type} {m : SMap α} {i : Nat} {x : α} (h : SMap.find? m i = some x) : (i, x) ∈ m := by
  induction m with
  | nil => cases h
  | cons e m ih =>
    obtain ⟨k, v⟩ := e
    simp only [SMap.find?] at h
    split_ifs at h with hk
    · cases hk
      cases h
      exact List.mem_cons_self
    · exact List.mem_cons_of_mem _ (ih h)

/-- Strands are listed under rising numbers, and each has a number below the next. -/
theorem State.strandsOk_iff (s : State) :
    s.strandsOk ↔ SMap.rising s.strands = true ∧ ∀ e ∈ s.strands, e.1 < s.uids := by
  simp [State.strandsOk]

theorem State.rising_of_strandsOk {s : State} (h : s.strandsOk) : SMap.rising s.strands = true :=
  (s.strandsOk_iff.mp h).1

theorem State.ne_uids_of_strandsOk {s : State} (h : s.strandsOk) {u : Nat} {x : Strand} (hx : s.strand u = some x) :
    u ≠ s.uids :=
  Nat.ne_of_lt ((s.strandsOk_iff.mp h).2 _ (SMap.mem_of_find? hx))

/-- At the start of a `join` whose words are translated, whose strand's operations have all come back, and whose count lies on
the strand's tile without poison, the decrement is posted and the strand waits in its slot (R137). -/
theorem execJoin_joinPosted {s s1 s2 s3 : State} {u t c m : Nat} {x : Strand} {a : Reg} {g0 g1 g2 : Target}
    {o0 o1 o2 k0 k1 k2 : Nat} (hm : s.memoryOk) (hs : s.strandsOk) (hi : s.Issuing u x t c m) (hc : x.Clear [a] [])
    (hclaim : s.claims x.tile u = false) (hj : (x.reg a).toNat % 8 = 0) (hrel : s.released u x = true)
    (h0 : s.translate u x (x.reg a) permRW = .ok (.here g0 o0 k0, s1))
    (h1 : s1.translate u x (x.reg a + 8) permR = .ok (.here g1 o1 k1, s2))
    (h2 : s2.translate u x (x.reg a + 16) permR = .ok (.here g2 o2 k2, s3))
    (hsup : x.ctx.sup = false ∨ Config.hasSupervisor o0 = true) (ho : s.real o0 = x.tile)
    (hp : ∀ j, j < 8 → s.poisoned (k0 + j) = false) :
    ∃ s' at_, execJoin a s = .next s' ∧ s.JoinPosted s' u
      { (x.posting (targetClass g0) x.tile).joining with nextAt := at_ } k0 x.ctx.pseq.toNat := by
  obtain ⟨l, rfl⟩ : ∃ l, s3 = { s with tiles := l } := by
    obtain ⟨l1, rfl⟩ := State.translate_tiles h0
    obtain ⟨l2, rfl⟩ := State.translate_tiles h1
    obtain ⟨l3, rfl⟩ := State.translate_tiles h2
    exact ⟨l3, rfl⟩
  have hcheck : claimCheck u x s = none := by simp [claimCheck, hclaim]
  have hr := State.rising_of_strandsOk hs
  have hu := State.ne_uids_of_strandsOk hs hi.strand
  have hwhole : s.anyPoison k0 8 = false := by simpa [State.anyPoison] using hp
  have hbody := joinAt_eq_post hi.start hj h0 h1 h2 hsup hrel
  have hreal := (State.real_congr (s' := { s with tiles := l }) (s := s) rfl o0).trans ho
  have hposted := State.post_join_joinPosted (s := { s with tiles := l }) hm hr hi.strand hu hreal hwhole g0 g1 g2
    (x.reg a) ⟨x.ctx.tvec, x.ctx.plim, x.ctx.pmin, x.ctx.phold⟩
  have hdone := (hposted.onStrand Strand.joining).took t c m
  refine ⟨_, _, ?_, ⟨hdone.strand, hdone.others, ⟨hdone.count.count, hdone.count.others⟩, hdone.due⟩⟩
  unfold execJoin
  rw [issueAfter_clear hi.focus hi.strand hi.place hcheck hc hc, hbody, hi.start]
  rfl

/-- A `join` whose decrement is acknowledged ends its strand (R124, R137). -/
theorem execJoin_acknowledged {s : State} {u t c m : Nat} {x : Strand} {a : Reg} (hf : s.focus = u)
    (hx : s.strand u = some x) (hpl : x.place = .slot t c m) (hc : x.Clear [a] []) (hph : x.prog.phase = 1)
    (hpost : x.posted = []) : execJoin a s = .next (s.endStrand u) := by
  have hcheck : claimCheck u x s = none := by simp [claimCheck, hph]
  have hbody : joinAt (x.reg a) u x s = .ok (s.endStrand u) := by simp [joinAt, hph, hpost]
  unfold execJoin
  rw [issueAfter_clear hf hx hpl hcheck hc hc, hbody, hph]
  rfl

/-- Settles O20: a new lineage passes the mask of `setlin` when it keeps the bits that the old one fixes
(`xor_and_lineageMask_eq_zero`); a `join` posts its decrement (`execJoin_joinPosted`) and, once that is acknowledged, ends its
strand (`execJoin_acknowledged`, `State.endStrand_of_slot`). -/
theorem joinAndSetlinExecute : Obligations.JoinAndSetlinExecute := by
  unfold Obligations.JoinAndSetlinExecute
  refine ⟨fun a s u x t c m hi hc => ?_, fun a s u x t c m hm hs hf hx hpl hc => ⟨?_, fun hph hpost => ?_⟩⟩
  · have hwithin := xor_and_lineageMask_eq_zero ((x.reg a).setWidth 16) x.ctx.lin
    exact ⟨fun h => execSetlin_retiredAs hi hc (hwithin.mpr h),
      fun h hv => execSetlin_trappedAs hi hc hv (mt hwithin.mp h)⟩
  · intro hph hclaim hj hrel g0 g1 g2 o0 o1 o2 k0 k1 k2 s1 s2 s3 h0 h1 h2 hsup ho hp
    obtain ⟨s', at_, hexec, hposted⟩ :=
      execJoin_joinPosted hm hs ⟨hf, hx, hpl, hph⟩ hc hclaim hj hrel h0 h1 h2 hsup ho hp
    exact ⟨s', _, hexec, hposted.strand, rfl, rfl, rfl, rfl, hposted.count.count, hposted.count.others, hposted.others,
      hposted.due⟩
  · exact ⟨_, execJoin_acknowledged hf hx hpl hc hph hpost,
      State.endStrand_of_slot (State.rising_of_strandsOk hs) hx hpl⟩

end Sys2Proof.Machine
end

section
/-! SUPPORT. Supervisor-only instructions (R41, R108, R273): each issues by `issueSup`, which in user mode traps before any
register counts; and `tret` (R274). -/

namespace Sys2Proof.Machine
open Sys2Proof

/-! ## Supervisor-only instructions in user mode (R41, R273) -/

/-- An instruction that names no register waits for none and meets no poison. -/
theorem Strand.clear_nil (x : Strand) : x.Clear [] [] := ⟨by simp, by simp⟩

/-- An access to a supervisor CSR issues as a supervisor instruction does (R108). -/
theorem issueCsr_of_supervisor {c : BitVec 14} (h : 0x800 ≤ c.toNat) (rd wr : List Reg)
    (body : Nat → Strand → State → Act) (s : State) : issueCsr c rd wr body s = issueSup rd wr body s := if_pos h

/-- Every supervisor-only instruction issues by `issueSup`. -/
theorem exec_of_supervisorOnly {i : Instr} (h : supervisorOnly i = true) (s : State) :
    ∃ rd wr body, exec i s = issueSup rd wr body s := by
  cases i with
  | csrr | csrw | csrs | csrc => exact ⟨_, _, _, issueCsr_of_supervisor (of_decide_eq_true h) _ _ _ s⟩
  | tret | tlbi | tlbia | cwb | cinv | domset => exact ⟨_, _, _, rfl⟩
  | preemptSave | preemptRestore | preemptReset | pack | prest | sres | sredir => exact ⟨_, _, _, rfl⟩
  | mcset | mcclr | fres | fabt => exact ⟨_, _, _, rfl⟩
  | _ => nomatch h

/-- In user mode `issueSup` traps with the word, whatever registers and meaning the instruction has (R41). -/
theorem issueSup_user {s : State} {u t c n : Nat} {x : Strand} (hi : s.Issuing u x t c n) (hs : x.ctx.sup = false)
    (rd wr : List Reg) (body : Nat → Strand → State → Act) :
    issueSup rd wr body s = .next (finish u t c n false (trapAct s 1 (toWord s.word))) := by
  unfold issueSup
  simp only [hi.focus, hi.strand, hs, Bool.false_eq_true, if_false]
  exact issue_clear hi x.clear_nil

/-- A supervisor-only instruction in user mode takes cause 0x01 with its word, and changes nothing else (R41, R273). -/
theorem exec_supervisorOnly_trappedAs {s : State} {u t c n : Nat} {x : Strand} {i : Instr} (hi : s.Issuing u x t c n)
    (h : supervisorOnly i = true) (hs : x.ctx.sup = false) (hv : x.ctx.tvec ≠ 0) :
    ∃ s', exec i s = .next s' ∧ s.TrappedAs s' u t c n x 1 (s.word.setWidth 64) := by
  obtain ⟨rd, wr, body, hexec⟩ := exec_of_supervisorOnly h s
  have huser : toSupervisor 1 (toWord s.word) false = false := rfl
  exact ⟨_, hexec.trans (issueSup_user hi hs rd wr body), trappedAs_of_trapAct hi hv (.inr huser) (by decide)⟩

/-! ## tret (R274) -/

/-- The two bits that `tret` checks are the pc modulo 4. -/
theorem lowBits_bne_zero_iff (pc : BitVec 48) : (pc.extractLsb' 0 2 != 0) = true ↔ pc.toNat % 4 ≠ 0 := by
  simp [BitVec.toNat_eq]

/-- In supervisor mode `tret` does what returning from a trap does. -/
theorem execTret_supervisor {s : State} {u t c n : Nat} {x : Strand} (hi : s.Issuing u x t c n)
    (hs : x.ctx.sup = true) : exec .tret s = .next (finish u t c n false (s.returnFromTrap u x)) :=
  issueSup_clear hi hs x.clear_nil

/-- An instruction that changes nothing of its strand but the pc, to `pc`, and retires. -/
theorem retiredAs_retireTo {s : State} {u t c n : Nat} {x : Strand} (hi : s.Issuing u x t c n) (pc : BitVec 48) :
    s.RetiredAs (finish u t c n false (.ok (s.retireTo u pc))) u t c n x pc := by
  simpa only [State.onStrand_id, id_eq] using retiredAs_of_strand hi id pc

/-- With an aligned `tpc` the strand goes on there (R274). -/
theorem execTret_retiredAs {s : State} {u t c n : Nat} {x : Strand} (hi : s.Issuing u x t c n)
    (hs : x.ctx.sup = true) (h : x.ctx.tpc.toNat % 4 = 0) :
    ∃ s', exec .tret s = .next s' ∧ s.RetiredAs s' u t c n x x.ctx.tpc := by
  have hret : s.returnFromTrap u x = .ok (s.retireTo u x.ctx.tpc) :=
    if_neg (fun hb => (lowBits_bne_zero_iff _).mp hb h)
  exact ⟨_, execTret_supervisor hi hs, hret ▸ retiredAs_retireTo hi x.ctx.tpc⟩

/-- A misaligned `tpc` is cause 0x02 with it (R274). -/
theorem execTret_trappedAs {s : State} {u t c n : Nat} {x : Strand} (hi : s.Issuing u x t c n)
    (hs : x.ctx.sup = true) (h : x.ctx.tpc.toNat % 4 ≠ 0) (hv : x.ctx.tvec ≠ 0) :
    ∃ s', exec .tret s = .next s' ∧ s.TrappedAs s' u t c n x 2 (x.ctx.tpc.setWidth 64) := by
  have hret : s.returnFromTrap u x = trapAct s 2 (toWord x.ctx.tpc) := if_pos ((lowBits_bne_zero_iff _).mpr h)
  exact ⟨_, execTret_supervisor hi hs, hret ▸ trappedAs_of_trapAct hi hv (.inl hs) (by decide)⟩

/-- Settles O41: every supervisor-only instruction issues by `issueSup`, which traps in user mode
(`exec_supervisorOnly_trappedAs`); `tret` goes on at an aligned `tpc` (`execTret_retiredAs`) and traps at another
(`execTret_trappedAs`). -/
theorem privilegedInstructions : Obligations.PrivilegedInstructions := by
  unfold Obligations.PrivilegedInstructions
  intro s u x t c n hi
  exact ⟨fun i h hs hv => exec_supervisorOnly_trappedAs hi h hs hv, execTret_retiredAs hi, execTret_trappedAs hi⟩

end Sys2Proof.Machine
end
